-- ==== Sys2Proof/Word.lean ====
section
/-! DEFINITION. The word types of the IB-696: what the manual treats as bits. -/

namespace Sys2Proof

/-- One byte of a frame or record. -/
abbrev Byte := BitVec 8

/-- Screen time (ST) and presentation time (PT): a 32-bit count that wraps (00_scope, Screen time). -/
abbrev ScreenTime := BitVec 32

/-- The 16-bit frame check of R2. -/
abbrev FrameCheck := BitVec 16

/-- One of the six screens. -/
abbrev ScreenNo := Fin 6

/-- One of the twelve amplifier lanes. -/
abbrev LaneNo := Fin 12

/-- One of the 32 stream entries. -/
abbrev EntryNo := Fin 32

/-- One of the 16 presets. -/
abbrev PresetNo := Fin 16

/-- One of the 256 cues. -/
abbrev CueNo := Fin 256

/-- A feed within its screen, 0..15. -/
abbrev FeedNo := Fin 16

/-- An input channel within its screen, 0..7. -/
abbrev ChannelNo := Fin 8

/-- An alarm record within its screen, the k of R133. -/
abbrev RecordNo := Fin 58

end Sys2Proof
end

