-- ==== Sys2Proof/Syntax.lean ====
section
/-! DEFINITION. The commands of the IB-696: one constructor of `Instr` per row of spec/opcode_table.json,
with the records its operands carry. -/

namespace Sys2Proof

/-! ## Named values (R4: the first value listed by the owning chapter has code 0) -/

/-- R5, R20. -/
inductive ByteOrder | msbFirst | lsbFirst
  deriving DecidableEq, Repr

/-- R20, R30. -/
inductive TimingMode | timed | arrival
  deriving DecidableEq, Repr

/-- R67. -/
inductive FillMode | none | mute | fill
  deriving DecidableEq, Repr

/-- R85. -/
inductive Bank | a | b
  deriving DecidableEq, Repr

/-- R109. -/
inductive PatternKind | off | noise | tone
  deriving DecidableEq, Repr

/-- R52. -/
inductive ClockMode | referenced | selfTimed
  deriving DecidableEq, Repr

/-- R151. -/
inductive Trigger | atTime | onMarker | after | manual
  deriving DecidableEq, Repr

/-- R151. -/
inductive CueAction
  | preset | fade | mute | unmute | source | prime | bank | pattern | check | stopCheck | notify
  deriving DecidableEq, Repr

/-- R133, R141. -/
inductive AlarmAction | none | fill | reduce | muteFeed | holdCues
  deriving DecidableEq, Repr

/-- R173. -/
inductive TallyScope | port | entry | screen | feed | lane
  deriving DecidableEq, Repr

/-- R7: the tables READ and WRITE address. -/
inductive Table | stream | preset | eqbank | cue | profile | wave | screen | feed
  deriving DecidableEq, Repr

/-! ## Records -/

/-- R22: what a STREAM write carries. -/
structure StreamWrite where
  number   : Nat
  screen   : Nat
  channels : Nat
  order    : ByteOrder
  timing   : TimingMode
  deriving DecidableEq, Repr

/-- R67: one fill entry. Donor b and its coefficient are one optional pair. -/
structure FillEntry where
  mode   : FillMode
  donorA : Nat
  coefA  : Int
  donorB : Option (Nat × Int)
  deriving DecidableEq, Repr

/-- R67: a preset record. Coefficients are Q2.14 codes. -/
structure Preset where
  used      : Bool
  channels  : Nat
  monitored : BitVec 8
  feedSet   : BitVec 16
  matrix    : Vector (Vector Int 8) 16
  fill      : Vector FillEntry 8
  deriving DecidableEq, Repr

/-- R85: the five Q2.22 coefficient codes of a section. -/
structure Section where
  b0 : Int
  b1 : Int
  b2 : Int
  a1 : Int
  a2 : Int
  deriving DecidableEq, Repr

/-- R109: a pattern spec. -/
structure PatternSpec where
  kind  : PatternKind
  level : Int
  mask  : BitVec 16
  deriving DecidableEq, Repr

/-- R112: the parameters of a speaker check. -/
structure CheckSpec where
  kind        : PatternKind
  level       : Int
  dwell       : Nat
  passCount   : Nat
  returnFloor : Nat
  mask        : BitVec 16
  deriving DecidableEq, Repr

/-- R151: the written fields of a cue. -/
structure CueSpec where
  used         : Bool
  screen       : Nat
  trigger      : Trigger
  time         : ScreenTime
  markerCode   : Nat
  parent       : Nat
  delay        : Nat
  action       : CueAction
  preset       : Nat
  fadeTarget   : Nat
  fadeDuration : Nat
  entry        : Nat
  bank         : Bank
  pattern      : PatternSpec
  check        : CheckSpec
  notifyCode   : Nat
  catchUp      : Bool
  rearm        : Bool
  deriving DecidableEq, Repr

/-- R141: an alarm profile. -/
structure Profile where
  warnAfter   : Nat   -- N
  actAfter    : Nat   -- E
  clearAfter  : Nat   -- K
  action      : AlarmAction
  threshold   : Nat
  probeLevel  : Nat
  returnFloor : Nat
  reduce      : Nat
  deriving DecidableEq, Repr

/-- R169: the eleven settings of a SCREEN record, in the order they are carried. -/
structure ScreenSettings where
  phase            : Nat
  lateLimit        : Nat
  earlyLimit       : Nat
  clockMode        : ClockMode
  window           : Nat
  lockN            : Nat
  unlockN          : Nat
  referenceOffset  : Int
  referenceTimeout : Nat
  quota            : Nat
  meterInterval    : Nat
  deriving DecidableEq, Repr

/-! ## Commands -/

/-- One constructor per row of spec/opcode_table.json. The request rows carry the tag of their reply (R7) and
the index field of the envelope as the booth controller sent it. -/
inductive Instr
  -- the part, the trunk, the lanes and the boundaries
  | powerOn
  | frameArrival (frame : List Byte)
  | blockBoundary (screen : ScreenNo)
  | referenceTimeout (screen : ScreenNo)
  | meterDue (screen : ScreenNo)
  | checkComplete (screen : ScreenNo)
  | fadeEnd (screen : ScreenNo)
  | cueCountdownExpiry (cue : CueNo)
  | cueTimeDue (cue : CueNo)
  | markerDue (screen : ScreenNo)
  | laneRecordSent (lane : LaneNo)
  | senseRecordArrival (lane : LaneNo) (record : List Byte)
  | upstreamFrameSent
  -- requests
  | undefinedRequest (tag : Byte) (kind table index : Nat) (args : List Byte)
  | read (tag : Byte) (table : Table) (index : Nat)
  | writeStream (tag : Byte) (index : Nat) (record : StreamWrite)
  | writePreset (tag : Byte) (index : Nat) (record : Preset)
  | writeEqbank (tag : Byte) (index : Nat) (record : List Section)
  | writeCue (tag : Byte) (index : Nat) (record : CueSpec)
  | writeProfile (tag : Byte) (index : Nat) (record : Profile)
  | writeWave (tag : Byte) (index : Nat) (record : Vector Int 32)
  | writeScreen (tag : Byte) (index : Nat) (record : ScreenSettings)
  | writeFeed (tag : Byte) (index : Nat) (trim : Int)
  | screenReset (tag : Byte) (screen : Nat)
  | mute (tag : Byte) (screen : Nat)
  | unmute (tag : Byte) (screen : Nat)
  | setFader (tag : Byte) (screen fader : Nat)
  | fade (tag : Byte) (screen target duration : Nat)
  | setPreset (tag : Byte) (screen : Nat) (preset : Option Nat)
  | selectBank (tag : Byte) (screen : Nat) (bank : Bank)
  | prime (tag : Byte) (entry : Nat)
  | activate (tag : Byte) (entry : Nat)
  | deactivate (tag : Byte) (entry : Nat)
  | go (tag : Byte) (cue : Nat)
  | cancel (tag : Byte) (cue : Nat)
  | enable (tag : Byte) (cue : Nat)
  | ack (tag : Byte) (record : Nat)
  | pattern (tag : Byte) (screen : Nat) (spec : PatternSpec)
  | startCheck (tag : Byte) (screen : Nat) (spec : CheckSpec)
  | stopCheck (tag : Byte) (screen : Nat)
  | readStatus (tag : Byte) (screen : Nat)
  | listAlarms (tag : Byte) (screen : Nat)
  | readTally (tag : Byte) (subject : Nat) (scope : TallyScope) (clear : Bool)
  | readMeter (tag : Byte) (screen : Nat) (reset : Bool)
  | readCheck (tag : Byte) (screen : Nat)
  | readSense (tag : Byte) (feed : Nat)
  deriving DecidableEq, Repr

end Sys2Proof
end

