-- ==== Sys2Proof/Decode.lean ====
section
/-! DEFINITION. Words as the opcode table numbers them. The table gives no row any bits (every row's "fields"
is empty and none has "fixed"), so no word spells a command. A frame's bytes are read in Machine/Operands.lean. -/

namespace Sys2Proof

/-- The command a word of the opcode table spells: none, since no row gives bits. -/
def decodeTableWord (_nbits _w : Nat) : Option Instr := none

end Sys2Proof
end

