-- ==== Sys2Proof/Config.lean ====
section
/-! DEFINITION. The constants of the IB-696. The spec leaves no value open, so there is no free value here. -/

namespace Sys2Proof.Config

/-- R28: slots of the Block Pool. -/
abbrev poolSlots : Nat := 192

/-- R174: frames the Report Queue holds. -/
abbrev reportDepth : Nat := 32

/-- R166: frames the request queue holds. -/
abbrev requestDepth : Nat := 16

/-- R153: markers a marker list holds. -/
abbrev markerDepth : Nat := 8

/-- R120: lane block records a transmit queue holds. -/
abbrev transmitDepth : Nat := 2

/-- Sample periods in a block (00_scope, Terms). -/
abbrev blockLength : Nat := 48

/-- The saturation limit of every 16-bit tally and count. -/
abbrev tallyMax : Nat := 65535

/-- Full scale, 2^23. -/
abbrev fullScale : Nat := 8388608

/-- The least and greatest sample value (00_scope, Samples and word widths). -/
abbrev sampleMin : Int := -8388608
abbrev sampleMax : Int := 8388607

/-- The least and greatest feed word (R87). -/
abbrev wordMin : Int := -2147483648
abbrev wordMax : Int := 2147483647

/-- R103: the mantissa table, m_0 to m_11. -/
def mantissas : List Int :=
  [8388608, 8887421, 9415894, 9975792, 10568984, 11197448,
   11863283, 12568711, 13316085, 14107901, 14946800, 15835583]

/-- R2: the low 16 bits of x^16 + x^12 + x^5 + 1. -/
abbrev checkPoly : BitVec 16 := 0x1021#16

/-- R2: the starting value of the check register. -/
abbrev checkSeed : BitVec 16 := 0xFFFF#16

end Sys2Proof.Config
end

