-- ==== Sys2Proof/Machine/State.lean ====
section
/-! DEFINITION. The state of the IB-696, its outcome reasons, and the state after reset. State is grouped by the
functional block that owns it (00_scope, Functional Description). -/

namespace Sys2Proof.Machine

/-- Why a step could stop. -/
inductive Fault
  /-- The word clock is absent: 00_scope says that audio behaviour is then not specified. No command of the table
  raises it, and the model's word clock is always present; the reason is named so that the type is not empty. Safe. -/
  | wordClockAbsent
  deriving DecidableEq, Repr

/-- Why a command could have no meaning. -/
inductive Refusal
  /-- A command of the table that the model gives no meaning: raised by its arm of `exec` alone. No arm does. Safe. -/
  | notModelled (mnemonic : String)
  deriving DecidableEq, Repr

/-! ## Named values -/

/-- R20. -/
inductive EntryState | unused | inactive | primed | active
  deriving DecidableEq, Repr

/-- R27, in its order. -/
inductive EntryTally
  | accepted | seqGap | short | long | format | duplicate | stale | late | farEarly | pruned
  | quotaDrop | poolDrop | refIgnored
  deriving DecidableEq, Repr

/-- R19, in its order. -/
inductive PortTally | checkFail | badKind | unknownStream | inactiveDrop | manageDrop
  deriving DecidableEq, Repr

/-- R173, scope SCREEN, in its order. -/
inductive ScreenTally | underrun | waited | step | slip | refBad | markerStale | markerDrop
  deriving DecidableEq, Repr

/-- R36. -/
inductive ScreenMode | show | check
  deriving DecidableEq, Repr

/-- R54. -/
inductive ClockState | unreferenced | acquiring | locked | holdover
  deriving DecidableEq, Repr

/-- R116. -/
inductive ResultState | untested | running | pass | fail | skipped
  deriving DecidableEq, Repr

/-- R120. -/
inductive LaneOutcome | none | received | lost
  deriving DecidableEq, Repr

/-- R133. -/
inductive AlarmKind | chLoss | starve | refLost | overload | feedOpen | ampFault
  deriving DecidableEq, Repr

/-- R133. -/
inductive AlarmState | normal | warning | acked | action
  deriving DecidableEq, Repr

/-- R151. -/
inductive CueState | empty | pending | armed | fired | missed | disabled
  deriving DecidableEq, Repr

/-- R151. -/
inductive CueFault | none | badPreset | badSource | checkBusy | noCheck
  deriving DecidableEq, Repr

/-- R9. -/
inductive NoticeKind | alarm | clock | cue | cueFault | checkDone
  deriving DecidableEq, Repr

/-- R8. -/
inductive Result
  | ok | okClamped | badRequest | badTable | badIndex | badValue | inUse | busy | empty | notRaised
  deriving DecidableEq, Repr

/-! ## Shared blocks -/

/-- R28: a program block in a slot. `samples` holds one list of 48 values per channel. `entry` is the stream
entry the block came from; its screen and queue are those it stands in. -/
structure Block where
  pt       : ScreenTime
  present  : BitVec 8
  channels : Nat
  samples  : List (List Int)
  entry    : EntryNo
  deriving DecidableEq, Repr

/-- R20: a stream entry. -/
structure StreamEntry where
  number   : Nat
  screen   : ScreenNo
  channels : Nat
  order    : ByteOrder
  timing   : TimingMode
  state    : EntryState
  lastSeq  : Option Byte
  tallies  : Vector Nat 13
  deriving DecidableEq, Repr

/-- R151: a cue, its written fields and the four the Cue Engine keeps. -/
structure Cue where
  spec      : CueSpec
  state     : CueState
  countdown : Option Nat
  lastFault : Option CueFault
  go        : Bool
  deriving DecidableEq, Repr

/-- A request past its envelope (R167), or the envelope's failure. The envelope reads no state, so it is judged
when the frame is handed on and the queue holds its verdict. -/
inductive Request
  | rejected (result : Result)
  | read (table : Table) (index : Nat)
  | writeStream (index : Nat) (record : StreamWrite)
  | writePreset (index : Nat) (record : Preset)
  | writeEqbank (index : Nat) (record : List Section)
  | writeCue (index : Nat) (record : CueSpec)
  | writeProfile (index : Nat) (record : Profile)
  | writeWave (index : Nat) (record : Vector Int 32)
  | writeScreen (index : Nat) (record : ScreenSettings)
  | writeFeed (index : Nat) (trim : Int)
  | screenReset (screen : Nat)
  | mute (screen : Nat)
  | unmute (screen : Nat)
  | setFader (screen fader : Nat)
  | fade (screen target duration : Nat)
  | setPreset (screen : Nat) (preset : Option Nat)
  | selectBank (screen : Nat) (bank : Bank)
  | prime (entry : Nat)
  | activate (entry : Nat)
  | deactivate (entry : Nat)
  | go (cue : Nat)
  | cancel (cue : Nat)
  | enable (cue : Nat)
  | ack (record : Nat)
  | pattern (screen : Nat) (spec : PatternSpec)
  | startCheck (screen : Nat) (spec : CheckSpec)
  | stopCheck (screen : Nat)
  | readStatus (screen : Nat)
  | listAlarms (screen : Nat)
  | readTally (subject : Nat) (scope : TallyScope) (clear : Bool)
  | readMeter (screen : Nat) (reset : Bool)
  | readCheck (screen : Nat)
  | readSense (feed : Nat)
  deriving DecidableEq, Repr

/-- R8: a reply, its record as the bytes R4 gives it. -/
structure Reply where
  tag    : Byte
  result : Result
  record : List Byte
  deriving DecidableEq, Repr

/-- R9: a notice. -/
structure Notice where
  kind    : NoticeKind
  screen  : ScreenNo
  subject : Nat
  state   : Nat
  valueA  : Nat
  valueB  : Int
  st      : ScreenTime
  deriving DecidableEq, Repr

/-- R10: a meter frame. -/
structure MeterFrame where
  screen   : ScreenNo
  st       : ScreenTime
  clock    : ClockState
  feeds    : Vector Nat 16
  channels : Vector Nat 8
  deriving DecidableEq, Repr

/-- R3, R174: an upstream frame in the Report Queue. -/
inductive UpFrame
  | reply (r : Reply)
  | notice (n : Notice)
  | meter (m : MeterFrame)
  deriving DecidableEq, Repr

/-! ## Per-screen blocks -/

/-- R28, R35, R36: the Playout Scheduler context. `nextBoundary` is the word-clock count at which the next
boundary falls; `voidedAt` is the count of a phase write that withdrew a boundary falling at that count. -/
structure Playout where
  program      : List Block
  standby      : List Block
  resync       : Bool
  mode         : ScreenMode
  nextBoundary : Nat
  voidedAt     : Option Nat
  deriving DecidableEq, Repr

/-- R49, R54: a Screen Clock. -/
structure Clock where
  base           : ScreenTime
  elapsed        : Nat
  state          : ClockState
  inWindow       : Nat
  outWindow      : Nat
  slip           : Int
  sinceReference : Nat
  deriving DecidableEq, Repr

/-- R69: a latched preset, the copy of the record together with its index. -/
structure LatchedPreset where
  index  : PresetNo
  preset : Preset
  deriving DecidableEq, Repr

/-- R69: the Render Engine's selection of one screen. -/
structure Render where
  selection : Option PresetNo
  latched   : Option LatchedPreset
  deriving DecidableEq, Repr

/-- R94: a running fade: f0, ft, D and k. -/
structure Fade where
  start    : Nat
  target   : Nat
  duration : Nat
  count    : Nat
  deriving DecidableEq, Repr

/-- R85, R94: the Feed Processor's context of one screen. -/
structure Level where
  fader     : Nat
  fade      : Option Fade
  muted     : Bool
  requested : Bank
  deriving DecidableEq, Repr

/-- R85, R88: a section of a bank with its history. -/
structure EqSection where
  coeffs : Section
  x1     : Int
  x2     : Int
  y1     : Int
  y2     : Int
  deriving DecidableEq, Repr

/-- R85, R88, R93, R130, R131: one feed. -/
structure Feed where
  bankA   : List EqSection
  bankB   : List EqSection
  active  : Bank
  trim    : Int
  eqSat   : Nat
  hold    : Nat
  sentOne : Nat
  sentTwo : Nat
  deriving DecidableEq, Repr

/-- R105, R116: the check record. -/
structure CheckRecord where
  running : Bool
  spec    : CheckSpec
  feeds   : List FeedNo
  count   : Option Nat
  deriving DecidableEq, Repr

/-- R116: an entry of the result table. -/
structure ResultEntry where
  state   : ResultState
  hits    : Nat
  maxPeak : Nat
  deriving DecidableEq, Repr

/-- R105: the Signal Generator of one screen. -/
structure Signal where
  noise     : BitVec 23
  tonePhase : Fin 32
  pattern   : Option PatternSpec
  check     : CheckRecord
  results   : Vector ResultEntry 16
  deriving DecidableEq, Repr

/-- R12, R121: a lane block record: its count and the 48 samples of each of eight lane feeds. -/
structure LaneRecord where
  count   : BitVec 16
  samples : Vector (List Int) 8
  deriving DecidableEq, Repr

/-- R12: one lane feed of a sense record. -/
structure SenseReturn where
  peak    : Nat
  protect : Bool
  thermal : Bool
  deriving DecidableEq, Repr

/-- R120: an awaiting entry and its sense slot. -/
structure Awaiting where
  count : BitVec 16
  slot  : Option (Vector SenseReturn 8)
  deriving DecidableEq, Repr

/-- R120: the last sense of a lane feed. -/
structure LastSense where
  count   : BitVec 16
  reading : SenseReturn
  deriving DecidableEq, Repr

/-- R120: the sense view of a lane feed. -/
structure SenseView where
  outcome      : LaneOutcome
  outcomeCount : Option (BitVec 16)
  last         : Option LastSense
  deriving DecidableEq, Repr

/-- R120: a lane. -/
structure Lane where
  nextCount : BitVec 16
  transmit  : List LaneRecord
  awaiting  : List Awaiting
  miss      : Nat
  seqErrors : Nat
  views     : Vector SenseView 8
  deriving DecidableEq, Repr

/-- R133: a recorded action with its amount. -/
structure Recorded where
  action : AlarmAction
  amount : Nat
  deriving DecidableEq, Repr

/-- R133: an alarm record. Kind and subject follow from its number. -/
structure AlarmRecord where
  state       : AlarmState
  run         : Nat
  clear       : Nat
  recorded    : Option Recorded
  acked       : Bool
  raised      : Option ScreenTime
  occurrences : Nat
  deriving DecidableEq, Repr

/-- R153: a marker. -/
structure Marker where
  pt   : ScreenTime
  code : Nat
  deriving DecidableEq, Repr

/-- Everything one screen owns. Feed f = 16s + k is `feeds[k]` of screen s (00_scope), lane 2s + l is `lanes[l]`
(R120), alarm record 58s + k is `records[k]` (R133), profile 6s + k is `profiles[k]` (R141). -/
structure Screen where
  settings     : ScreenSettings
  playout      : Playout
  tallies      : Vector Nat 7
  clock        : Clock
  render       : Render
  level        : Level
  feeds        : Vector Feed 16
  signal       : Signal
  lanes        : Vector Lane 2
  channelHolds : Vector Nat 8
  meterCount   : Nat
  records      : Vector AlarmRecord 58
  profiles     : Vector Profile 6
  markers      : List Marker
  noticeLost   : Bool
  deriving DecidableEq, Repr

/-- The whole part, and the queue of commands waiting for it. -/
structure State where
  pending     : List Instr
  wordClock   : Nat
  screens     : Vector Screen 6
  entries     : Vector StreamEntry 32
  freeSlots   : Nat
  portTallies : Vector Nat 5
  presets     : Vector Preset 16
  tone        : Vector Int 32
  cues        : Vector Cue 256
  requests    : List (Byte × Request)
  replySlot   : Option Reply
  reports     : List UpFrame
  upSeq       : Byte
  sendingSeq  : Option Byte
  deriving DecidableEq, Repr

/-! ## Reset values -/

/-- R20: an entry at power-on. -/
def StreamEntry.powerOn : StreamEntry :=
  { number := 0, screen := 0, channels := 1, order := .msbFirst, timing := .timed, state := .unused,
    lastSeq := none, tallies := Vector.replicate 13 0 }

/-- R67: the empty preset. -/
def Preset.powerOn : Preset :=
  { used := false, channels := 1, monitored := 0, feedSet := 0,
    matrix := Vector.replicate 16 (Vector.replicate 8 0),
    fill := Vector.replicate 8 { mode := .none, donorA := 0, coefA := 0, donorB := none } }

/-- R151: every written field of an EMPTY cue is 0 or its first named value. -/
def CueSpec.powerOn : CueSpec :=
  { used := false, screen := 0, trigger := .atTime, time := 0, markerCode := 0, parent := 0, delay := 0,
    action := .preset, preset := 0, fadeTarget := 0, fadeDuration := 0, entry := 0, bank := .a,
    pattern := { kind := .off, level := 0, mask := 0 },
    check := { kind := .off, level := 0, dwell := 0, passCount := 0, returnFloor := 0, mask := 0 },
    notifyCode := 0, catchUp := false, rearm := false }

/-- R151: an EMPTY cue. -/
def Cue.powerOn : Cue :=
  { spec := CueSpec.powerOn, state := .empty, countdown := none, lastFault := none, go := false }

/-- R35, R52, R132: the settings at power-on. -/
def ScreenSettings.powerOn : ScreenSettings :=
  { phase := 0, lateLimit := 480, earlyLimit := 4800, clockMode := .selfTimed, window := 24, lockN := 4,
    unlockN := 3, referenceOffset := 0, referenceTimeout := 1000, quota := 32, meterInterval := 0 }

/-- R28, R35, R36: for phase 0 the first boundary falls at count 48. -/
def Playout.powerOn : Playout :=
  { program := [], standby := [], resync := true, mode := .show, nextBoundary := 48, voidedAt := none }

/-- R54: SELF_TIMED, so UNREFERENCED; ST and every counter 0. -/
def Clock.powerOn : Clock :=
  { base := 0, elapsed := 0, state := .unreferenced, inWindow := 0, outWindow := 0, slip := 0,
    sinceReference := 0 }

/-- R85, R88, R93, R130, R131. -/
def Feed.powerOn : Feed :=
  { bankA := [], bankB := [], active := .a, trim := 0, eqSat := 0, hold := 0, sentOne := 0, sentTwo := 0 }

/-- R116: the check record at power-on. The feed mask is 0 (DESIGN CHOICE, log entry 9: R116 does not list it). -/
def CheckRecord.powerOn : CheckRecord :=
  { running := false,
    spec := { kind := .noise, level := 0, dwell := 8, passCount := 1, returnFloor := 1, mask := 0 },
    feeds := [], count := none }

/-- R105. -/
def Signal.powerOn : Signal :=
  { noise := 1, tonePhase := 0, pattern := none, check := CheckRecord.powerOn,
    results := Vector.replicate 16 { state := .untested, hits := 0, maxPeak := 0 } }

/-- R120. -/
def Lane.powerOn : Lane :=
  { nextCount := 0, transmit := [], awaiting := [], miss := 0, seqErrors := 0,
    views := Vector.replicate 8 { outcome := .none, outcomeCount := none, last := none } }

/-- R133. -/
def AlarmRecord.powerOn : AlarmRecord :=
  { state := .normal, run := 0, clear := 0, recorded := none, acked := false, raised := none, occurrences := 0 }

/-- R141. -/
def Profile.powerOn : Profile :=
  { warnAfter := 8, actAfter := 0, clearAfter := 8, action := .none, threshold := 8388608,
    probeLevel := 262144, returnFloor := 64, reduce := 12 }

/-- A screen at power-on. -/
def Screen.powerOn : Screen :=
  { settings := ScreenSettings.powerOn, playout := Playout.powerOn, tallies := Vector.replicate 7 0,
    clock := Clock.powerOn, render := { selection := none, latched := none },
    level := { fader := 70, fade := none, muted := true, requested := .a },
    feeds := Vector.replicate 16 Feed.powerOn, signal := Signal.powerOn,
    lanes := Vector.replicate 2 Lane.powerOn, channelHolds := Vector.replicate 8 0, meterCount := 0,
    records := Vector.replicate 58 AlarmRecord.powerOn, profiles := Vector.replicate 6 Profile.powerOn,
    markers := [], noticeLost := false }

/-- The part on release of the reset input (00_scope; each block's chapter), with no command waiting. -/
def State.reset : State :=
  { pending := [], wordClock := 0, screens := Vector.replicate 6 Screen.powerOn,
    entries := Vector.replicate 32 StreamEntry.powerOn, freeSlots := 192,
    portTallies := Vector.replicate 5 0, presets := Vector.replicate 16 Preset.powerOn,
    tone := Vector.replicate 32 0, cues := Vector.replicate 256 Cue.powerOn, requests := [],
    replySlot := none, reports := [], upSeq := 0, sendingSeq := none }

end Sys2Proof.Machine
end

