-- ==== Sys2Proof/Machine/Ops.lean ====
section
/-! DEFINITION. Arithmetic of the manual's conventions (00_scope), the frame check of R2, tables over fixed index
ranges, and the named updates of State through which every rule writes. A block has no exception entry. -/

namespace Sys2Proof.Machine

/-! ## Tables -/

/-- The list of `f 0 .. f (k-1)` in front of `acc`. -/
def tabulateFrom {α : Type} {n : Nat} (f : Fin n → α) : (k : Nat) → k ≤ n → List α → List α
  | 0, _, acc => acc
  | k + 1, h, acc => tabulateFrom f k (Nat.le_of_succ_le h) (f ⟨k, h⟩ :: acc)

theorem tabulateFrom_length {α : Type} {n : Nat} (f : Fin n → α) :
    ∀ (k : Nat) (h : k ≤ n) (acc : List α), (tabulateFrom f k h acc).length = k + acc.length
  | 0, _, _ => by simp [tabulateFrom]
  | k + 1, h, acc => by
      simp only [tabulateFrom, tabulateFrom_length f k _ _, List.length_cons]
      omega

/-- The list of all values of `f`, index 0 first. -/
def tabulateList {α : Type} {n : Nat} (f : Fin n → α) : List α := tabulateFrom f n (Nat.le_refl n) []

/-- The table whose entry `i` is `f i`. -/
def tabulate {α : Type} {n : Nat} (f : Fin n → α) : Vector α n :=
  ⟨⟨tabulateList f⟩, by simp [tabulateList, tabulateFrom_length]⟩

/-- All indexes of a table in ascending order. -/
def indexes (n : Nat) : List (Fin n) := tabulateList id

/-- Entry `i` changed by `f`, every other entry kept. -/
def adjust {α : Type} {n : Nat} (v : Vector α n) (i : Fin n) (f : α → α) : Vector α n :=
  v.set i.val (f v[i]) i.isLt

/-! ## Numbers -/

/-- A 16-bit saturating count raised by `k`. -/
def satAdd (n k : Nat) : Nat := min (n + k) Config.tallyMax

/-- A 16-bit saturating count raised by 1. -/
def satInc (n : Nat) : Nat := satAdd n 1

/-- Saturation to lo..hi (00_scope). -/
def clampNat (lo hi n : Nat) : Nat := max lo (min hi n)

/-- Saturation to lo..hi (00_scope). -/
def clampInt (lo hi v : Int) : Int := max lo (min hi v)

/-- Round half up of v / 2^k, k at least 1 (00_scope). -/
def roundShift (v : Int) (k : Nat) : Int := (v + 2 ^ (k - 1)) / 2 ^ k

/-- Saturation to the sample range. -/
def satSample (v : Int) : Int := clampInt Config.sampleMin Config.sampleMax v

/-- Saturation to the feed word range. -/
def satWord (v : Int) : Int := clampInt Config.wordMin Config.wordMax v

/-- The signed difference a - b of two screen times (00_scope). -/
def signedDiff (a b : ScreenTime) : Int := (a - b).toInt

/-- R103: the mantissa m_r. -/
def mantissa (r : Nat) : Int := Config.mantissas.getD r 0

/-- R103, R108: the mantissa method: floor division of the code by 12, then (v · m_r + 2^(22−q)) >> (23−q). -/
def scaleByCode (code v : Int) : Int :=
  roundShift (v * mantissa (code % 12).toNat) (23 - code / 12).toNat

/-- The largest magnitude in a list (R129, R130). -/
def peakOf (vs : List Int) : Nat := vs.foldl (fun m v => max m v.natAbs) 0

/-! ## The frame check -/

/-- R2: one bit of the check register. -/
def checkBit (c : FrameCheck) : FrameCheck :=
  if c.msb then (c <<< 1) ^^^ Config.checkPoly else c <<< 1

/-- R2: one byte, most-significant bit first. -/
def checkByte (c : FrameCheck) (b : Byte) : FrameCheck :=
  checkBit (checkBit (checkBit (checkBit (checkBit (checkBit (checkBit (checkBit
    (c ^^^ (b.setWidth 16 <<< 8)))))))))

/-- R2: the frame check of a run of bytes. -/
def frameCheck (bytes : List Byte) : FrameCheck := bytes.foldl checkByte Config.checkSeed

/-! ## Places of items -/

/-- R120: the screen of a lane. -/
def laneScreen (n : LaneNo) : ScreenNo := ⟨n.val / 2, by omega⟩

/-- R120: which of its screen's two lanes it is. -/
def laneSide (n : LaneNo) : Fin 2 := ⟨n.val % 2, by omega⟩

/-- R120: the lane of feed k of a screen. -/
def feedSide (k : FeedNo) : Fin 2 := ⟨k.val / 8, by omega⟩

/-- R120: the lane feed of feed k of a screen. -/
def feedSlot (k : FeedNo) : Fin 8 := ⟨k.val % 8, by omega⟩

/-- R12, R120: feed k of the screen carried as lane feed j of its lane `side`. -/
def laneFeed (side : Fin 2) (j : Fin 8) : FeedNo := ⟨8 * side.val + j.val, by omega⟩

/-- R133: kind of the record at place k. -/
def recordKind (k : RecordNo) : AlarmKind :=
  if k.val < 8 then .chLoss
  else if k.val = 8 then .starve
  else if k.val = 9 then .refLost
  else if k.val < 26 then .overload
  else if k.val < 42 then .feedOpen
  else .ampFault

/-- R133: subject of the record at place k: the channel, the feed, or 0 for a screen kind. -/
def recordSubject (k : RecordNo) : Nat :=
  if k.val < 8 then k.val
  else if k.val < 10 then 0
  else if k.val < 26 then k.val - 10
  else if k.val < 42 then k.val - 26
  else k.val - 42

/-- R133: the CH_LOSS record of a channel. -/
def chLossRecord (i : ChannelNo) : RecordNo := ⟨i.val, by omega⟩

/-- R133: the REF_LOST record. -/
def refLostRecord : RecordNo := 9

/-- R133: the OVERLOAD record of a feed. -/
def overloadRecord (k : FeedNo) : RecordNo := ⟨10 + k.val, by omega⟩

/-- R133: the AMP_FAULT record of a feed. -/
def ampFaultRecord (k : FeedNo) : RecordNo := ⟨42 + k.val, by omega⟩

/-- R141: the place of a kind's profile. -/
def AlarmKind.profileIndex : AlarmKind → Fin 6
  | .chLoss => 0
  | .starve => 1
  | .refLost => 2
  | .overload => 3
  | .feedOpen => 4
  | .ampFault => 5

/-! ## Updates of State -/

/-- One screen changed. -/
def State.modScreen (i : ScreenNo) (f : Screen → Screen) (s : State) : State :=
  { s with screens := adjust s.screens i f }

/-- One stream entry changed. -/
def State.modEntry (e : EntryNo) (f : StreamEntry → StreamEntry) (s : State) : State :=
  { s with entries := adjust s.entries e f }

/-- One cue changed. -/
def State.modCue (n : CueNo) (f : Cue → Cue) (s : State) : State :=
  { s with cues := adjust s.cues n f }

/-- R28: `n` slots return to the free list. -/
def State.release (n : Nat) (s : State) : State := { s with freeSlots := s.freeSlots + n }

/-- R49: ST_now = B + e. -/
def Clock.now (c : Clock) : ScreenTime := c.base + BitVec.ofNat 32 c.elapsed

/-- R49: the current time of a screen. -/
def State.stNow (i : ScreenNo) (s : State) : ScreenTime := s.screens[i].clock.now

/-- The bank a feed's switch leaves or takes. -/
def Feed.bank (f : Feed) : Bank → List EqSection
  | .a => f.bankA
  | .b => f.bankB

/-- A feed with one of its banks replaced. -/
def Feed.setBank (f : Feed) (bank : Bank) (list : List EqSection) : Feed :=
  match bank with
  | .a => { f with bankA := list }
  | .b => { f with bankB := list }

/-- R85: a section at rest. -/
def EqSection.atRest (c : Section) : EqSection := { coeffs := c, x1 := 0, x2 := 0, y1 := 0, y2 := 0 }

/-- R88: every history of a bank set to 0. -/
def restBank (bank : List EqSection) : List EqSection := bank.map fun e => EqSection.atRest e.coeffs

/-- R29: the held count of a screen. -/
def Playout.held (p : Playout) : Nat := p.program.length + p.standby.length

/-- R21: the screen's ACTIVE entry. -/
def State.activeEntry (i : ScreenNo) (s : State) : Option EntryNo :=
  (indexes 32).find? fun e => decide (s.entries[e].state = .active ∧ s.entries[e].screen = i)

/-- R21: the screen's PRIMED entry. -/
def State.primedEntry (i : ScreenNo) (s : State) : Option EntryNo :=
  (indexes 32).find? fun e => decide (s.entries[e].state = .primed ∧ s.entries[e].screen = i)

end Sys2Proof.Machine
end

