-- ==== Sys2Proof/Machine/Flags.lean ====
section
/-! DEFINITION. Tallies, flags, and the states that other blocks read as flags. -/

namespace Sys2Proof.Machine

/-! ## Tallies -/

/-- R27: place of a tally in its order. -/
def EntryTally.place : EntryTally → Fin 13
  | .accepted => 0
  | .seqGap => 1
  | .short => 2
  | .long => 3
  | .format => 4
  | .duplicate => 5
  | .stale => 6
  | .late => 7
  | .farEarly => 8
  | .pruned => 9
  | .quotaDrop => 10
  | .poolDrop => 11
  | .refIgnored => 12

/-- R19: place of a tally in its order. -/
def PortTally.place : PortTally → Fin 5
  | .checkFail => 0
  | .badKind => 1
  | .unknownStream => 2
  | .inactiveDrop => 3
  | .manageDrop => 4

/-- R173: place of a tally in its order. -/
def ScreenTally.place : ScreenTally → Fin 7
  | .underrun => 0
  | .waited => 1
  | .step => 2
  | .slip => 3
  | .refBad => 4
  | .markerStale => 5
  | .markerDrop => 6

/-- An entry tally raised by `n` (R27). -/
def State.bumpEntry (e : EntryNo) (t : EntryTally) (n : Nat) (s : State) : State :=
  s.modEntry e fun x => { x with tallies := adjust x.tallies t.place (satAdd · n) }

/-- A port tally raised by 1 (R19). -/
def State.bumpPort (t : PortTally) (s : State) : State :=
  { s with portTallies := adjust s.portTallies t.place satInc }

/-- A screen tally raised by 1 (R36, R65, R153). -/
def Screen.bump (t : ScreenTally) (x : Screen) : Screen :=
  { x with tallies := adjust x.tallies t.place satInc }

/-- A screen tally raised by 1. -/
def State.bumpScreen (i : ScreenNo) (t : ScreenTally) (s : State) : State := s.modScreen i (Screen.bump t)

/-! ## Flags -/

/-- R32, R45, R153: lateness tests are not applied while SELF_TIMED with the resync flag set. -/
def Screen.untied (x : Screen) : Bool := x.settings.clockMode = .selfTimed && x.playout.resync

/-- R78: whether a latched preset puts the record at place k into use. -/
def recordInUse (latched : Option LatchedPreset) (k : RecordNo) : Bool :=
  match recordKind k with
  | .starve => true
  | .refLost => true
  | .chLoss =>
      match latched with
      | none => false
      | some l => recordSubject k < l.preset.channels && l.preset.monitored.getLsbD (recordSubject k)
  | .overload | .feedOpen | .ampFault =>
      match latched with
      | none => false
      | some l => l.preset.feedSet.getLsbD (recordSubject k)

/-- R147: whether a record is in ACTION with the given action recorded. -/
def AlarmRecord.acting (r : AlarmRecord) (a : AlarmAction) : Bool :=
  r.state = .action && r.recorded.any fun x => x.action = a

/-- R75: a channel is substituted while its CH_LOSS record is in ACTION with FILL recorded. -/
def Screen.filled (x : Screen) (i : ChannelNo) : Bool := x.records[chLossRecord i].acting .fill

/-- R101: the reduction of a feed. -/
def Screen.reduction (x : Screen) (k : FeedNo) : Nat :=
  if x.records[overloadRecord k].acting .reduce then
    match x.records[overloadRecord k].recorded with
    | some a => a.amount
    | none => 0
  else 0

/-- R101: the feed is muted by its AMP_FAULT record. -/
def Screen.feedMuted (x : Screen) (k : FeedNo) : Bool := x.records[ampFaultRecord k].acting .muteFeed

/-- R148: the screen's timed cues are held. -/
def Screen.cuesHeld (x : Screen) : Bool := x.records[refLostRecord].acting .holdCues

end Sys2Proof.Machine
end

