-- ==== Sys2Proof/WellFormed.lean ====
section
/-! DEFINITION. A command is well formed when some frame can carry it: every number fits the bytes R4 gives its
field, and an UNDEFINED_REQUEST is one (R167 steps 1 and 2). -/

namespace Sys2Proof

/-- The number fits `k` bytes unsigned (R4). -/
def fitsNat (k n : Nat) : Bool := n < 256 ^ k

/-- The number fits `k` bytes of two's complement (R4). -/
def fitsInt (k : Nat) (v : Int) : Bool := -(256 ^ k / 2) ≤ v && v < 256 ^ k / 2

/-- R7: the command kind codes, 16..38. -/
def isCommandKind (kind : Nat) : Bool := 16 ≤ kind && kind ≤ 38

/-- R167 steps 1 and 2: the kind or the table code is undefined. -/
def undefinedEnvelope (kind table : Nat) : Bool :=
  if kind = 1 ∨ kind = 2 then table < 1 || 8 < table
  else if isCommandKind kind then table != 0
  else true

def StreamWrite.wf (r : StreamWrite) : Bool :=
  fitsNat 2 r.number && fitsNat 1 r.screen && fitsNat 1 r.channels

def FillEntry.wf (e : FillEntry) : Bool :=
  fitsNat 1 e.donorA && fitsInt 2 e.coefA &&
    match e.donorB with
    | none => true
    | some (b, c) => fitsNat 1 b && fitsInt 2 c

def Preset.wf (p : Preset) : Bool :=
  fitsNat 1 p.channels && p.matrix.toList.all (fun row => row.toList.all (fitsInt 2)) &&
    p.fill.toList.all FillEntry.wf

def Section.wf (c : Section) : Bool :=
  fitsInt 3 c.b0 && fitsInt 3 c.b1 && fitsInt 3 c.b2 && fitsInt 3 c.a1 && fitsInt 3 c.a2

def PatternSpec.wf (p : PatternSpec) : Bool := fitsInt 2 p.level

def CheckSpec.wf (c : CheckSpec) : Bool :=
  fitsInt 2 c.level && fitsNat 2 c.dwell && fitsNat 2 c.passCount && fitsNat 2 c.returnFloor

def CueSpec.wf (c : CueSpec) : Bool :=
  fitsNat 1 c.screen && fitsNat 2 c.markerCode && fitsNat 1 c.parent && fitsNat 2 c.delay &&
    fitsNat 1 c.preset && fitsNat 1 c.fadeTarget && fitsNat 2 c.fadeDuration && fitsNat 1 c.entry &&
    c.pattern.wf && c.check.wf && fitsNat 2 c.notifyCode

def Profile.wf (p : Profile) : Bool :=
  fitsNat 2 p.warnAfter && fitsNat 2 p.actAfter && fitsNat 2 p.clearAfter && fitsNat 4 p.threshold &&
    fitsNat 4 p.probeLevel && fitsNat 2 p.returnFloor && fitsNat 1 p.reduce

def ScreenSettings.wf (r : ScreenSettings) : Bool :=
  fitsNat 1 r.phase && fitsNat 2 r.lateLimit && fitsNat 4 r.earlyLimit && fitsNat 2 r.window &&
    fitsNat 1 r.lockN && fitsNat 1 r.unlockN && fitsInt 4 r.referenceOffset && fitsNat 2 r.referenceTimeout &&
    fitsNat 1 r.quota && fitsNat 1 r.meterInterval

/-- The index field of the envelope is two bytes (R7). -/
def wfIndex (index : Nat) : Bool := fitsNat 2 index

def Instr.wf : Instr → Bool
  | .powerOn => true
  | .frameArrival _ => true
  | .blockBoundary _ => true
  | .referenceTimeout _ => true
  | .meterDue _ => true
  | .checkComplete _ => true
  | .fadeEnd _ => true
  | .cueCountdownExpiry _ => true
  | .cueTimeDue _ => true
  | .markerDue _ => true
  | .laneRecordSent _ => true
  | .senseRecordArrival _ _ => true
  | .upstreamFrameSent => true
  | .undefinedRequest _ kind table index args =>
      undefinedEnvelope kind table && fitsNat 1 kind && fitsNat 1 table && wfIndex index && args.length ≤ 65530
  | .read _ _ index => wfIndex index
  | .writeStream _ index r => wfIndex index && r.wf
  | .writePreset _ index r => wfIndex index && r.wf
  | .writeEqbank _ index r => wfIndex index && fitsNat 1 r.length && r.all Section.wf
  | .writeCue _ index r => wfIndex index && r.wf
  | .writeProfile _ index r => wfIndex index && r.wf
  | .writeWave _ index r => wfIndex index && r.toList.all (fitsInt 3)
  | .writeScreen _ index r => wfIndex index && r.wf
  | .writeFeed _ index trim => wfIndex index && fitsInt 1 trim
  | .screenReset _ screen => wfIndex screen
  | .mute _ screen => wfIndex screen
  | .unmute _ screen => wfIndex screen
  | .setFader _ screen fader => wfIndex screen && fitsNat 1 fader
  | .fade _ screen target duration => wfIndex screen && fitsNat 1 target && fitsNat 2 duration
  | .setPreset _ screen preset => wfIndex screen && preset.all (fitsNat 1)
  | .selectBank _ screen _ => wfIndex screen
  | .prime _ entry => wfIndex entry
  | .activate _ entry => wfIndex entry
  | .deactivate _ entry => wfIndex entry
  | .go _ cue => wfIndex cue
  | .cancel _ cue => wfIndex cue
  | .enable _ cue => wfIndex cue
  | .ack _ record => wfIndex record
  | .pattern _ screen spec => wfIndex screen && spec.wf
  | .startCheck _ screen spec => wfIndex screen && spec.wf
  | .stopCheck _ screen => wfIndex screen
  | .readStatus _ screen => wfIndex screen
  | .listAlarms _ screen => wfIndex screen
  | .readTally _ subject _ _ => wfIndex subject
  | .readMeter _ screen _ => wfIndex screen
  | .readCheck _ screen => wfIndex screen
  | .readSense _ feed => wfIndex feed

end Sys2Proof
end

