-- ==== Sys2Proof/Machine/Operands.lean ====
section
/-! DEFINITION. The operand forms: the field encoding of R4, the records of tables and commands as bytes, and the
reading of a MANAGE body (R7) with the envelope checks of R167. -/

namespace Sys2Proof.Machine

/-! ## Fields -/

/-- `k` bytes of a number, most-significant byte first, two's complement (R4). -/
def beBytes : Nat → Int → List Byte
  | 0, _ => []
  | k + 1, v => BitVec.ofInt 8 (v / 256 ^ k) :: beBytes k v

/-- `k` bytes of a count, most-significant byte first (R4). -/
def beNat (k n : Nat) : List Byte := beBytes k (n : Int)

/-- The unsigned value of bytes, most-significant byte first (R4). -/
def numberOf (bytes : List Byte) : Nat := bytes.foldl (fun n b => n * 256 + b.toNat) 0

/-- The two's-complement value of a field of `k` bytes whose unsigned value is `n` (R4). -/
def signedOf (k n : Nat) : Int := if 2 * n < 256 ^ k then (n : Int) else (n : Int) - 256 ^ k

/-- R4: a flag. -/
def flagByte (f : Bool) : List Byte := [if f then 1 else 0]

/-- R4: a flag byte other than 0 reads as set. -/
def flagOf (n : Nat) : Bool := n != 0

/-- R4: a field that may be absent. -/
def optionBytes {α : Type} (enc : α → List Byte) : Option α → List Byte
  | none => [0]
  | some x => 1 :: enc x

/-- R4: a list of varying length. -/
def listBytes {α : Type} (enc : α → List Byte) (xs : List α) : List Byte :=
  beNat 1 xs.length ++ xs.flatMap enc

/-- Fields of the given widths taken from the front of a record, as unsigned numbers; none when it is too short. -/
def takeFields : List Nat → List Byte → Option (List Nat × List Byte)
  | [], bytes => some ([], bytes)
  | w :: ws, bytes =>
      if bytes.length < w then none
      else
        match takeFields ws (bytes.drop w) with
        | none => none
        | some (ns, rest) => some (numberOf (bytes.take w) :: ns, rest)

/-- R167 step 3: a record of exactly the given fields. -/
def readFields (widths : List Nat) (bytes : List Byte) : Option (List Nat) :=
  match takeFields widths bytes with
  | some (ns, []) => some ns
  | _ => none

/-! ## Named-value codes (R4) -/

def ByteOrder.code : ByteOrder → Nat
  | .msbFirst => 0
  | .lsbFirst => 1

def ByteOrder.ofCode : Nat → Option ByteOrder
  | 0 => some .msbFirst
  | 1 => some .lsbFirst
  | _ => none

def TimingMode.code : TimingMode → Nat
  | .timed => 0
  | .arrival => 1

def TimingMode.ofCode : Nat → Option TimingMode
  | 0 => some .timed
  | 1 => some .arrival
  | _ => none

def FillMode.code : FillMode → Nat
  | .none => 0
  | .mute => 1
  | .fill => 2

def FillMode.ofCode : Nat → Option FillMode
  | 0 => some .none
  | 1 => some .mute
  | 2 => some .fill
  | _ => Option.none

def Bank.code : Bank → Nat
  | .a => 0
  | .b => 1

def Bank.ofCode : Nat → Option Bank
  | 0 => some .a
  | 1 => some .b
  | _ => none

def PatternKind.code : PatternKind → Nat
  | .off => 0
  | .noise => 1
  | .tone => 2

def PatternKind.ofCode : Nat → Option PatternKind
  | 0 => some .off
  | 1 => some .noise
  | 2 => some .tone
  | _ => none

def ClockMode.code : ClockMode → Nat
  | .referenced => 0
  | .selfTimed => 1

def ClockMode.ofCode : Nat → Option ClockMode
  | 0 => some .referenced
  | 1 => some .selfTimed
  | _ => none

def Trigger.code : Trigger → Nat
  | .atTime => 0
  | .onMarker => 1
  | .after => 2
  | .manual => 3

def Trigger.ofCode : Nat → Option Trigger
  | 0 => some .atTime
  | 1 => some .onMarker
  | 2 => some .after
  | 3 => some .manual
  | _ => none

def CueAction.code : CueAction → Nat
  | .preset => 0
  | .fade => 1
  | .mute => 2
  | .unmute => 3
  | .source => 4
  | .prime => 5
  | .bank => 6
  | .pattern => 7
  | .check => 8
  | .stopCheck => 9
  | .notify => 10

def CueAction.ofCode : Nat → Option CueAction
  | 0 => some .preset
  | 1 => some .fade
  | 2 => some .mute
  | 3 => some .unmute
  | 4 => some .source
  | 5 => some .prime
  | 6 => some .bank
  | 7 => some .pattern
  | 8 => some .check
  | 9 => some .stopCheck
  | 10 => some .notify
  | _ => none

def AlarmAction.code : AlarmAction → Nat
  | .none => 0
  | .fill => 1
  | .reduce => 2
  | .muteFeed => 3
  | .holdCues => 4

def AlarmAction.ofCode : Nat → Option AlarmAction
  | 0 => some .none
  | 1 => some .fill
  | 2 => some .reduce
  | 3 => some .muteFeed
  | 4 => some .holdCues
  | _ => Option.none

def TallyScope.ofCode : Nat → Option TallyScope
  | 0 => some .port
  | 1 => some .entry
  | 2 => some .screen
  | 3 => some .feed
  | 4 => some .lane
  | _ => none

/-- R7: the table codes start at 1. -/
def Table.ofCode : Nat → Option Table
  | 1 => some .stream
  | 2 => some .preset
  | 3 => some .eqbank
  | 4 => some .cue
  | 5 => some .profile
  | 6 => some .wave
  | 7 => some .screen
  | 8 => some .feed
  | _ => none

def EntryState.code : EntryState → Nat
  | .unused => 0
  | .inactive => 1
  | .primed => 2
  | .active => 3

def ScreenMode.code : ScreenMode → Nat
  | .show => 0
  | .check => 1

/-- R9 and R10 give the same codes. -/
def ClockState.code : ClockState → Nat
  | .unreferenced => 0
  | .acquiring => 1
  | .locked => 2
  | .holdover => 3

def ResultState.code : ResultState → Nat
  | .untested => 0
  | .running => 1
  | .pass => 2
  | .fail => 3
  | .skipped => 4

def LaneOutcome.code : LaneOutcome → Nat
  | .none => 0
  | .received => 1
  | .lost => 2

def AlarmKind.code : AlarmKind → Nat
  | .chLoss => 0
  | .starve => 1
  | .refLost => 2
  | .overload => 3
  | .feedOpen => 4
  | .ampFault => 5

/-- R9 gives the same codes. -/
def AlarmState.code : AlarmState → Nat
  | .normal => 0
  | .warning => 1
  | .acked => 2
  | .action => 3

def CueState.code : CueState → Nat
  | .empty => 0
  | .pending => 1
  | .armed => 2
  | .fired => 3
  | .missed => 4
  | .disabled => 5

/-- R9 gives the same codes for the faults of a CUE_FAULT notice. -/
def CueFault.code : CueFault → Nat
  | .none => 0
  | .badPreset => 1
  | .badSource => 2
  | .checkBusy => 3
  | .noCheck => 4

/-- R8. -/
def Result.code : Result → Nat
  | .ok => 0
  | .okClamped => 1
  | .badRequest => 2
  | .badTable => 3
  | .badIndex => 4
  | .badValue => 5
  | .inUse => 6
  | .busy => 7
  | .empty => 8
  | .notRaised => 9

/-- R9. -/
def NoticeKind.code : NoticeKind → Nat
  | .alarm => 1
  | .clock => 2
  | .cue => 3
  | .cueFault => 4
  | .checkDone => 5

/-! ## Records as the replies carry them -/

/-- R20: the seven readable fields. -/
def streamBytes (e : StreamEntry) : List Byte :=
  beNat 2 e.number ++ beNat 1 e.screen.val ++ beNat 1 e.channels ++ beNat 1 (ByteOrder.code e.order) ++
    beNat 1 (TimingMode.code e.timing) ++ beNat 1 e.state.code ++ optionBytes (fun q => [q]) e.lastSeq

/-- R67: one fill entry. -/
def fillBytes (e : FillEntry) : List Byte :=
  beNat 1 (FillMode.code e.mode) ++ beNat 1 e.donorA ++ beBytes 2 e.coefA ++
    optionBytes (fun p : Nat × Int => beNat 1 p.1 ++ beBytes 2 p.2) e.donorB

/-- R67: a preset record. -/
def presetBytes (p : Preset) : List Byte :=
  flagByte p.used ++ beNat 1 p.channels ++ beNat 1 p.monitored.toNat ++ beNat 2 p.feedSet.toNat ++
    p.matrix.toList.flatMap (fun row => row.toList.flatMap (beBytes 2)) ++ p.fill.toList.flatMap fillBytes

/-- R85: one section. -/
def sectionBytes (c : Section) : List Byte :=
  beBytes 3 c.b0 ++ beBytes 3 c.b1 ++ beBytes 3 c.b2 ++ beBytes 3 c.a1 ++ beBytes 3 c.a2

/-- R85: a section list. -/
def bankBytes (bank : List EqSection) : List Byte := listBytes (fun e => sectionBytes e.coeffs) bank

/-- R109: a pattern spec. -/
def patternBytes (p : PatternSpec) : List Byte :=
  beNat 1 (PatternKind.code p.kind) ++ beBytes 2 p.level ++ beNat 2 p.mask.toNat

/-- R112: check parameters. -/
def checkSpecBytes (c : CheckSpec) : List Byte :=
  beNat 1 (PatternKind.code c.kind) ++ beBytes 2 c.level ++ beNat 2 c.dwell ++ beNat 2 c.passCount ++
    beNat 2 c.returnFloor ++ beNat 2 c.mask.toNat

/-- R151: a cue, its written fields and then its four kept fields. -/
def cueBytes (c : Cue) : List Byte :=
  flagByte c.spec.used ++ beNat 1 c.spec.screen ++ beNat 1 (Trigger.code c.spec.trigger) ++
    beNat 4 c.spec.time.toNat ++ beNat 2 c.spec.markerCode ++ beNat 1 c.spec.parent ++ beNat 2 c.spec.delay ++
    beNat 1 (CueAction.code c.spec.action) ++ beNat 1 c.spec.preset ++ beNat 1 c.spec.fadeTarget ++
    beNat 2 c.spec.fadeDuration ++ beNat 1 c.spec.entry ++ beNat 1 (Bank.code c.spec.bank) ++
    patternBytes c.spec.pattern ++ checkSpecBytes c.spec.check ++ beNat 2 c.spec.notifyCode ++
    flagByte c.spec.catchUp ++ flagByte c.spec.rearm ++ beNat 1 c.state.code ++
    optionBytes (beNat 2) c.countdown ++ optionBytes (fun f => beNat 1 (CueFault.code f)) c.lastFault ++
    flagByte c.go

/-- R141: a profile. -/
def profileBytes (p : Profile) : List Byte :=
  beNat 2 p.warnAfter ++ beNat 2 p.actAfter ++ beNat 2 p.clearAfter ++ beNat 1 (AlarmAction.code p.action) ++
    beNat 4 p.threshold ++ beNat 4 p.probeLevel ++ beNat 2 p.returnFloor ++ beNat 1 p.reduce

/-- R107: the tone table. -/
def waveBytes (tone : Vector Int 32) : List Byte := tone.toList.flatMap (beBytes 3)

/-- R169: the SCREEN record. -/
def settingsBytes (r : ScreenSettings) : List Byte :=
  beNat 1 r.phase ++ beNat 2 r.lateLimit ++ beNat 4 r.earlyLimit ++ beNat 1 (ClockMode.code r.clockMode) ++
    beNat 2 r.window ++ beNat 1 r.lockN ++ beNat 1 r.unlockN ++ beBytes 4 r.referenceOffset ++
    beNat 2 r.referenceTimeout ++ beNat 1 r.quota ++ beNat 1 r.meterInterval

/-- R133: an alarm record, its fields in the order of R133. -/
def alarmBytes (k : RecordNo) (r : AlarmRecord) : List Byte :=
  beNat 1 (recordKind k).code ++ beNat 1 (recordSubject k) ++ beNat 1 r.state.code ++ beNat 2 r.run ++
    beNat 2 r.clear ++
    optionBytes (fun a : Recorded => beNat 1 (AlarmAction.code a.action) ++ beNat 1 a.amount) r.recorded ++
    flagByte r.acked ++ optionBytes (fun t : ScreenTime => beNat 4 t.toNat) r.raised ++ beNat 1 r.occurrences

/-- R94: a fade record: f0, ft, D, k. -/
def fadeBytes (f : Fade) : List Byte :=
  beNat 1 f.start ++ beNat 1 f.target ++ beNat 2 f.duration ++ beNat 2 f.count

/-- R105, R116: the check record: state, parameters, feed list, block count (log entry 8). -/
def checkBytes (c : CheckRecord) : List Byte :=
  beNat 1 (if c.running then 1 else 0) ++ checkSpecBytes c.spec ++ listBytes (fun k : FeedNo => beNat 1 k.val) c.feeds ++
    optionBytes (beNat 2) c.count

/-- R116: an entry of the result table. -/
def resultBytes (r : ResultEntry) : List Byte :=
  beNat 1 r.state.code ++ beNat 2 r.hits ++ beNat 2 r.maxPeak

/-- R125: lane, lane feed and sense view. -/
def senseBytes (lane : Nat) (slot : Fin 8) (v : SenseView) : List Byte :=
  beNat 1 lane ++ beNat 1 slot.val ++ beNat 1 v.outcome.code ++
    optionBytes (fun c : BitVec 16 => beNat 2 c.toNat) v.outcomeCount ++
    optionBytes (fun l : LastSense => beNat 2 l.count.toNat ++ beNat 2 l.reading.peak ++
      flagByte l.reading.protect ++ flagByte l.reading.thermal) v.last

/-! ## Reading the argument records of requests (R167 steps 3 and 4) -/

/-- R22. -/
def readStream (index : Nat) (args : List Byte) : Request :=
  match readFields [2, 1, 1, 1, 1] args with
  | some [number, screen, channels, order, timing] =>
      match ByteOrder.ofCode order, TimingMode.ofCode timing with
      | some o, some t =>
          .writeStream index { number := number, screen := screen, channels := channels, order := o, timing := t }
      | _, _ => .rejected .badValue
  | _ => .rejected .badRequest

/-- R67: the raw fields of `n` fill entries. -/
def takeFills : Nat → List Byte → Option (List (Nat × Nat × Int × Option (Nat × Int)) × List Byte)
  | 0, bytes => some ([], bytes)
  | n + 1, bytes =>
      match takeFields [1, 1, 2, 1] bytes with
      | some ([mode, donor, coef, present], rest) =>
          if flagOf present then
            match takeFields [1, 2] rest with
            | some ([donor2, coef2], rest2) =>
                match takeFills n rest2 with
                | some (es, tail) =>
                    some ((mode, donor, signedOf 2 coef, some (donor2, signedOf 2 coef2)) :: es, tail)
                | none => none
            | _ => none
          else
            match takeFills n rest with
            | some (es, tail) => some ((mode, donor, signedOf 2 coef, none) :: es, tail)
            | none => none
      | _ => none

/-- R167 step 4: the fill modes of the raw entries. -/
def nameFills : List (Nat × Nat × Int × Option (Nat × Int)) → Option (List FillEntry)
  | [] => some []
  | (mode, donor, coef, second) :: rest =>
      match FillMode.ofCode mode, nameFills rest with
      | some m, some es => some ({ mode := m, donorA := donor, coefA := coef, donorB := second } :: es)
      | _, _ => none

/-- R67. -/
def readPreset (index : Nat) (args : List Byte) : Request :=
  match takeFields [1, 1, 1, 2] args with
  | some ([used, channels, monitored, feedSet], rest) =>
      match takeFields (List.replicate 128 2) rest with
      | some (codes, rest2) =>
          match takeFills 8 rest2 with
          | some (raw, []) =>
              match nameFills raw with
              | some fills =>
                  .writePreset index
                    { used := flagOf used, channels := channels, monitored := BitVec.ofNat 8 monitored,
                      feedSet := BitVec.ofNat 16 feedSet,
                      matrix := tabulate fun f => tabulate fun i => signedOf 2 (codes.getD (8 * f.val + i.val) 0),
                      fill := tabulate fun i =>
                        fills.getD i.val { mode := .none, donorA := 0, coefA := 0, donorB := none } }
              | none => .rejected .badValue
          | _ => .rejected .badRequest
      | none => .rejected .badRequest
  | _ => .rejected .badRequest

/-- R85: the five codes of each section. -/
def takeSections : Nat → List Byte → Option (List Section × List Byte)
  | 0, bytes => some ([], bytes)
  | n + 1, bytes =>
      match takeFields [3, 3, 3, 3, 3] bytes with
      | some ([b0, b1, b2, a1, a2], rest) =>
          match takeSections n rest with
          | some (cs, tail) =>
              some ({ b0 := signedOf 3 b0, b1 := signedOf 3 b1, b2 := signedOf 3 b2,
                      a1 := signedOf 3 a1, a2 := signedOf 3 a2 } :: cs, tail)
          | none => none
      | _ => none

/-- R85. -/
def readEqbank (index : Nat) (args : List Byte) : Request :=
  match takeFields [1] args with
  | some ([count], rest) =>
      match takeSections count rest with
      | some (cs, []) => .writeEqbank index cs
      | _ => .rejected .badRequest
  | _ => .rejected .badRequest

/-- R151: the written fields. -/
def readCue (index : Nat) (args : List Byte) : Request :=
  match readFields [1, 1, 1, 4, 2, 1, 2, 1, 1, 1, 2, 1, 1, 1, 2, 2, 1, 2, 2, 2, 2, 2, 2, 1, 1] args with
  | some [used, screen, trigger, time, marker, parent, delay, action, preset, target, duration, entry, bank,
      pkind, plevel, pmask, ckind, clevel, cdwell, cpass, cfloor, cmask, notify, catchUp, rearm] =>
      match Trigger.ofCode trigger, CueAction.ofCode action, Bank.ofCode bank, PatternKind.ofCode pkind,
        PatternKind.ofCode ckind with
      | some t, some a, some bk, some pk, some ck =>
          .writeCue index
            { used := flagOf used, screen := screen, trigger := t, time := BitVec.ofNat 32 time,
              markerCode := marker, parent := parent, delay := delay, action := a, preset := preset,
              fadeTarget := target, fadeDuration := duration, entry := entry, bank := bk,
              pattern := { kind := pk, level := signedOf 2 plevel, mask := BitVec.ofNat 16 pmask },
              check := { kind := ck, level := signedOf 2 clevel, dwell := cdwell, passCount := cpass,
                         returnFloor := cfloor, mask := BitVec.ofNat 16 cmask },
              notifyCode := notify, catchUp := flagOf catchUp, rearm := flagOf rearm }
      | _, _, _, _, _ => .rejected .badValue
  | _ => .rejected .badRequest

/-- R141. -/
def readProfile (index : Nat) (args : List Byte) : Request :=
  match readFields [2, 2, 2, 1, 4, 4, 2, 1] args with
  | some [n, e, k, action, threshold, probe, floor, reduce] =>
      match AlarmAction.ofCode action with
      | some a =>
          .writeProfile index
            { warnAfter := n, actAfter := e, clearAfter := k, action := a, threshold := threshold,
              probeLevel := probe, returnFloor := floor, reduce := reduce }
      | none => .rejected .badValue
  | _ => .rejected .badRequest

/-- R107. -/
def readWave (index : Nat) (args : List Byte) : Request :=
  match readFields (List.replicate 32 3) args with
  | some ns => .writeWave index (tabulate fun i => signedOf 3 (ns.getD i.val 0))
  | none => .rejected .badRequest

/-- R169. -/
def readScreen (index : Nat) (args : List Byte) : Request :=
  match readFields [1, 2, 4, 1, 2, 1, 1, 4, 2, 1, 1] args with
  | some [phase, late, early, mode, window, lockN, unlockN, offset, timeout, quota, meter] =>
      match ClockMode.ofCode mode with
      | some m =>
          .writeScreen index
            { phase := phase, lateLimit := late, earlyLimit := early, clockMode := m, window := window,
              lockN := lockN, unlockN := unlockN, referenceOffset := signedOf 4 offset,
              referenceTimeout := timeout, quota := quota, meterInterval := meter }
      | none => .rejected .badValue
  | _ => .rejected .badRequest

/-- R93. -/
def readFeed (index : Nat) (args : List Byte) : Request :=
  match readFields [1] args with
  | some [trim] => .writeFeed index (signedOf 1 trim)
  | _ => .rejected .badRequest

/-- The argument record of a WRITE. -/
def readWrite (table : Table) (index : Nat) (args : List Byte) : Request :=
  match table with
  | .stream => readStream index args
  | .preset => readPreset index args
  | .eqbank => readEqbank index args
  | .cue => readCue index args
  | .profile => readProfile index args
  | .wave => readWave index args
  | .screen => readScreen index args
  | .feed => readFeed index args

/-- A request whose argument record is empty. -/
def readEmpty (r : Request) (args : List Byte) : Request :=
  match args with
  | [] => r
  | _ :: _ => .rejected .badRequest

/-- R96. -/
def readSetFader (index : Nat) (args : List Byte) : Request :=
  match readFields [1] args with
  | some [fader] => .setFader index fader
  | _ => .rejected .badRequest

/-- R97. -/
def readFade (index : Nat) (args : List Byte) : Request :=
  match readFields [1, 2] args with
  | some [target, duration] => .fade index target duration
  | _ => .rejected .badRequest

/-- R70: the presence byte decides the length. -/
def readSetPreset (index : Nat) (args : List Byte) : Request :=
  match args with
  | [present] => if flagOf present.toNat then .rejected .badRequest else .setPreset index none
  | [present, preset] =>
      if flagOf present.toNat then .setPreset index (some preset.toNat) else .rejected .badRequest
  | _ => .rejected .badRequest

/-- R89. -/
def readSelectBank (index : Nat) (args : List Byte) : Request :=
  match readFields [1] args with
  | some [bank] =>
      match Bank.ofCode bank with
      | some bk => .selectBank index bk
      | none => .rejected .badValue
  | _ => .rejected .badRequest

/-- R109. -/
def readPattern (index : Nat) (args : List Byte) : Request :=
  match readFields [1, 2, 2] args with
  | some [kind, level, mask] =>
      match PatternKind.ofCode kind with
      | some k => .pattern index { kind := k, level := signedOf 2 level, mask := BitVec.ofNat 16 mask }
      | none => .rejected .badValue
  | _ => .rejected .badRequest

/-- R112. -/
def readStartCheck (index : Nat) (args : List Byte) : Request :=
  match readFields [1, 2, 2, 2, 2, 2] args with
  | some [kind, level, dwell, pass, floor, mask] =>
      match PatternKind.ofCode kind with
      | some k =>
          .startCheck index
            { kind := k, level := signedOf 2 level, dwell := dwell, passCount := pass, returnFloor := floor,
              mask := BitVec.ofNat 16 mask }
      | none => .rejected .badValue
  | _ => .rejected .badRequest

/-- R173. -/
def readReadTally (index : Nat) (args : List Byte) : Request :=
  match readFields [1, 1] args with
  | some [scope, clear] =>
      match TallyScope.ofCode scope with
      | some c => .readTally index c (flagOf clear)
      | none => .rejected .badValue
  | _ => .rejected .badRequest

/-- R173. -/
def readReadMeter (index : Nat) (args : List Byte) : Request :=
  match readFields [1] args with
  | some [reset] => .readMeter index (flagOf reset)
  | _ => .rejected .badRequest

/-- R7: a command by its kind code, its table field already found 0. -/
def readCommand (kind index : Nat) (args : List Byte) : Request :=
  match kind with
  | 16 => readEmpty (.screenReset index) args
  | 17 => readEmpty (.mute index) args
  | 18 => readEmpty (.unmute index) args
  | 19 => readSetFader index args
  | 20 => readFade index args
  | 21 => readSetPreset index args
  | 22 => readSelectBank index args
  | 23 => readEmpty (.prime index) args
  | 24 => readEmpty (.activate index) args
  | 25 => readEmpty (.deactivate index) args
  | 26 => readEmpty (.go index) args
  | 27 => readEmpty (.cancel index) args
  | 28 => readEmpty (.enable index) args
  | 29 => readEmpty (.ack index) args
  | 30 => readPattern index args
  | 31 => readStartCheck index args
  | 32 => readEmpty (.stopCheck index) args
  | 33 => readEmpty (.readStatus index) args
  | 34 => readEmpty (.listAlarms index) args
  | 35 => readReadTally index args
  | 36 => readReadMeter index args
  | 37 => readEmpty (.readCheck index) args
  | 38 => readEmpty (.readSense index) args
  | _ => .rejected .badRequest

/-- R167: the envelope's checks, in order. -/
def judgeEnvelope (kind table index : Nat) (args : List Byte) : Request :=
  if kind = 1 then
    match Table.ofCode table with
    | some t => readEmpty (.read t index) args
    | none => .rejected .badTable
  else if kind = 2 then
    match Table.ofCode table with
    | some t => readWrite t index args
    | none => .rejected .badTable
  else if isCommandKind kind then
    if table = 0 then readCommand kind index args else .rejected .badRequest
  else .rejected .badRequest

/-- R7: a MANAGE body of at least 5 bytes as a tag and a request. -/
def readManage : List Byte → Option (Byte × Request)
  | tag :: kind :: table :: i1 :: i0 :: args =>
      some (tag, judgeEnvelope kind.toNat table.toNat (numberOf [i1, i0]) args)
  | _ => none

end Sys2Proof.Machine
end

