-- ==== Sys2Proof/Machine/Reports.lean ====
section
/-! DEFINITION. The Report Queue and the upstream frames (R1, R8 to R11, R174, R175). -/

namespace Sys2Proof.Machine

/-! ## Bytes of an upstream frame -/

/-- R9: a NOTICE body, 15 bytes. -/
def noticeBody (n : Notice) : List Byte :=
  beNat 1 n.kind.code ++ beNat 1 n.screen.val ++ beNat 2 n.subject ++ beNat 1 n.state ++ beNat 2 n.valueA ++
    beBytes 4 n.valueB ++ beNat 4 n.st.toNat

/-- The fields of R10 after its screen field, each hold in `width` bytes: 3 in a METER body (R10), 4 in the record of
READ_METER (R173), where R4 sets the width. -/
def meterFields (width : Nat) (st : ScreenTime) (clock : ClockState) (feeds : Vector Nat 16)
    (channels : Vector Nat 8) : List Byte :=
  beNat 4 st.toNat ++ beNat 1 clock.code ++ feeds.toList.flatMap (beNat width) ++
    channels.toList.flatMap (beNat width)

/-- R3: the kind code of an upstream frame. -/
def UpFrame.kindCode : UpFrame → Nat
  | .reply _ => 9
  | .notice _ => 10
  | .meter _ => 11

/-- R8, R9, R10. -/
def UpFrame.body : UpFrame → List Byte
  | .reply r => r.tag :: (beNat 1 r.result.code ++ r.record)
  | .notice n => noticeBody n
  | .meter m => beNat 1 m.screen.val ++ meterFields 3 m.st m.clock m.feeds m.channels

/-- R1: header and body, stream number 0. -/
def UpFrame.payload (f : UpFrame) (seq : Byte) : List Byte :=
  beNat 1 (16 * f.kindCode) ++ [0, seq] ++ beNat 2 f.body.length ++ f.body

/-- R1, R2: the whole frame with its check. -/
def UpFrame.bytes (f : UpFrame) (seq : Byte) : List Byte :=
  f.payload seq ++ beNat 2 (frameCheck (f.payload seq)).toNat

/-- The bytes the trunk is sending: the head of the Report Queue under the sequence it took (R11). -/
def State.trunkBytes (s : State) : Option (List Byte) :=
  match s.reports, s.sendingSeq with
  | f :: _, some q => some (f.bytes q)
  | _, _ => none

/-! ## The queue -/

/-- R11, R174: a frame that stands at the head starts to send and takes the upstream sequence (log entry 5). -/
def State.startSending (s : State) : State :=
  match s.sendingSeq, s.reports with
  | none, _ :: _ => { s with sendingSeq := some s.upSeq, upSeq := s.upSeq + 1 }
  | _, _ => s

/-- A frame placed at the tail. -/
def State.place (f : UpFrame) (s : State) : State := State.startSending { s with reports := s.reports ++ [f] }

/-- R174: the queue holds fewer than 32 frames. -/
def State.reportSpace (s : State) : Bool := s.reports.length < Config.reportDepth

/-- R174, R175: a notice is placed, or dropped with its screen's notice-lost flag set. -/
def State.offerNotice (n : Notice) (s : State) : State :=
  if s.reportSpace then s.place (.notice n) else s.modScreen n.screen fun x => { x with noticeLost := true }

/-- R9: a notice that carries the screen's current time. -/
def State.raise (kind : NoticeKind) (i : ScreenNo) (subject state valueA : Nat) (valueB : Int) (s : State) : State :=
  s.offerNotice
    { kind := kind, screen := i, subject := subject, state := state, valueA := valueA, valueB := valueB,
      st := s.stNow i }

/-- R64: a CLOCK notice with the state the event left and its step amount. -/
def State.raiseClock (i : ScreenNo) (step : Int) (s : State) : State :=
  s.raise .clock i 0 s.screens[i].clock.state.code 0 step

/-- R80, R145: an ALARM notice of record k with its state after the change; causes as R9 codes them. -/
def State.raiseAlarm (i : ScreenNo) (k : RecordNo) (state : AlarmState) (cause : Nat) (s : State) : State :=
  s.raise .alarm i (58 * i.val + k.val) state.code cause 0

/-- R168, R174: a reply is placed, or waits in the reply slot. -/
def State.offerReply (r : Reply) (s : State) : State :=
  if s.reportSpace then s.place (.reply r) else { s with replySlot := some r }

/-- What carrying out a request leaves: the state, the result, and the reply's record. -/
structure Answer where
  state  : State
  result : Result
  record : List Byte
  deriving DecidableEq, Repr

/-- R8: a refusal changes nothing and its record is empty. -/
def refuse (s : State) (r : Result) : Answer := { state := s, result := r, record := [] }

/-- OK, or OK_CLAMPED when a field was clamped (R8). -/
def accept (s : State) (clamped : Bool) (record : List Byte) : Answer :=
  { state := s, result := if clamped then .okClamped else .ok, record := record }

end Sys2Proof.Machine
end

