-- ==== Sys2Proof/Machine/Lanes.lean ====
section
/-! DEFINITION. The Lane Interface: lane block records, sense records, the hand-off of outcomes and the sense views
(R12, R120 to R128). -/

namespace Sys2Proof.Machine

/-- R12: sample t of every lane feed, lane feed 0 first. -/
def interleave (samples : Vector (List Int) 8) (t : Nat) : List Int := samples.toList.map fun l => l.getD t 0

/-- R12: a lane block record without its check. -/
def LaneRecord.payload (r : LaneRecord) : List Byte :=
  beNat 2 r.count.toNat ++
    (List.range Config.blockLength).flatMap fun t => (interleave r.samples t).flatMap (beBytes 3)

/-- R12: a lane block record as the lane sends it. -/
def LaneRecord.bytes (r : LaneRecord) : List Byte := r.payload ++ beNat 2 (frameCheck r.payload).toNat

/-- R121: a record placed at the tail; the queue holds at most two (log entry 6). -/
def queueRecord (queue : List LaneRecord) (r : LaneRecord) : List LaneRecord :=
  queue.drop (queue.length - (Config.transmitDepth - 1)) ++ [r]

/-- R121: what stage 4 does on one lane with the output samples of its eight feeds. -/
def Lane.send (l : Lane) (samples : Vector (List Int) 8) : Lane :=
  { l with
    transmit := queueRecord l.transmit { count := l.nextCount, samples := samples }
    awaiting := l.awaiting ++ [{ count := l.nextCount, slot := none }]
    nextCount := l.nextCount + 1 }

/-- R121: stage 4 on both lanes of the screen. -/
def Screen.sendLanes (x : Screen) (out : Vector (List Int) 16) : Screen :=
  { x with
    lanes := tabulate fun side : Fin 2 =>
      x.lanes[side].send (tabulate fun j : Fin 8 => out[laneFeed side j]) }

/-- R121: the record whose last byte has been sent leaves the queue; the next is then at the head. -/
def Lane.sent (l : Lane) : Lane := { l with transmit := l.transmit.drop 1 }

/-! ## Sense records -/

/-- R12: one lane feed of a sense record, from its three bytes. -/
def senseReturn : List Byte → SenseReturn
  | [hi, lo, flags] =>
      { peak := numberOf [hi, lo], protect := flags.getLsbD 0, thermal := flags.getLsbD 1 }
  | _ => { peak := 0, protect := false, thermal := false }

/-- R12: the eight lane feeds of a sense record. -/
def senseReturns (record : List Byte) : Vector SenseReturn 8 :=
  tabulate fun j => senseReturn ((record.drop (2 + 3 * j.val)).take 3)

/-- R12, R122: 28 bytes and a good check. -/
def senseRecordGood (record : List Byte) : Bool :=
  record.length = 28 && (frameCheck (record.take 26)).toNat = numberOf (record.drop 26)

/-- R122: the count a sense record echoes. -/
def senseCount (record : List Byte) : BitVec 16 := BitVec.ofNat 16 (numberOf (record.take 2))

/-- R122: the returns stored in the first entry of that count whose slot is empty; none when there is no such
entry or its slot holds a record. -/
def storeSense (c : BitVec 16) (r : Vector SenseReturn 8) : List Awaiting → Option (List Awaiting)
  | [] => none
  | a :: rest =>
      if a.count = c then
        match a.slot with
        | none => some ({ a with slot := some r } :: rest)
        | some _ => none
      else
        match storeSense c r rest with
        | some rest' => some (a :: rest')
        | none => none

/-- R122: a sense record that passed its check. -/
def Lane.receive (l : Lane) (c : BitVec 16) (r : Vector SenseReturn 8) : Lane :=
  match storeSense c r l.awaiting with
  | some list => { l with awaiting := list }
  | none => { l with seqErrors := satInc l.seqErrors }

/-- R122: the arrival of a sense record. -/
def Lane.arrive (l : Lane) (record : List Byte) : Lane :=
  if senseRecordGood record then l.receive (senseCount record) (senseReturns record) else l

/-- One lane of the part changed. -/
def State.modLane (n : LaneNo) (f : Lane → Lane) (s : State) : State :=
  s.modScreen (laneScreen n) fun x => { x with lanes := adjust x.lanes (laneSide n) f }

/-! ## Hand-off at stage 6 -/

/-- R123: what a lane hands over for the block two boundaries earlier. -/
inductive Handed
  | none
  | lost
  | received (returns : Vector SenseReturn 8)
  deriving DecidableEq, Repr

/-- R123: the outcome for the block with count `due`. -/
def Lane.handed (l : Lane) (due : BitVec 16) : Handed :=
  match l.awaiting with
  | [] => .none
  | a :: _ =>
      if a.count = due then
        match a.slot with
        | some r => .received r
        | none => .lost
      else .none

/-- R120: the outcome a sense view names. -/
def Handed.outcome : Handed → LaneOutcome
  | .none => .none
  | .lost => .lost
  | .received _ => .received

/-- R123: a lane feed's view after an outcome. -/
def SenseView.after (v : SenseView) (due : BitVec 16) (h : Handed) (j : Fin 8) : SenseView :=
  match h with
  | .none => { v with outcome := .none, outcomeCount := none }
  | .lost => { v with outcome := .lost, outcomeCount := some due }
  | .received r => { outcome := .received, outcomeCount := some due, last := some { count := due, reading := r[j] } }

/-- R123: the effect on the lane of handing an outcome over. -/
def Lane.hand (l : Lane) (due : BitVec 16) : Lane :=
  let h := l.handed due
  let views := tabulate fun j => l.views[j].after due h j
  match h with
  | .none => { l with views := views }
  | .lost => { l with views := views, awaiting := l.awaiting.drop 1, miss := satInc l.miss }
  | .received _ => { l with views := views, awaiting := l.awaiting.drop 1 }

/-- R123: the count two before the block just sent; that block's count is one below the next count. -/
def Lane.dueCount (l : Lane) : BitVec 16 := l.nextCount - 3

/-- R123: what the two lanes of a screen hand over at stage 6. -/
def Screen.handedLanes (x : Screen) : Vector Handed 2 :=
  tabulate fun side => x.lanes[side].handed x.lanes[side].dueCount

/-- R123: both lanes after the hand-off. -/
def Screen.handLanes (x : Screen) : Screen :=
  { x with lanes := tabulate fun side => x.lanes[side].hand x.lanes[side].dueCount }

/-- What is handed over for one feed of the screen (R120, R123). -/
inductive FeedReturn
  | none
  | lost
  | received (reading : SenseReturn)
  deriving DecidableEq, Repr

/-- R120, R123: the outcome of a feed's lane, read at its lane feed. -/
def feedReturn (handed : Vector Handed 2) (k : FeedNo) : FeedReturn :=
  match handed[feedSide k] with
  | .none => .none
  | .lost => .lost
  | .received r => .received r[feedSlot k]

/-! ## Requests -/

/-- R125. -/
def doReadSense (feed : Nat) (s : State) : Answer :=
  if h : feed < 96 then
    let i : ScreenNo := ⟨feed / 16, by omega⟩
    let k : FeedNo := ⟨feed % 16, by omega⟩
    accept s false
      (senseBytes (2 * i.val + (feedSide k).val) (feedSlot k) s.screens[i].lanes[feedSide k].views[feedSlot k])
  else refuse s .badIndex

/-- R126: both tallies of a lane at 0. -/
def Lane.clearTallies (l : Lane) : Lane := { l with miss := 0, seqErrors := 0 }

end Sys2Proof.Machine
end

