-- ==== Sys2Proof/Machine/Streams.lean ====
section
/-! DEFINITION. The Stream Table and the source changes that move a screen's queues (R20 to R27, R47). -/

namespace Sys2Proof.Machine

/-- R13 step 4: the entry in use that holds a stream number. -/
def State.findStream (number : Nat) (s : State) : Option EntryNo :=
  (indexes 32).find? fun e => decide (s.entries[e].state ≠ .unused ∧ s.entries[e].number = number)

/-- R47: every block of the program queue is freed. -/
def State.freeProgram (i : ScreenNo) (s : State) : State :=
  (s.release s.screens[i].playout.program.length).modScreen i fun x =>
    { x with playout := { x.playout with program := [] } }

/-- R47: every block of the standby queue is freed. -/
def State.freeStandby (i : ScreenNo) (s : State) : State :=
  (s.release s.screens[i].playout.standby.length).modScreen i fun x =>
    { x with playout := { x.playout with standby := [] } }

/-- R24: the standby queue becomes the program queue. -/
def State.swapQueues (i : ScreenNo) (s : State) : State :=
  s.modScreen i fun x => { x with playout := { x.playout with program := x.playout.standby, standby := [] } }

/-- An entry's state set. -/
def State.setEntryState (e : EntryNo) (st : EntryState) (s : State) : State :=
  s.modEntry e fun x => { x with state := st }

/-- R14: the last sequence becomes absent. -/
def State.forgetSequence (e : EntryNo) (s : State) : State := s.modEntry e fun x => { x with lastSeq := none }

/-- R23: the PRIMED entry the PRIME of `e` displaces becomes INACTIVE and the standby queue is freed. -/
def State.displacePrimed (i : ScreenNo) (s : State) : State :=
  match s.primedEntry i with
  | some p => (s.setEntryState p .inactive).freeStandby i
  | none => s

/-- R24: the entry that was ACTIVE becomes INACTIVE. -/
def State.retireActive (i : ScreenNo) (s : State) : State :=
  match s.activeEntry i with
  | some a => s.setEntryState a .inactive
  | none => s

/-- R23: PRIME of an INACTIVE entry. -/
def State.primeInactive (e : EntryNo) (s : State) : State :=
  ((s.displacePrimed s.entries[e].screen).setEntryState e .primed).forgetSequence e

/-- R24: ACTIVATE of a PRIMED entry. -/
def State.activatePrimed (e : EntryNo) (s : State) : State :=
  (((s.freeProgram s.entries[e].screen).swapQueues s.entries[e].screen).retireActive
    s.entries[e].screen).setEntryState e .active

/-- R24: ACTIVATE of an INACTIVE entry. -/
def State.activateInactive (e : EntryNo) (s : State) : State :=
  (((s.freeProgram s.entries[e].screen).retireActive s.entries[e].screen).setEntryState e .active).forgetSequence e

/-- R23: PRIME of entry e, its result and effect. -/
def State.primeEntry (e : EntryNo) (s : State) : State × Result :=
  match s.entries[e].state with
  | .inactive => (s.primeInactive e, .ok)
  | .primed => (s, .ok)
  | .active => (s, .inUse)
  | .unused => (s, .empty)

/-- R24: ACTIVATE of entry e, its result and effect. -/
def State.activateEntry (e : EntryNo) (s : State) : State × Result :=
  match s.entries[e].state with
  | .primed => (s.activatePrimed e, .ok)
  | .inactive => (s.activateInactive e, .ok)
  | .active => (s, .ok)
  | .unused => (s, .empty)

/-- R25: DEACTIVATE of entry e, its result and effect. -/
def State.deactivateEntry (e : EntryNo) (s : State) : State × Result :=
  match s.entries[e].state with
  | .active => ((s.setEntryState e .inactive).freeProgram s.entries[e].screen, .ok)
  | .primed => ((s.setEntryState e .inactive).freeStandby s.entries[e].screen, .ok)
  | .inactive => (s, .ok)
  | .unused => (s, .empty)

/-- R170: the answer of PRIME, ACTIVATE and DEACTIVATE: the entry's readable fields, or a refusal. -/
def entryAnswer (e : EntryNo) (before : State) (r : State × Result) : Answer :=
  match r.2 with
  | .ok => accept r.1 false (streamBytes r.1.entries[e])
  | other => refuse before other

/-- R23. -/
def doPrime (entry : Nat) (s : State) : Answer :=
  if h : entry < 32 then entryAnswer ⟨entry, h⟩ s (s.primeEntry ⟨entry, h⟩) else refuse s .badIndex

/-- R24. -/
def doActivate (entry : Nat) (s : State) : Answer :=
  if h : entry < 32 then entryAnswer ⟨entry, h⟩ s (s.activateEntry ⟨entry, h⟩) else refuse s .badIndex

/-- R25. -/
def doDeactivate (entry : Nat) (s : State) : Answer :=
  if h : entry < 32 then entryAnswer ⟨entry, h⟩ s (s.deactivateEntry ⟨entry, h⟩) else refuse s .badIndex

/-! ## Writing an entry -/

/-- R22: whether another entry in use holds the number. -/
def State.numberTaken (e : EntryNo) (number : Nat) (s : State) : Bool :=
  (indexes 32).any fun o => decide (o ≠ e ∧ s.entries[o].state ≠ .unused ∧ s.entries[o].number = number)

/-- R22 step 4: the write changes what a PRIMED or ACTIVE entry may not change. -/
def StreamEntry.differs (x : StreamEntry) (w : StreamWrite) (channels : Nat) : Bool :=
  x.number != w.number || x.screen.val != w.screen || x.channels != channels || x.timing != w.timing

/-- R22: the written fields stored in an entry. -/
def StreamEntry.store (x : StreamEntry) (w : StreamWrite) (screen : ScreenNo) (channels : Nat) : StreamEntry :=
  { x with number := w.number, screen := screen, channels := channels, order := w.order, timing := w.timing }

/-- R14, R27: tallies 0 and last sequence absent. -/
def StreamEntry.forget (x : StreamEntry) : StreamEntry :=
  { x with tallies := Vector.replicate 13 0, lastSeq := none }

/-- R22: the effect table of a write that passes. -/
def StreamEntry.write (x : StreamEntry) (w : StreamWrite) (screen : ScreenNo) (channels : Nat) : StreamEntry :=
  match x.state with
  | .unused =>
      if w.number = 0 then x
      else ({ x.store w screen channels with state := .inactive } : StreamEntry).forget
  | .inactive =>
      if w.number = 0 then StreamEntry.powerOn
      else if x.number = w.number ∧ x.screen = screen then x.store w screen channels
      else (x.store w screen channels).forget
  | .primed | .active => { x with order := w.order }

/-- R22: the checks of a STREAM write, in order. -/
def doWriteStream (index : Nat) (w : StreamWrite) (s : State) : Answer :=
  if h : index < 32 then
    if w.number ≤ 4095 then
      if hs : w.screen < 6 then
        let e : EntryNo := ⟨index, h⟩
        let x := s.entries[e]
        let channels := clampNat 1 8 w.channels
        if (x.state = .primed ∨ x.state = .active) ∧ x.differs w channels then refuse s .inUse
        else if w.number ≠ 0 ∧ s.numberTaken e w.number then refuse s .badValue
        else
          let s' := s.modEntry e fun x => x.write w ⟨w.screen, hs⟩ channels
          accept s' (channels != w.channels) (streamBytes s'.entries[e])
      else refuse s .badValue
    else refuse s .badValue
  else refuse s .badIndex

/-- R26: every used entry of the screen becomes INACTIVE with tallies 0 and last sequence absent. -/
def State.resetEntries (i : ScreenNo) (s : State) : State :=
  { s with
    entries := tabulate fun e =>
      let x := s.entries[e]
      if x.screen = i ∧ x.state ≠ .unused then ({ x with state := .inactive } : StreamEntry).forget else x }

end Sys2Proof.Machine
end

