-- ==== Sys2Proof/Machine/Pool.lean ====
section
/-! DEFINITION. The Block Pool: offers (R31, R32), selection (R41 to R43), standby pruning (R45) and the quota
trim (R29). -/

namespace Sys2Proof.Machine

/-- R31: a block put before the first block whose PT is later, or at the tail. -/
def insertTimed (b : Block) : List Block → List Block
  | [] => [b]
  | x :: xs => if 0 < signedDiff x.pt b.pt then b :: x :: xs else x :: insertTimed b xs

/-- R31: a block placed in a queue of the given timing mode. -/
def insertBlock (mode : TimingMode) (b : Block) (queue : List Block) : List Block :=
  match mode with
  | .timed => insertTimed b queue
  | .arrival => queue ++ [b]

/-- R31: the queue an entry fills: the program queue when it is ACTIVE, the standby queue otherwise. -/
def Playout.queueOf (p : Playout) : EntryState → List Block
  | .active => p.program
  | .unused | .inactive | .primed => p.standby

/-- R31: that queue replaced. -/
def Playout.setQueue (p : Playout) (st : EntryState) (queue : List Block) : Playout :=
  match st with
  | .active => { p with program := queue }
  | .unused | .inactive | .primed => { p with standby := queue }

/-- R31: the block placed in the queue its entry fills. -/
def Playout.accept (p : Playout) (entry : StreamEntry) (b : Block) : Playout :=
  p.setQueue entry.state (insertBlock entry.timing b (p.queueOf entry.state))

/-- R31: a block that passes takes a free slot and is placed; ACCEPTED rises. -/
def State.placeBlock (e : EntryNo) (b : Block) (s : State) : State :=
  let entry := s.entries[e]
  let taken : State := { s with freeSlots := s.freeSlots - 1 }
  (taken.modScreen entry.screen fun x => { x with playout := x.playout.accept entry b }).bumpEntry e .accepted 1

/-- R31, R32: the tally of the first test an offer fails, or none when it passes. -/
def State.offerFailure (e : EntryNo) (b : Block) (s : State) : Option EntryTally :=
  let entry := s.entries[e]
  let screen := s.screens[entry.screen]
  if s.freeSlots = 0 then some .poolDrop
  else if screen.settings.quota ≤ screen.playout.held then some .quotaDrop
  else
    match entry.timing with
    | .arrival => none
    | .timed =>
        if (screen.playout.queueOf entry.state).any fun x => x.pt = b.pt then some .duplicate
        else if !screen.untied && decide ((screen.settings.lateLimit : Int) < signedDiff screen.clock.now b.pt) then
          some .stale
        else none

/-- R31: an offer from entry e. -/
def State.offerBlock (e : EntryNo) (b : Block) (s : State) : State :=
  match s.offerFailure e b with
  | some t => s.bumpEntry e t 1
  | none => s.placeBlock e b

/-! ## Selection -/

/-- R39: the decision of a boundary. -/
inductive Decision | onTime | latePlay | wait | underrun
  deriving DecidableEq, Repr

/-- What selection leaves: the decision, the block played, the queue's rest, and the discards. -/
structure Selection where
  decision : Decision
  played   : Option Block
  rest     : List Block
  stale    : Nat
  farEarly : Nat
  deriving DecidableEq, Repr

/-- R41, R42: the table applied to the head, again after each discard. -/
def selectTimed (t : ScreenTime) (late early : Int) : List Block → Selection
  | [] => { decision := .underrun, played := none, rest := [], stale := 0, farEarly := 0 }
  | b :: rest =>
      let lateness := signedDiff t b.pt
      if late < lateness then
        let r := selectTimed t late early rest
        { r with stale := r.stale + 1 }
      else if 24 ≤ lateness then { decision := .latePlay, played := some b, rest := rest, stale := 0, farEarly := 0 }
      else if -24 ≤ lateness then { decision := .onTime, played := some b, rest := rest, stale := 0, farEarly := 0 }
      else if -early ≤ lateness then
        { decision := .wait, played := none, rest := b :: rest, stale := 0, farEarly := 0 }
      else
        let r := selectTimed t late early rest
        { r with farEarly := r.farEarly + 1 }

/-- R43. -/
def selectArrival : List Block → Selection
  | [] => { decision := .underrun, played := none, rest := [], stale := 0, farEarly := 0 }
  | b :: rest => { decision := .onTime, played := some b, rest := rest, stale := 0, farEarly := 0 }

/-- R30: a queue's mode is that of the entry that fills it; a queue without one is empty. -/
def State.modeOf (e : Option EntryNo) (s : State) : TimingMode :=
  match e with
  | some e => s.entries[e].timing
  | none => .timed

/-- R41, R43. -/
def selectBlock (mode : TimingMode) (t : ScreenTime) (late early : Int) (queue : List Block) : Selection :=
  match mode with
  | .timed => selectTimed t late early queue
  | .arrival => selectArrival queue

/-- A tally of an entry that may be absent. -/
def State.bumpEntry? (e : Option EntryNo) (t : EntryTally) (n : Nat) (s : State) : State :=
  match e with
  | some e => s.bumpEntry e t n
  | none => s

/-- R36, R41: the screen's UNDERRUN (only with an ACTIVE entry) and WAITED tallies. -/
def State.countDecision (i : ScreenNo) (active : Option EntryNo) (d : Decision) (s : State) : State :=
  match d with
  | .underrun => if active.isSome then s.bumpScreen i .underrun else s
  | .wait => s.bumpScreen i .waited
  | .latePlay => s.bumpEntry? active .late 1
  | .onTime => s

/-- R41 to R43: the effects of a selection: the queue, the slots, the tallies, and the resync flag of a discard
in SELF_TIMED mode. -/
def State.applySelection (i : ScreenNo) (active : Option EntryNo) (r : Selection) (s : State) : State :=
  let freed := s.screens[i].playout.program.length - r.rest.length
  let s1 := (s.release freed).modScreen i fun x =>
    { x with
      playout :=
        { x.playout with
          program := r.rest
          resync := x.playout.resync || (x.settings.clockMode = .selfTimed && 0 < r.stale + r.farEarly) } }
  ((s1.bumpEntry? active .stale r.stale).bumpEntry? active .farEarly r.farEarly).countDecision i active r.decision

/-- R45: the blocks pruning keeps. -/
def keptStandby (t : ScreenTime) (late : Int) (queue : List Block) : List Block :=
  queue.filter fun b => signedDiff t b.pt ≤ late

/-- R45: standby pruning with the boundary's T. The resync flag is read as it stands after the selection, so a discard of
this boundary's own selection already holds pruning off (the model's choice, log entry 11: R42 lets a flag so set take
effect at the next boundary). -/
def State.pruneStandby (i : ScreenNo) (s : State) : State :=
  let primed := s.primedEntry i
  let x := s.screens[i]
  if s.modeOf primed = .arrival ∨ x.untied then s
  else
    let kept := keptStandby x.clock.base x.settings.lateLimit x.playout.standby
    let pruned := x.playout.standby.length - kept.length
    ((s.release pruned).modScreen i fun x => { x with playout := { x.playout with standby := kept } }).bumpEntry?
      primed .pruned pruned

/-! ## Quota trim -/

/-- R29: QUOTA_DROP on the entry each freed block came from. -/
def State.chargeTrim (freed : List Block) (s : State) : State :=
  freed.foldl (fun s b => s.bumpEntry b.entry .quotaDrop 1) s

/-- R29: standby blocks are freed from the tail, then program blocks from the tail, until the held count is the quota. -/
def State.trimQuota (i : ScreenNo) (quota : Nat) (s : State) : State :=
  let p := s.screens[i].playout
  let keepStandby := quota - p.program.length
  let keepProgram := quota
  let freed := p.standby.drop keepStandby ++ p.program.drop keepProgram
  ((s.release freed.length).modScreen i fun x =>
    { x with playout := { x.playout with program := p.program.take keepProgram, standby := p.standby.take keepStandby } }
  ).chargeTrim freed

end Sys2Proof.Machine
end

