-- ==== Sys2Proof/Machine/Presets.lean ====
section
/-! DEFINITION. The Render Engine: preset writes and selection (R67 to R73), the latch with retirement and revival
(R78 to R82), input values (R74), fill (R75, R76) and the render (R77). -/

namespace Sys2Proof.Machine

/-! ## Records and selection -/

/-- R69: a preset is in use while a screen's stored selection names it. -/
def State.presetInUse (p : PresetNo) (s : State) : Bool :=
  (indexes 6).any fun i => s.screens[i].render.selection = some p

/-- R68 step 4: one fill entry of a channel below n whose mode is FILL. -/
def donorsAllowed (i n : Nat) (e : FillEntry) : Bool :=
  match e.mode with
  | .none | .mute => true
  | .fill =>
      e.donorA != i && decide (e.donorA < n) &&
        match e.donorB with
        | none => true
        | some (b, _) => b != i && decide (b < n)

/-- R68 step 4 over the channels below n. -/
def fillsAllowed (n : Nat) (fill : Vector FillEntry 8) : Bool :=
  (indexes 8).all fun i => decide (n ≤ i.val) || donorsAllowed i.val n fill[i]

/-- One preset replaced. -/
def State.setPreset (p : PresetNo) (r : Preset) (s : State) : State :=
  { s with presets := adjust s.presets p fun _ => r }

/-- R68: the checks of a PRESET write, in order. -/
def doWritePreset (index : Nat) (r : Preset) (s : State) : Answer :=
  if h : index < 16 then
    let p : PresetNo := ⟨index, h⟩
    if !r.used then
      if s.presetInUse p then refuse s .inUse
      else accept (s.setPreset p Preset.powerOn) false (presetBytes Preset.powerOn)
    else
      let n := clampNat 1 8 r.channels
      let stored : Preset := { r with channels := n }
      if fillsAllowed n r.fill then
        accept (s.setPreset p stored) (n != r.channels) (presetBytes stored)
      else refuse s .badValue
  else refuse s .badIndex

/-- R70: the stored selection set. -/
def State.select (i : ScreenNo) (p : Option PresetNo) (s : State) : State :=
  s.modScreen i fun x => { x with render := { x.render with selection := p } }

/-- R70: the reply's optional preset index. -/
def selectionBytes (p : Option PresetNo) : List Byte := optionBytes (fun p : PresetNo => beNat 1 p.val) p

/-- R70. -/
def doSetPreset (screen : Nat) (preset : Option Nat) (s : State) : Answer :=
  if h : screen < 6 then
    match preset with
    | none => accept (s.select ⟨screen, h⟩ none) false (selectionBytes none)
    | some p =>
        if hp : p < 16 then
          if s.presets[(⟨p, hp⟩ : PresetNo)].used then
            accept (s.select ⟨screen, h⟩ (some ⟨p, hp⟩)) false (selectionBytes (some ⟨p, hp⟩))
          else refuse s .empty
        else refuse s .badValue
  else refuse s .badIndex

/-! ## The latch -/

/-- R72: the copy a boundary takes of the stored selection. -/
def State.toLatch (i : ScreenNo) (s : State) : Option LatchedPreset :=
  match s.screens[i].render.selection with
  | none => none
  | some p => some { index := p, preset := s.presets[p] }

/-- R79: a retired record. -/
def AlarmRecord.retire (r : AlarmRecord) : AlarmRecord :=
  { r with state := .normal, run := 0, clear := 0, recorded := none, acked := false, raised := none }

/-- R79: the record is in use under the old latch and not under the new one. -/
def leavesUse (old new : Option LatchedPreset) (k : RecordNo) : Bool := recordInUse old k && !recordInUse new k

/-- R72, R79, R81: the screen with the new latch taken and the records that leave use retired. -/
def Screen.latch (x : Screen) (new : Option LatchedPreset) : Screen :=
  { x with
    render := { x.render with latched := new }
    records := tabulate fun k =>
      if leavesUse x.render.latched new k then x.records[k].retire else x.records[k] }

/-- R80: the records whose retirement causes a notice, in ascending number. -/
def Screen.retiredRaised (x : Screen) (new : Option LatchedPreset) : List RecordNo :=
  (indexes 58).filter fun k => leavesUse x.render.latched new k && x.records[k].state != .normal

/-- R80: the RETIRED notices. -/
def State.raiseRetired (i : ScreenNo) (ks : List RecordNo) (s : State) : State :=
  ks.foldl (fun s k => s.raiseAlarm i k .normal 3) s

/-! ## Input values -/

/-- R74. -/
inductive ChannelStatus | present | missing | unplayed
  deriving DecidableEq, Repr

/-- A block of zeros. -/
def silence : List Int := List.replicate Config.blockLength 0

/-- R74: the channel is in the played block with its present bit set. -/
def Block.carries (b : Block) (i : ChannelNo) : Bool := i.val < b.channels && b.present.getLsbD i.val

/-- R74: status of a channel; a block is played by ON TIME and LATE PLAY alone. -/
def channelStatus (played : Option Block) (i : ChannelNo) : ChannelStatus :=
  match played with
  | none => .unplayed
  | some b => if b.carries i then .present else .missing

/-- R74: input values of a channel. -/
def channelInput (played : Option Block) (i : ChannelNo) : List Int :=
  match played with
  | none => silence
  | some b => if b.carries i then b.samples.getD i.val silence else silence

/-- R74: input values of the eight channels. -/
def blockInputs (played : Option Block) : Vector (List Int) 8 := tabulate fun i => channelInput played i

/-! ## Fill and render -/

/-- R76: the blend of one sample. -/
def fillBlend (ca xa cb xb : Int) : Int := satSample (roundShift (ca * xa + cb * xb) 14)

/-- The values of a donor; a donor is a channel below 8. -/
def donorValues (inputs : Vector (List Int) 8) (d : Nat) : List Int :=
  if h : d < 8 then inputs[d] else silence

/-- R75: the substituted values of channel i under its fill entry. -/
def substituted (inputs : Vector (List Int) 8) (i : ChannelNo) (e : FillEntry) : List Int :=
  match e.mode with
  | .none => inputs[i]
  | .mute => silence
  | .fill =>
      match e.donorB with
      | none => (donorValues inputs e.donorA).map fun xa => fillBlend e.coefA xa 0 0
      | some (b, cb) =>
          List.zipWith (fun xa xb => fillBlend e.coefA xa cb xb) (donorValues inputs e.donorA) (donorValues inputs b)

/-- R75: the values of the eight channels after substitution; `filled` is the latched fill state. -/
def renderInputs (preset : Preset) (filled : Vector Bool 8) (inputs : Vector (List Int) 8) : Vector (List Int) 8 :=
  tabulate fun i => if i.val < preset.channels && filled[i] then substituted inputs i preset.fill[i] else inputs[i]

/-- R77: the exact sums of one row over the channels below n. -/
def rowSums (row : Vector Int 8) (n : Nat) (values : Vector (List Int) 8) : List Int :=
  (indexes 8).foldl
    (fun acc i => if i.val < n then List.zipWith (fun a v => a + row[i] * v) acc values[i] else acc) silence

/-- R77: the feed words of one feed under a preset. -/
def renderFeed (preset : Preset) (values : Vector (List Int) 8) (f : FeedNo) : List Int :=
  if preset.feedSet.getLsbD f.val then
    (rowSums preset.matrix[f] preset.channels values).map fun a => roundShift a 14
  else silence

/-- R77: the sixteen feeds of a screen; every word is 0 without a latched preset. -/
def renderWords (latched : Option LatchedPreset) (filled : Vector Bool 8) (inputs : Vector (List Int) 8) :
    Vector (List Int) 16 :=
  match latched with
  | none => Vector.replicate 16 silence
  | some l =>
      let values := renderInputs l.preset filled inputs
      tabulate fun f => renderFeed l.preset values f

end Sys2Proof.Machine
end

