-- ==== Sys2Proof/Machine/Alarms.lean ====
section
/-! DEFINITION. The Alarm Unit and the Level Monitor's records: judgements (R135 to R140), profiles (R141, R142),
escalation (R143 to R145), ACK (R146), LIST_ALARMS (R172) and the reset (R149). -/

namespace Sys2Proof.Machine

/-- R134: how a record sees a block. -/
inductive Judgement | qualifying | clearing | neutral
  deriving DecidableEq, Repr

/-- R134: the inputs of an evaluation that are not in State. -/
structure BlockReport where
  decision  : Decision
  hadActive : Bool
  status    : Vector ChannelStatus 8
  mode      : ScreenMode
  muted     : Bool
  prePeaks  : Vector Nat 16
  handed    : Vector Handed 2
  deriving DecidableEq, Repr

/-- R135. -/
def judgeChLoss (mode : ScreenMode) (st : ChannelStatus) : Judgement :=
  match mode, st with
  | .check, _ => .neutral
  | .show, .missing => .qualifying
  | .show, .present => .clearing
  | .show, .unplayed => .neutral

/-- R136. -/
def judgeStarve (hadActive muted : Bool) (mode : ScreenMode) (d : Decision) : Judgement :=
  if !hadActive || muted || mode = .check then .neutral
  else
    match d with
    | .underrun | .wait => .qualifying
    | .onTime | .latePlay => .clearing

/-- R137. -/
def judgeRefLost : ClockState → Judgement
  | .acquiring | .holdover => .qualifying
  | .locked => .clearing
  | .unreferenced => .neutral

/-- R138. -/
def judgeOverload (prePeak threshold : Nat) : Judgement :=
  if threshold ≤ prePeak then .qualifying else .clearing

/-- R139. -/
def judgeFeedOpen (sent probe floor : Nat) (r : FeedReturn) : Judgement :=
  match r with
  | .none | .lost => .neutral
  | .received v => if sent < probe then .neutral else if v.peak < floor then .qualifying else .clearing

/-- R140. -/
def judgeAmpFault (r : FeedReturn) : Judgement :=
  match r with
  | .none => .neutral
  | .lost => .qualifying
  | .received v => if v.protect || v.thermal then .qualifying else .clearing

/-- The feed a feed record watches (R133). -/
def recordFeed (k : RecordNo) : FeedNo := ⟨recordSubject k % 16, by omega⟩

/-- The channel a CH_LOSS record watches (R133). -/
def recordChannel (k : RecordNo) : ChannelNo := ⟨recordSubject k % 8, by omega⟩

/-- R134: the judgement of record k of a screen at stage 6. -/
def Screen.judge (x : Screen) (b : BlockReport) (k : RecordNo) : Judgement :=
  match recordKind k with
  | .chLoss => judgeChLoss b.mode b.status[recordChannel k]
  | .starve => judgeStarve b.hadActive b.muted b.mode b.decision
  | .refLost => judgeRefLost x.clock.state
  | .overload => judgeOverload b.prePeaks[recordFeed k] x.profiles[AlarmKind.overload.profileIndex].threshold
  | .feedOpen =>
      judgeFeedOpen x.feeds[recordFeed k].sentTwo x.profiles[AlarmKind.feedOpen.profileIndex].probeLevel
        x.profiles[AlarmKind.feedOpen.profileIndex].returnFloor (feedReturn b.handed (recordFeed k))
  | .ampFault => judgeAmpFault (feedReturn b.handed (recordFeed k))

/-! ## Escalation -/

/-- R144: NORMAL to WARNING. -/
def AlarmRecord.warn (r : AlarmRecord) (t : ScreenTime) : AlarmRecord :=
  { r with state := .warning, run := 0, clear := 0, raised := some t, occurrences := min (r.occurrences + 1) 255 }

/-- R144: the action a profile records. -/
def recordOf (p : Profile) : Recorded :=
  { action := p.action, amount := if p.action = .reduce then p.reduce else 0 }

/-- R144: WARNING to ACTION. -/
def AlarmRecord.act (r : AlarmRecord) (p : Profile) : AlarmRecord :=
  { r with state := .action, run := 0, clear := 0, recorded := some (recordOf p) }

/-- R144: to NORMAL. -/
def AlarmRecord.settle (r : AlarmRecord) : AlarmRecord := r.retire

/-- R143: one more clearing block, in any state but NORMAL. -/
def AlarmRecord.clearing (r : AlarmRecord) (p : Profile) : AlarmRecord × Option Nat :=
  if p.clearAfter ≤ satInc r.clear then (r.settle, some 2) else ({ r with clear := satInc r.clear }, none)

/-- R143, R144: a record after one judgement, and the cause of the notice a transition queues (R9's codes). -/
def AlarmRecord.evaluate (r : AlarmRecord) (p : Profile) (t : ScreenTime) (j : Judgement) :
    AlarmRecord × Option Nat :=
  match j, r.state with
  | .neutral, _ => (r, none)
  | .qualifying, .normal =>
      if p.warnAfter ≤ satInc r.run then (r.warn t, some 0) else ({ r with run := satInc r.run }, none)
  | .clearing, .normal => ({ r with run := 0 }, none)
  | .qualifying, .warning =>
      if 0 < p.actAfter ∧ p.actAfter ≤ satInc r.run then (r.act p, some 1)
      else ({ r with run := satInc r.run, clear := 0 }, none)
  | .clearing, .warning => ({ r with run := 0 } : AlarmRecord).clearing p
  | .qualifying, .acked => ({ r with clear := 0 }, none)
  | .clearing, .acked => r.clearing p
  | .qualifying, .action => ({ r with clear := 0 }, none)
  | .clearing, .action => r.clearing p

/-- One alarm record of a screen replaced. -/
def State.setRecord (i : ScreenNo) (k : RecordNo) (r : AlarmRecord) (s : State) : State :=
  s.modScreen i fun x => { x with records := adjust x.records k fun _ => r }

/-- R134, R145: the evaluation of one record in use, and its notice. -/
def State.evaluateRecord (i : ScreenNo) (b : BlockReport) (k : RecordNo) (s : State) : State :=
  let x := s.screens[i]
  let r := x.records[k].evaluate x.profiles[(recordKind k).profileIndex] x.clock.now (x.judge b k)
  let s1 := s.setRecord i k r.1
  match r.2 with
  | some cause => s1.raiseAlarm i k r.1.state cause
  | none => s1

/-- R134: every record in use, in ascending number. -/
def State.evaluateAlarms (i : ScreenNo) (b : BlockReport) (s : State) : State :=
  (indexes 58).foldl
    (fun s k => if recordInUse s.screens[i].render.latched k then s.evaluateRecord i b k else s) s

/-! ## Requests -/

/-- R141: the actions a kind allows. -/
def AlarmKind.allows : AlarmKind → AlarmAction → Bool
  | _, .none => true
  | .chLoss, .fill => true
  | .refLost, .holdCues => true
  | .overload, .reduce => true
  | .ampFault, .muteFeed => true
  | _, _ => false

/-- R141: the kind of a profile by its place. -/
def profileKind (k : Fin 6) : AlarmKind :=
  if k.val = 0 then .chLoss
  else if k.val = 1 then .starve
  else if k.val = 2 then .refLost
  else if k.val = 3 then .overload
  else if k.val = 4 then .feedOpen
  else .ampFault

/-- R141 step 3. -/
def clampProfile (p : Profile) : Profile :=
  { p with
    warnAfter := clampNat 1 65535 p.warnAfter
    actAfter := clampNat 0 65535 p.actAfter
    clearAfter := clampNat 1 65535 p.clearAfter
    threshold := clampNat 1 8388608 p.threshold
    probeLevel := clampNat 1 8388608 p.probeLevel
    returnFloor := clampNat 1 65535 p.returnFloor
    reduce := clampNat 1 48 p.reduce }

/-- R141: the checks of a PROFILE write, in order. -/
def doWriteProfile (index : Nat) (p : Profile) (s : State) : Answer :=
  if h : index < 36 then
    let i : ScreenNo := ⟨index / 6, by omega⟩
    let k : Fin 6 := ⟨index % 6, by omega⟩
    if (profileKind k).allows p.action then
      accept (s.modScreen i fun x => { x with profiles := adjust x.profiles k fun _ => clampProfile p })
        (decide (clampProfile p ≠ p)) (profileBytes (clampProfile p))
    else refuse s .badValue
  else refuse s .badIndex

/-- R146: ACK of a record that is WARNING. -/
def AlarmRecord.acknowledgeWarning (r : AlarmRecord) : AlarmRecord := { r with state := .acked, run := 0, acked := true }

/-- R146. -/
def doAck (record : Nat) (s : State) : Answer :=
  if h : record < 348 then
    let i : ScreenNo := ⟨record / 58, by omega⟩
    let k : RecordNo := ⟨record % 58, by omega⟩
    let r := s.screens[i].records[k]
    match r.state with
    | .normal => refuse s .notRaised
    | .acked => accept s false (alarmBytes k r)
    | .warning => accept (s.setRecord i k r.acknowledgeWarning) false (alarmBytes k r.acknowledgeWarning)
    | .action => accept (s.setRecord i k { r with acked := true }) false (alarmBytes k { r with acked := true })
  else refuse s .badIndex

/-- R172: the records of a screen that are not NORMAL, in ascending number. -/
def Screen.raisedRecords (x : Screen) : List RecordNo :=
  (indexes 58).filter fun k => x.records[k].state != .normal

/-- R172: an item of LIST_ALARMS. -/
def listedBytes (i : ScreenNo) (x : Screen) (k : RecordNo) : List Byte :=
  beNat 2 (58 * i.val + k.val) ++ alarmBytes k x.records[k]

/-- R172. -/
def doListAlarms (screen : Nat) (s : State) : Answer :=
  if h : screen < 6 then
    let x := s.screens[(⟨screen, h⟩ : ScreenNo)]
    accept s false (listBytes (listedBytes ⟨screen, h⟩ x) x.raisedRecords)
  else refuse s .badIndex

/-! ## Reset -/

/-- R149: every record NORMAL with counts and occurrences 0. -/
def Screen.resetRecords (x : Screen) : Screen := { x with records := Vector.replicate 58 AlarmRecord.powerOn }

end Sys2Proof.Machine
end

