-- ==== Sys2Proof/Machine/Signals.lean ====
section
/-! DEFINITION. The Signal Generator: noise and tone (R105 to R108), steady patterns (R109 to R111), and the speaker
check (R112 to R119). -/

namespace Sys2Proof.Machine

/-! ## Generators -/

/-- R106: one step of the noise register. -/
def noiseStep (r : BitVec 23) : BitVec 23 :=
  (r <<< 1) ||| (if r.getLsbD 22 != r.getLsbD 17 then 1#23 else 0#23)

/-- R106: the raw noise sample of a register after its step. -/
def noiseSample (r : BitVec 23) : Int := 2 * (r.toNat : Int) - 8388608

/-- R106: `n` steps: the raw samples and the register left. -/
def noiseRun : Nat → BitVec 23 → List Int × BitVec 23
  | 0, r => ([], r)
  | n + 1, r =>
      let rest := noiseRun n (noiseStep r)
      (noiseSample (noiseStep r) :: rest.1, rest.2)

/-- R107: the raw tone samples of a block from phase p. -/
def toneSamples (tone : Vector Int 32) (p : Fin 32) : List Int :=
  (List.range Config.blockLength).map fun n => tone[(⟨(p.val + n) % 32, by omega⟩ : Fin 32)]

/-- R108: the pattern value of a raw sample. -/
def patternValue (level raw : Int) : Int := satSample (scaleByCode level raw)

/-- R108: the pattern values of a block; OFF gives none. -/
def patternWords (kind : PatternKind) (level : Int) (noise tone : List Int) : List Int :=
  match kind with
  | .off => silence
  | .noise => noise.map (patternValue level)
  | .tone => tone.map (patternValue level)

/-- R106, R107: both generators advance by one block. -/
def Signal.advance (g : Signal) : Signal :=
  { g with noise := (noiseRun Config.blockLength g.noise).2, tonePhase := g.tonePhase + 16 }

/-- One screen's generator state changed. -/
def State.modSignal (i : ScreenNo) (f : Signal → Signal) (s : State) : State :=
  s.modScreen i fun x => { x with signal := f x.signal }

/-! ## Steady pattern -/

/-- R109: the steady pattern a spec stores: absent for kind OFF. -/
def storedPattern (p : PatternSpec) : Option PatternSpec :=
  match p.kind with
  | .off => none
  | .noise | .tone => some { p with level := clampInt (-160) 0 p.level }

/-- R109: the steady pattern set. -/
def State.setPattern (i : ScreenNo) (p : PatternSpec) (s : State) : State :=
  s.modSignal i fun g => { g with pattern := storedPattern p }

/-- R109: whether the level is clamped. -/
def patternClamped (p : PatternSpec) : Bool := p.kind != .off && decide (p.level < -160 ∨ 0 < p.level)

/-- R109. -/
def doPattern (screen : Nat) (p : PatternSpec) (s : State) : Answer :=
  if h : screen < 6 then
    accept (s.setPattern ⟨screen, h⟩ p) (patternClamped p) (optionBytes patternBytes (storedPattern p))
  else refuse s .badIndex

/-- R107. -/
def doWriteWave (index : Nat) (tone : Vector Int 32) (s : State) : Answer :=
  if index = 0 then accept { s with tone := tone } false (waveBytes tone) else refuse s .badIndex

/-! ## The speaker check -/

/-- R113: what a check block is. -/
inductive CheckBlock
  | dwell (position : Nat) (feed : FeedNo)
  | gap
  | closing
  deriving DecidableEq, Repr

/-- R113: the length D + 1 of one feed's span. -/
def CheckRecord.span (c : CheckRecord) : Nat := c.spec.dwell + 1

/-- R113: the block count of the closing block, F(D + 1). -/
def CheckRecord.closingCount (c : CheckRecord) : Nat := c.feeds.length * c.span

/-- R113: the kind of check block n. -/
def CheckRecord.blockAt (c : CheckRecord) (n : Nat) : CheckBlock :=
  if n < c.closingCount then
    if n % c.span < c.spec.dwell then
      match c.feeds[n / c.span]? with
      | some k => .dwell (n / c.span) k
      | none => .gap
    else .gap
  else .closing

/-- One result entry of a screen changed. -/
def Signal.modResult (g : Signal) (k : FeedNo) (f : ResultEntry → ResultEntry) : Signal :=
  { g with results := adjust g.results k f }

/-- R113: the check block count of the next boundary. -/
def CheckRecord.nextCount (c : CheckRecord) : Nat :=
  match c.count with
  | none => 0
  | some n => n + 1

/-- R113: stage 1 of a running check: the count, and the entry of a feed at its first dwell block. -/
def Signal.countCheck (g : Signal) : Signal :=
  if g.check.running then
    let n := g.check.nextCount
    let g1 : Signal := { g with check := { g.check with count := some n } }
    match g.check.blockAt n with
    | .dwell _ k => if n % g.check.span = 0 then g1.modResult k fun r => { r with state := .running } else g1
    | .gap | .closing => g1
  else g

/-- R113: the check block being computed; none when no check is running. -/
def Signal.checkBlock (g : Signal) : Option CheckBlock :=
  if g.check.running then g.check.count.map g.check.blockAt else none

/-- R116: the entries in a state. -/
def Signal.countResults (g : Signal) (st : ResultState) : Nat :=
  ((indexes 16).filter fun k => g.results[k].state = st).length

/-- R112, R115, R117: a CHECK_DONE notice with the counts of the table; cause COMPLETE 0, STOPPED 1. -/
def State.raiseCheckDone (i : ScreenNo) (cause : Nat) (s : State) : State :=
  s.raise .checkDone i 0 cause (s.screens[i].signal.countResults .pass) (s.screens[i].signal.countResults .fail)

/-- R112: the feed list of a check: masked feeds in the latched preset's feed set, ascending. -/
def Screen.checkFeeds (x : Screen) (mask : BitVec 16) : List FeedNo :=
  match x.render.latched with
  | none => []
  | some l => (indexes 16).filter fun k => mask.getLsbD k.val && l.preset.feedSet.getLsbD k.val

/-- R112: the parameters clamped. -/
def clampCheckSpec (c : CheckSpec) : CheckSpec :=
  { c with
    level := clampInt (-160) 0 c.level
    dwell := clampNat 8 1000 c.dwell
    passCount := clampNat 1 (clampNat 8 1000 c.dwell) c.passCount
    returnFloor := clampNat 1 65535 c.returnFloor }

/-- R112: a result entry at the start of a check with the given feed list. -/
def startedEntry (feeds : List FeedNo) (k : FeedNo) : ResultEntry :=
  { state := if feeds.contains k then .untested else .skipped, hits := 0, maxPeak := 0 }

/-- R112: the generator state as a check starts. -/
def Signal.startCheck (g : Signal) (spec : CheckSpec) (feeds : List FeedNo) : Signal :=
  { g with
    check := { running := !feeds.isEmpty, spec := spec, feeds := feeds, count := none }
    results := tabulate (startedEntry feeds) }

/-- R36: the screen mode set. -/
def Screen.setMode (x : Screen) (m : ScreenMode) : Screen := { x with playout := { x.playout with mode := m } }

/-- R112: the start of a check on an IDLE screen: RUNNING in mode CHECK, or complete at once with an empty list. -/
def State.beginCheck (i : ScreenNo) (spec : CheckSpec) (s : State) : State :=
  let feeds := s.screens[i].checkFeeds spec.mask
  let s1 := s.modSignal i fun g => g.startCheck (clampCheckSpec spec) feeds
  if feeds.isEmpty then s1.raiseCheckDone i 0 else s1.modScreen i fun x => x.setMode .check

/-- R112: the checks of START_CHECK, in order. -/
def doStartCheck (screen : Nat) (spec : CheckSpec) (s : State) : Answer :=
  if h : screen < 6 then
    let i : ScreenNo := ⟨screen, h⟩
    if spec.kind = .off then refuse s .badValue
    else if s.screens[i].signal.check.running then refuse s .busy
    else
      let s' := s.beginCheck i spec
      accept s' (decide (clampCheckSpec spec ≠ spec)) (checkBytes s'.screens[i].signal.check)
  else refuse s .badIndex

/-- R115, R117: the check record of a check that has ended. -/
def CheckRecord.idle (c : CheckRecord) : CheckRecord := { c with running := false, count := none }

/-- R117: an unfinished entry becomes SKIPPED. -/
def ResultEntry.stop (r : ResultEntry) : ResultEntry :=
  match r.state with
  | .untested | .running => { r with state := .skipped }
  | .pass | .fail | .skipped => r

/-- R117: the generator state as a check is stopped. -/
def Signal.stopCheck (g : Signal) : Signal :=
  { g with check := g.check.idle, results := tabulate fun k => g.results[k].stop }

/-- R117: a running check stops. -/
def State.endCheck (i : ScreenNo) (s : State) : State :=
  ((s.modSignal i Signal.stopCheck).modScreen i fun x => x.setMode .show).raiseCheckDone i 1

/-- R117. -/
def doStopCheck (screen : Nat) (s : State) : Answer :=
  if h : screen < 6 then
    let i : ScreenNo := ⟨screen, h⟩
    if s.screens[i].signal.check.running then
      accept (s.endCheck i) false (checkBytes (s.endCheck i).screens[i].signal.check)
    else refuse s .empty
  else refuse s .badIndex

/-- R116. -/
def doReadCheck (screen : Nat) (s : State) : Answer :=
  if h : screen < 6 then
    let g := s.screens[(⟨screen, h⟩ : ScreenNo)].signal
    accept s false (checkBytes g.check ++ g.results.toList.flatMap resultBytes)
  else refuse s .badIndex

/-! ## Judging returns -/

/-- R114: a result entry after the return of one dwell block. -/
def ResultEntry.judge (r : ResultEntry) (floor : Nat) (ret : FeedReturn) : ResultEntry :=
  match ret with
  | .none | .lost => r
  | .received v =>
      { r with
        hits := if floor ≤ v.peak && !v.protect && !v.thermal then r.hits + 1 else r.hits
        maxPeak := max r.maxPeak v.peak }

/-- R114: the judgement at check block n. -/
def Signal.judgeReturn (g : Signal) (n : Nat) (handed : Vector Handed 2) : Signal :=
  if 2 ≤ n then
    match g.check.blockAt (n - 2) with
    | .dwell _ k => g.modResult k fun r => r.judge g.check.spec.returnFloor (feedReturn handed k)
    | .gap | .closing => g
  else g

/-- R115: a feed's result. -/
def ResultEntry.decide (r : ResultEntry) (passCount : Nat) : ResultEntry :=
  { r with state := if passCount ≤ r.hits then .pass else .fail }

/-- R115: the result of the feed at a position of the list. -/
def Signal.decideFeed (g : Signal) (position : Nat) : Signal :=
  match g.check.feeds[position]? with
  | some k => g.modResult k fun r => r.decide g.check.spec.passCount
  | none => g

/-- R115: at check block (j + 1)(D + 1) the feed at position j is decided. -/
def Signal.decideAt (g : Signal) (n : Nat) : Signal :=
  if 0 < n ∧ n % g.check.span = 0 then g.decideFeed (n / g.check.span - 1) else g

/-- R114, R115: stage 6 of check block n before the check can end. -/
def Signal.judgeCheck (g : Signal) (n : Nat) (handed : Vector Handed 2) : Signal :=
  (g.judgeReturn n handed).decideAt n

/-- R115: the check ends: IDLE, SHOW, CHECK_DONE COMPLETE. -/
def State.completeCheck (i : ScreenNo) (s : State) : State :=
  ((s.modSignal i fun g => { g with check := g.check.idle }).modScreen i fun x => x.setMode .show).raiseCheckDone i 0

/-- R114, R115: the speaker check at stage 6. -/
def State.checkStage (i : ScreenNo) (handed : Vector Handed 2) (s : State) : State :=
  let c := s.screens[i].signal.check
  match c.running, c.count with
  | true, some n =>
      let s1 := s.modSignal i fun g => g.judgeCheck n handed
      if n = c.closingCount then s1.completeCheck i else s1
  | _, _ => s

/-! ## Reset -/

/-- R105, R118: the generators after a screen reset; the stop of a running check is a step of its own. -/
def Signal.afterReset (g : Signal) : Signal := { g with noise := 1, tonePhase := 0, pattern := none }

end Sys2Proof.Machine
end

