-- ==== Sys2Proof/Machine/CueTable.lean ====
section
/-! DEFINITION. The cue table: writes (R152), release of children (R163), rearm after a backward step (R161), GO,
CANCEL and ENABLE (R156, R162), the screen reset (R164), and the marker list's intake (R153). -/

namespace Sys2Proof.Machine

/-- Every cue changed by `f`. -/
def State.mapCues (f : CueNo → Cue → Cue) (s : State) : State :=
  { s with cues := tabulate fun n => f n s.cues[n] }

/-- A cue that is PENDING with its countdown absent. -/
def Cue.toPending (c : Cue) : Cue := { c with state := .pending, countdown := none }

/-- R163: an ARMED cue whose parent is among those that left FIRED. -/
def Cue.releasedBy (c : Cue) (left : CueNo → Bool) : Bool :=
  c.state = .armed && c.spec.trigger = .after && if h : c.spec.parent < 256 then left ⟨c.spec.parent, h⟩ else false

/-- R163: the ARMED children of the cues that left FIRED become PENDING. -/
def State.releaseChildren (left : CueNo → Bool) (s : State) : State :=
  s.mapCues fun _ c => if c.releasedBy left then c.toPending else c

/-- R161: the cues a backward step to `tNew` rearms. -/
def Cue.rearmedBy (c : Cue) (i : ScreenNo) (tNew : ScreenTime) : Bool :=
  c.spec.screen = i.val && c.spec.trigger = .atTime && c.spec.rearm && (c.state = .fired || c.state = .missed) &&
    decide (0 < signedDiff c.spec.time tNew)

/-- R161: a backward step's rearm. -/
def State.rearmCues (i : ScreenNo) (tNew : ScreenTime) (s : State) : State :=
  let left := fun n : CueNo => s.cues[n].rearmedBy i tNew && s.cues[n].state = .fired
  (s.mapCues fun _ c => if c.rearmedBy i tNew then c.toPending else c).releaseChildren left

/-- R152: whether a loaded cue names this one as its parent. -/
def State.hasChildren (n : CueNo) (s : State) : Bool :=
  (indexes 256).any fun m =>
    decide (s.cues[m].state ≠ .empty ∧ s.cues[m].spec.trigger = .after ∧ s.cues[m].spec.parent = n.val)

/-- R152 step 4: the parent an AFTER write names is allowed. -/
def State.parentAllowed (n : CueNo) (w : CueSpec) (s : State) : Bool :=
  if h : w.parent < 256 then
    w.parent != n.val && s.cues[(⟨w.parent, h⟩ : CueNo)].state != .empty &&
      s.cues[(⟨w.parent, h⟩ : CueNo)].spec.screen == w.screen
  else false

/-- R152 step 5: the values of the written action that cannot be clamped. -/
def actionAllowed (w : CueSpec) : Bool :=
  match w.action with
  | .preset => w.preset < 16
  | .source | .prime => w.entry < 32
  | .check => w.check.kind != .off
  | .fade | .mute | .unmute | .bank | .pattern | .stopCheck | .notify => true

/-- R109: the level clamped. -/
def clampPattern (p : PatternSpec) : PatternSpec := { p with level := clampInt (-160) 0 p.level }

/-- R152 step 7, the trigger's part: the delay of an AFTER cue. -/
def clampTrigger (w : CueSpec) : CueSpec :=
  match w.trigger with
  | .after => { w with delay := clampNat 1 60000 w.delay }
  | .atTime | .onMarker | .manual => w

/-- R152 step 7, the action's part: only the fields the action uses (log entry 10 for a pattern of kind OFF). -/
def clampAction (w : CueSpec) : CueSpec :=
  match w.action with
  | .fade => { w with fadeTarget := clampNat 0 100 w.fadeTarget, fadeDuration := clampNat 1 60000 w.fadeDuration }
  | .pattern => { w with pattern := clampPattern w.pattern }
  | .check => { w with check := clampCheckSpec w.check }
  | .preset | .mute | .unmute | .source | .prime | .bank | .stopCheck | .notify => w

/-- R152 step 7. -/
def clampCue (w : CueSpec) : CueSpec := clampAction (clampTrigger w)

/-- R152: a stored cue is PENDING with its kept fields cleared. -/
def Cue.loaded (w : CueSpec) : Cue := { spec := w, state := .pending, countdown := none, lastFault := none, go := false }

/-- R163: the ARMED children of cue n are released when it is FIRED. -/
def State.releaseIfFired (n : CueNo) (s : State) : State :=
  if s.cues[n].state = .fired then s.releaseChildren fun m => m = n else s

/-- R152: the checks of a CUE write, in order. -/
def doWriteCue (index : Nat) (w : CueSpec) (s : State) : Answer :=
  if h : index < 256 then
    let n : CueNo := ⟨index, h⟩
    if !w.used then
      if s.hasChildren n then refuse s .inUse
      else accept (s.modCue n fun _ => Cue.powerOn) false (cueBytes Cue.powerOn)
    else if 6 ≤ w.screen then refuse s .badValue
    else if w.trigger = .after ∧ !s.parentAllowed n w then refuse s .badValue
    else if !(actionAllowed w) then refuse s .badValue
    else if s.cues[n].state ≠ .empty ∧ s.cues[n].spec.screen ≠ w.screen ∧ s.hasChildren n then refuse s .inUse
    else
      accept ((s.releaseIfFired n).modCue n fun _ => Cue.loaded (clampCue w)) (decide (clampCue w ≠ w))
        (cueBytes (Cue.loaded (clampCue w)))
  else refuse s .badIndex

/-- R156. -/
def doGo (cue : Nat) (s : State) : Answer :=
  if h : cue < 256 then
    let n : CueNo := ⟨cue, h⟩
    match s.cues[n].state with
    | .empty => refuse s .empty
    | .disabled => refuse s .badValue
    | .pending | .armed | .fired | .missed =>
        let s' := s.modCue n fun c => { c with go := true }
        accept s' false (cueBytes s'.cues[n])
  else refuse s .badIndex

/-- R162. -/
def doCancel (cue : Nat) (s : State) : Answer :=
  if h : cue < 256 then
    let n : CueNo := ⟨cue, h⟩
    match s.cues[n].state with
    | .empty => refuse s .empty
    | .disabled => accept s false (cueBytes s.cues[n])
    | .pending | .armed | .fired | .missed =>
        let s' := (s.releaseIfFired n).modCue n fun c =>
          { c with state := .disabled, countdown := none, go := false }
        accept s' false (cueBytes s'.cues[n])
  else refuse s .badIndex

/-- R162. -/
def doEnable (cue : Nat) (s : State) : Answer :=
  if h : cue < 256 then
    let n : CueNo := ⟨cue, h⟩
    match s.cues[n].state with
    | .empty => refuse s .empty
    | .disabled =>
        let s' := s.modCue n fun c => { c with state := .pending }
        accept s' false (cueBytes s'.cues[n])
    | .pending | .armed | .fired | .missed => accept s false (cueBytes s.cues[n])
  else refuse s .badIndex

/-- R164: a cue after a reset of its screen. -/
def Cue.afterReset (c : Cue) : Cue :=
  match c.state with
  | .empty => c
  | .disabled => { c with go := false }
  | .pending | .armed | .fired | .missed => { c with state := .pending, countdown := none, go := false }

/-- R164: the screen's cues at a screen reset. -/
def State.resetCues (i : ScreenNo) (s : State) : State :=
  s.mapCues fun _ c => if c.spec.screen = i.val then c.afterReset else c

/-! ## Markers -/

/-- R153: a marker inserted in PT order, after those of equal PT. -/
def insertMarker (m : Marker) : List Marker → List Marker
  | [] => [m]
  | x :: xs => if 0 < signedDiff x.pt m.pt then m :: x :: xs else x :: insertMarker m xs

/-- R153: a marker from the screen's ACTIVE entry, of the given timing mode. -/
def State.placeMarker (i : ScreenNo) (mode : TimingMode) (m : Marker) (s : State) : State :=
  let x := s.screens[i]
  if mode = .timed ∧ !x.untied ∧ (x.settings.lateLimit : Int) < signedDiff x.clock.now m.pt then
    s.bumpScreen i .markerStale
  else if Config.markerDepth ≤ x.markers.length then s.bumpScreen i .markerDrop
  else s.modScreen i fun x => { x with markers := insertMarker m x.markers }

end Sys2Proof.Machine
end

