-- ==== Sys2Proof/Machine/Clocks.lean ====
section
/-! DEFINITION. The Screen Clocks: block advance, steps, reference decisions, timeout, resync (R44, R49 to R66),
and the word clock's tick. -/

namespace Sys2Proof.Machine

/-- One screen's clock changed. -/
def State.modClock (i : ScreenNo) (f : Clock → Clock) (s : State) : State :=
  s.modScreen i fun x => { x with clock := f x.clock }

/-! ## Steps -/

/-- R51: a step of ST by d; a step of amount 0 is not made. STEP rises and the step is reported to the Cue Engine,
which rearms cues when it is backward (R161). -/
def State.stepClock (i : ScreenNo) (d : Int) (s : State) : State :=
  if d = 0 then s
  else
    let s1 := (s.modClock i fun c => { c with base := c.base + BitVec.ofInt 32 d }).bumpScreen i .step
    if d < 0 then s1.rearmCues i (s1.stNow i) else s1

/-! ## Block advance and timeout -/

/-- R50: the advance of one block. -/
def Clock.advance (c : Clock) : Nat :=
  if 0 < c.slip then 49 else if c.slip < 0 then 47 else 48

/-- R50: slip pending after the advance. -/
def Clock.slipAfter (c : Clock) : Int :=
  if 0 < c.slip then c.slip - 1 else if c.slip < 0 then c.slip + 1 else 0

/-- R49, R50: B becomes the advanced ST, e becomes 0. -/
def State.advanceClock (i : ScreenNo) (s : State) : State :=
  let c := s.screens[i].clock
  let s1 := s.modClock i fun c =>
    { c with base := c.base + BitVec.ofNat 32 c.advance, elapsed := 0, slip := c.slipAfter }
  if c.slip = 0 then s1 else s1.bumpScreen i .slip

/-- R61: the blocks-since-reference count of one boundary. -/
def Clock.countBlock (c : Clock) : Clock :=
  { c with sinceReference := if c.state = .unreferenced then 0 else satInc c.sinceReference }

/-- R61: a LOCKED clock whose count is at or above the timeout has lost its reference. -/
def Screen.referenceLost (x : Screen) : Bool :=
  x.clock.state = .locked && decide (x.settings.referenceTimeout ≤ x.clock.sinceReference)

/-- R61: the fall to HOLDOVER. -/
def Clock.toHoldover (c : Clock) : Clock := { c with state := .holdover, slip := 0, inWindow := 0, outWindow := 0 }

/-- R61: the timeout, when the count has reached it. -/
def State.timeoutReference (i : ScreenNo) (s : State) : State :=
  if s.screens[i].referenceLost then (s.modClock i Clock.toHoldover).raiseClock i 0 else s

/-- R61: the count of a boundary, and the timeout it may reach. -/
def State.countReference (i : ScreenNo) (s : State) : State := (s.modClock i Clock.countBlock).timeoutReference i

/-! ## Reference decisions -/

/-- R56: the difference within the window. -/
def Screen.withinWindow (x : Screen) (d : Int) : Bool := d.natAbs ≤ x.settings.window

/-- R57. -/
def State.judgeDiscontinuity (i : ScreenNo) (d : Int) (s : State) : State :=
  ((s.stepClock i d).modClock i fun c =>
    { c with
      inWindow := 0, outWindow := 0, slip := 0
      state := if c.state = .holdover then .locked else c.state }).raiseClock i d

/-- R58. -/
def State.judgeAcquiring (i : ScreenNo) (d : Int) (s : State) : State :=
  let x := s.screens[i]
  if x.withinWindow d then
    if x.clock.inWindow + 1 < x.settings.lockN then
      s.modClock i fun c => { c with inWindow := c.inWindow + 1 }
    else
      (s.modClock i fun c => { c with state := .locked, inWindow := 0, outWindow := 0 }).raiseClock i 0
  else ((s.stepClock i d).modClock i fun c => { c with inWindow := 0 }).raiseClock i d

/-- R59. -/
def State.judgeLocked (i : ScreenNo) (d : Int) (s : State) : State :=
  let x := s.screens[i]
  if x.withinWindow d then s.modClock i fun c => { c with slip := d, outWindow := 0 }
  else if x.clock.outWindow + 1 < x.settings.unlockN then
    s.modClock i fun c => { c with outWindow := c.outWindow + 1 }
  else
    ((s.stepClock i d).modClock i fun c =>
      { c with state := .acquiring, inWindow := 0, outWindow := 0, slip := 0 }).raiseClock i d

/-- R60. -/
def State.judgeHoldover (i : ScreenNo) (d : Int) (s : State) : State :=
  if s.screens[i].withinWindow d then
    (s.modClock i fun c => { c with state := .locked, slip := d, inWindow := 0, outWindow := 0 }).raiseClock i 0
  else
    ((s.stepClock i d).modClock i fun c =>
      { c with state := .acquiring, inWindow := 0, outWindow := 0, slip := 0 }).raiseClock i d

/-- R56 step 4: an accepted reference. -/
def State.acceptReference (i : ScreenNo) (d : Int) (discontinuity : Bool) (s : State) : State :=
  let s1 := s.modClock i fun c => { c with sinceReference := 0 }
  if discontinuity then s1.judgeDiscontinuity i d
  else
    match s1.screens[i].clock.state with
    | .acquiring => s1.judgeAcquiring i d
    | .locked => s1.judgeLocked i d
    | .holdover => s1.judgeHoldover i d
    | .unreferenced => s1

/-- R56: d = (R + offset) − ST_now. -/
def Screen.referenceDifference (x : Screen) (r : ScreenTime) : Int :=
  signedDiff (r + BitVec.ofInt 32 x.settings.referenceOffset) x.clock.now

/-- R56: a reference from the ACTIVE entry e of its screen. -/
def State.judgeReference (e : EntryNo) (r : ScreenTime) (discontinuity : Bool) (s : State) : State :=
  let i := s.entries[e].screen
  let d := s.screens[i].referenceDifference r
  if s.screens[i].clock.state = .unreferenced then s.bumpEntry e .refIgnored 1
  else if d = -2 ^ 31 then s.bumpScreen i .refBad
  else s.acceptReference i d discontinuity

/-! ## Resync -/

/-- R44: the screen time a due resync takes: the PT of the program queue's head. -/
def Screen.resyncTime (x : Screen) : Option ScreenTime :=
  if x.untied then
    match x.playout.program with
    | [] => none
    | b :: _ => some b.pt
  else none

/-- R44: the resync at stage 2, as a step when the PT differs from the advanced ST. -/
def State.resync (i : ScreenNo) (s : State) : State :=
  match s.screens[i].resyncTime with
  | none => s
  | some pt =>
      let d := signedDiff pt (s.stNow i)
      let s1 := s.modScreen i fun x => { x with playout := { x.playout with resync := false } }
      if d = 0 then s1 else (s1.stepClock i d).raiseClock i d

/-! ## Settings and resets -/

/-- R53: the starting state of a clock mode. -/
def ClockState.starting : ClockMode → ClockState
  | .referenced => .acquiring
  | .selfTimed => .unreferenced

/-- R53, R66: every count and the slip at 0. -/
def Clock.cleared (c : Clock) : Clock := { c with inWindow := 0, outWindow := 0, slip := 0, sinceReference := 0 }

/-- R52: counts and slip kept within newly written limits. -/
def Clock.limited (c : Clock) (r : ScreenSettings) : Clock :=
  { c with
    slip := clampInt (-(r.window : Int)) r.window c.slip
    inWindow := if r.lockN ≤ c.inWindow then r.lockN - 1 else c.inWindow
    outWindow := if r.unlockN ≤ c.outWindow then r.unlockN - 1 else c.outWindow }

/-- R66: the clock after a screen reset, by the stored mode. -/
def Clock.afterReset (mode : ClockMode) (c : Clock) : Clock :=
  { c.cleared with base := 0, elapsed := 0, state := ClockState.starting mode }

/-- R35: the first word-clock count after `now` that is congruent to the phase modulo 48. -/
def nextCount (now phase : Nat) : Nat := now + 1 + (phase % 48 + 47 - now % 48) % 48

/-- R49: one word-clock period at a screen. -/
def Clock.tick (c : Clock) : Clock := { c with elapsed := c.elapsed + 1 }

/-- The screens whose next boundary falls at the count, as boundary commands in ascending order (log entry 1). -/
def State.boundariesAt (count : Nat) (s : State) : List Instr :=
  ((indexes 6).filter fun i => s.screens[i].playout.nextBoundary = count).map Instr.blockBoundary

/-- One word-clock period: the count and every e rise by 1, and the boundaries that fall join the queue
(log entry 1). -/
def State.tick (s : State) : State :=
  { s with
    wordClock := s.wordClock + 1
    screens := tabulate fun i => { s.screens[i] with clock := s.screens[i].clock.tick }
    pending := s.pending ++ s.boundariesAt (s.wordClock + 1) }

end Sys2Proof.Machine
end

