-- ==== Sys2Proof/Machine/Feeds.lean ====
section
/-! DEFINITION. The Feed Processor: equaliser banks and switches (R84 to R92), trim (R93), fader, fades and mute
(R94 to R100), gain and clamp (R101 to R104). -/

namespace Sys2Proof.Machine

/-! ## Equaliser -/

/-- R87: the exact accumulator of a section. -/
def EqSection.accumulator (e : EqSection) (x : Int) : Int :=
  e.coeffs.b0 * x + e.coeffs.b1 * e.x1 + e.coeffs.b2 * e.x2 - e.coeffs.a1 * e.y1 - e.coeffs.a2 * e.y2

/-- R87: the section's output before saturation. -/
def EqSection.quotient (e : EqSection) (x : Int) : Int := roundShift (e.accumulator x) 22

/-- R88: the section after one sample; y1 holds the saturated output. -/
def EqSection.after (e : EqSection) (x : Int) : EqSection :=
  { coeffs := e.coeffs, x1 := x, x2 := e.x1, y1 := satWord (e.quotient x), y2 := e.y1 }

/-- R88: 1 when the output was saturated. -/
def EqSection.saturated (e : EqSection) (x : Int) : Nat := if satWord (e.quotient x) = e.quotient x then 0 else 1

/-- A bank after some samples: the outputs, the sections, and how many outputs were saturated. -/
structure BankRun where
  outputs   : List Int
  sections  : List EqSection
  saturated : Nat
  deriving DecidableEq, Repr

/-- R87: one sample through the sections in list order. -/
def runSections : List EqSection → Int → Int × List EqSection × Nat
  | [], x => (x, [], 0)
  | e :: es, x =>
      let r := runSections es (satWord (e.quotient x))
      (r.1, e.after x :: r.2.1, e.saturated x + r.2.2)

/-- R87, R88: a block's words through a bank. -/
def runBank (sections : List EqSection) : List Int → BankRun
  | [] => { outputs := [], sections := sections, saturated := 0 }
  | x :: xs =>
      let r := runSections sections x
      let rest := runBank r.2.1 xs
      { outputs := r.1 :: rest.outputs, sections := rest.sections, saturated := r.2.2 + rest.saturated }

/-- R91: sample n of a switch block. -/
def crossfade (n : Nat) (u v : Int) : Int := (u * (48 - n) + v * n + 24) / 48

/-- R91: a switch block from its sample n on. -/
def crossfadeFrom : Nat → List Int → List Int → List Int
  | n, u :: us, v :: vs => crossfade n u v :: crossfadeFrom (n + 1) us vs
  | _, [], _ => []
  | _, _ :: _, [] => []

/-- R87, R88: an ordinary block: the active bank alone. -/
def Feed.equalisePlain (f : Feed) (words : List Int) : Feed × List Int :=
  let r := runBank (f.bank f.active) words
  ({ f.setBank f.active r.sections with eqSat := satAdd f.eqSat r.saturated }, r.outputs)

/-- R90, R91: a switch block: both banks on the same words, the new one from rest; the old one ends at rest. -/
def Feed.equaliseSwitch (f : Feed) (requested : Bank) (words : List Int) : Feed × List Int :=
  let old := runBank (f.bank f.active) words
  let new := runBank (restBank (f.bank requested)) words
  ({ (f.setBank f.active (restBank (f.bank f.active))).setBank requested new.sections with
      active := requested
      eqSat := satAdd f.eqSat (old.saturated + new.saturated) },
   crossfadeFrom 0 old.outputs new.outputs)

/-- R90: the boundary compares the requested bank with the active one. -/
def Feed.equalise (f : Feed) (requested : Bank) (words : List Int) : Feed × List Int :=
  if requested = f.active then f.equalisePlain words else f.equaliseSwitch requested words

/-! ## Gain -/

/-- R95: the fader code; none at 0. 2(f − 70)/3 is rounded half away from zero. -/
def faderCode (f : Nat) : Option Int :=
  if f = 0 then none
  else if f < 40 then some (-20 + 4 * ((f : Int) - 40))
  else if f < 70 then some (-(((2 * (2 * (70 - f)) + 3) / 6 : Nat) : Int))
  else some (((2 * (2 * (f - 70)) + 3) / 6 : Nat) : Int)

/-- R101: the total code judged: none is the factor 0. -/
def limitCode (g : Int) : Option Int := if g < -160 then none else some (min g 24)

/-- R101: the latched gain of feed k in SHOW; none is the factor 0. -/
def Screen.showGain (x : Screen) (k : FeedNo) : Option Int :=
  if x.level.muted || x.feedMuted k then none
  else
    match faderCode x.level.fader with
    | none => none
    | some code => limitCode (x.feeds[k].trim + code - x.reduction k)

/-- R102: the latched gain of the feed under test. -/
def Screen.testGain (x : Screen) (k : FeedNo) : Option Int :=
  if x.feedMuted k then none else some (x.feeds[k].trim - x.reduction k)

/-- R103: a latched gain applied to an EQ output word. -/
def applyGain (gain : Option Int) (y : Int) : Int :=
  match gain with
  | none => 0
  | some g => scaleByCode g y

/-! ## Fader, fade, mute -/

/-- R98: one advance of a fade at a boundary. -/
def Level.advanceFade (l : Level) : Level :=
  match l.fade with
  | none => l
  | some f =>
      if f.duration ≤ f.count + 1 then { l with fader := f.target, fade := none }
      else
        { l with
          fader := ((f.start : Int) + Int.tdiv (((f.target : Int) - f.start) * (f.count + 1)) f.duration).toNat
          fade := some { f with count := f.count + 1 } }

/-- One screen's level state changed. -/
def State.modLevel (i : ScreenNo) (f : Level → Level) (s : State) : State :=
  s.modScreen i fun x => { x with level := f x.level }

/-- R96: the fader value stored, any fade cancelled. -/
def Level.setFader (l : Level) (fader : Nat) : Level := { l with fader := clampNat 0 100 fader, fade := none }

/-- R97: a fade from the fader value as it stands. -/
def Level.startFade (l : Level) (target duration : Nat) : Level :=
  { l with
    fade := some { start := l.fader, target := clampNat 0 100 target, duration := clampNat 1 60000 duration,
                   count := 0 } }

/-- R94: mute after a reset; the fade is cancelled. -/
def Level.afterReset (l : Level) : Level := { l with muted := true, fade := none }

/-- R170: the reply of MUTE and UNMUTE: 1 when muted (log entry 7). -/
def muteBytes (muted : Bool) : List Byte := flagByte muted

/-- R99. -/
def doMute (screen : Nat) (s : State) : Answer :=
  if h : screen < 6 then
    accept (s.modLevel ⟨screen, h⟩ fun l => { l with muted := true }) false (muteBytes true)
  else refuse s .badIndex

/-- R99. -/
def doUnmute (screen : Nat) (s : State) : Answer :=
  if h : screen < 6 then
    accept (s.modLevel ⟨screen, h⟩ fun l => { l with muted := false }) false (muteBytes false)
  else refuse s .badIndex

/-- R96. -/
def doSetFader (screen fader : Nat) (s : State) : Answer :=
  if h : screen < 6 then
    accept (s.modLevel ⟨screen, h⟩ fun l => l.setFader fader) (100 < fader) (beNat 1 (clampNat 0 100 fader))
  else refuse s .badIndex

/-- R97: the reply: the fader value and the fade record as started (log entry 8). -/
def startedFadeBytes (l : Level) : List Byte :=
  beNat 1 l.fader ++
    match l.fade with
    | some f => fadeBytes f
    | none => []

/-- R97. -/
def doFade (screen target duration : Nat) (s : State) : Answer :=
  if h : screen < 6 then
    let s' := s.modLevel ⟨screen, h⟩ fun l => l.startFade target duration
    accept s' (decide (100 < target ∨ duration = 0 ∨ 60000 < duration))
      (startedFadeBytes s'.screens[(⟨screen, h⟩ : ScreenNo)].level)
  else refuse s .badIndex

/-- R89: the requested bank stored. -/
def State.requestBank (i : ScreenNo) (bank : Bank) (s : State) : State :=
  s.modLevel i fun l => { l with requested := bank }

/-- R89. -/
def doSelectBank (screen : Nat) (bank : Bank) (s : State) : Answer :=
  if h : screen < 6 then accept (s.requestBank ⟨screen, h⟩ bank) false (beNat 1 (Bank.code bank))
  else refuse s .badIndex

/-! ## Tables -/

/-- One feed of a screen changed. -/
def State.modFeed (i : ScreenNo) (k : FeedNo) (f : Feed → Feed) (s : State) : State :=
  s.modScreen i fun x => { x with feeds := adjust x.feeds k f }

/-- R93. -/
def doWriteFeed (index : Nat) (trim : Int) (s : State) : Answer :=
  if h : index < 96 then
    accept
      (s.modFeed ⟨index / 16, by omega⟩ ⟨index % 16, by omega⟩ fun f => { f with trim := clampInt (-40) 24 trim })
      (decide (trim < -40 ∨ 24 < trim)) (beBytes 1 (clampInt (-40) 24 trim))
  else refuse s .badIndex

/-- R85: the bank an EQBANK index addresses. -/
def bankOfIndex (index : Nat) : Bank := if index < 96 then .a else .b

/-- R86: the checks of an EQBANK write, in order. -/
def doWriteEqbank (index : Nat) (list : List Section) (s : State) : Answer :=
  if h : index < 192 then
    let i : ScreenNo := ⟨index % 96 / 16, by omega⟩
    let k : FeedNo := ⟨index % 16, by omega⟩
    let bank := bankOfIndex index
    if 8 < list.length then refuse s .badValue
    else if s.screens[i].feeds[k].active = bank ∨ s.screens[i].level.requested = bank then refuse s .inUse
    else
      accept (s.modFeed i k fun f => f.setBank bank (list.map EqSection.atRest)) false
        (bankBytes (list.map EqSection.atRest))
  else refuse s .badIndex

/-! ## Reset -/

/-- R88: a feed after a reset of its screen: histories and EQ_SAT 0, banks, active bank and trim kept. -/
def Feed.afterReset (f : Feed) : Feed :=
  { f with bankA := restBank f.bankA, bankB := restBank f.bankB, eqSat := 0, hold := 0 }

end Sys2Proof.Machine
end

