-- ==== Sys2Proof/Machine/Cues.lean ====
section
/-! DEFINITION. The Cue Engine at stage 6: due evaluation (R154 to R156, R160), firing and arming (R157), and the
actions (R71, R158, R159). -/

namespace Sys2Proof.Machine

/-! ## Actions -/

/-- R71, R158: a PRESET action. -/
def State.firePreset (i : ScreenNo) (preset : Nat) (s : State) : State × CueFault :=
  if h : preset < 16 then
    if s.presets[(⟨preset, h⟩ : PresetNo)].used then (s.select i (some ⟨preset, h⟩), .none) else (s, .badPreset)
  else (s, .badPreset)

/-- R159: a SOURCE action. -/
def State.fireSource (i : ScreenNo) (entry : Nat) (s : State) : State × CueFault :=
  if h : entry < 32 then
    let e : EntryNo := ⟨entry, h⟩
    if s.entries[e].screen ≠ i then (s, .badSource)
    else
      match s.entries[e].state with
      | .unused => (s, .badSource)
      | .inactive | .primed | .active => ((s.activateEntry e).1, .none)
  else (s, .badSource)

/-- R159: a PRIME action. -/
def State.firePrime (i : ScreenNo) (entry : Nat) (s : State) : State × CueFault :=
  if h : entry < 32 then
    let e : EntryNo := ⟨entry, h⟩
    if s.entries[e].screen ≠ i then (s, .badSource)
    else
      match s.entries[e].state with
      | .unused | .active => (s, .badSource)
      | .inactive | .primed => ((s.primeEntry e).1, .none)
  else (s, .badSource)

/-- R112, R158: a CHECK action. -/
def State.fireCheck (i : ScreenNo) (spec : CheckSpec) (s : State) : State × CueFault :=
  if s.screens[i].signal.check.running then (s, .checkBusy) else (s.beginCheck i spec, .none)

/-- R117, R158: a STOP_CHECK action. -/
def State.fireStopCheck (i : ScreenNo) (s : State) : State × CueFault :=
  if s.screens[i].signal.check.running then (s.endCheck i, .none) else (s, .noCheck)

/-- R158, R159: the action of cue n carried out on its screen, and the fault it records. -/
def State.fireAction (i : ScreenNo) (n : CueNo) (c : CueSpec) (s : State) : State × CueFault :=
  match c.action with
  | .preset => s.firePreset i c.preset
  | .fade => (s.modLevel i fun l => l.startFade c.fadeTarget c.fadeDuration, .none)
  | .mute => (s.modLevel i fun l => { l with muted := true }, .none)
  | .unmute => (s.modLevel i fun l => { l with muted := false }, .none)
  | .source => s.fireSource i c.entry
  | .prime => s.firePrime i c.entry
  | .bank => (s.requestBank i c.bank, .none)
  | .pattern => (s.setPattern i c.pattern, .none)
  | .check => s.fireCheck i c.check
  | .stopCheck => s.fireStopCheck i
  | .notify => (s.raise .cue i n.val 0 c.notifyCode 0, .none)

/-- R157: a CUE_FAULT notice when the action could not be carried out. -/
def State.raiseCueFault (i : ScreenNo) (n : CueNo) (f : CueFault) (s : State) : State :=
  if f = .none then s else s.raise .cueFault i n.val f.code 0 0

/-- R157: one cue fires. -/
def State.fireCue (i : ScreenNo) (n : CueNo) (s : State) : State :=
  let r := s.fireAction i n s.cues[n].spec
  (r.1.raiseCueFault i n r.2).modCue n fun c =>
    { c with state := .fired, countdown := none, lastFault := some r.2 }

/-! ## Arming -/

/-- R157: a cue armed because its parent is among those that fired. -/
def Cue.armedBy (c : Cue) (fired : List CueNo) : Bool :=
  c.spec.trigger = .after && (c.state = .pending || c.state = .armed || c.state = .fired) &&
    if h : c.spec.parent < 256 then decide ((⟨c.spec.parent, h⟩ : CueNo) ∈ fired) else false

/-- R157: the children of the cues that fired are armed; the ARMED children of a cue that so leaves FIRED are
released. -/
def State.armChildren (fired : List CueNo) (s : State) : State :=
  let left := fun n : CueNo => s.cues[n].armedBy fired && s.cues[n].state = .fired
  (s.mapCues fun _ c =>
    if c.armedBy fired then { c with state := .armed, countdown := some c.spec.delay } else c).releaseChildren left

/-- R157: due cues fire in the order given, ascending, and then their children are armed. -/
def State.fireCues (i : ScreenNo) (due : List CueNo) (s : State) : State :=
  (due.foldl (fun s n => s.fireCue i n) s).armChildren due

/-! ## Due evaluation -/

/-- R154: the countdown of an ARMED cue reaches 0 at this boundary. -/
def Cue.countdownEnds (c : Cue) : Bool :=
  c.state = .armed &&
    match c.countdown with
    | none => false
    | some n => n ≤ 1

/-- R154: d = T − t of a PENDING AT_TIME cue. -/
def Cue.pastBy (c : Cue) (t : ScreenTime) : Int := signedDiff t c.spec.time

/-- R154: a PENDING AT_TIME cue, on time or overdue with CATCH_UP. -/
def Cue.timeDue (c : Cue) (t : ScreenTime) : Bool :=
  c.state = .pending && c.spec.trigger = .atTime && decide (0 ≤ c.pastBy t) &&
    (decide (c.pastBy t ≤ 47) || c.spec.catchUp)

/-- R154: a PENDING AT_TIME cue that becomes MISSED unless GO makes it due. -/
def Cue.timeMissed (c : Cue) (t : ScreenTime) : Bool :=
  c.state = .pending && c.spec.trigger = .atTime && decide (48 ≤ c.pastBy t) && !c.spec.catchUp && !c.go

/-- R155: a PENDING ON_MARKER cue whose code a due marker carries. -/
def Cue.markerDue (c : Cue) (due : List Marker) : Bool :=
  c.state = .pending && c.spec.trigger = .onMarker && due.any fun m => m.code = c.spec.markerCode

/-- R155: the timing mode of the screen's ACTIVE entry is ARRIVAL. -/
def State.arrivalScreen (i : ScreenNo) (s : State) : Bool := s.modeOf (s.activeEntry i) = .arrival

/-- R155: a marker is due. -/
def markerIsDue (arrival : Bool) (t : ScreenTime) (m : Marker) : Bool := arrival || decide (-24 ≤ signedDiff t m.pt)

/-- R155: the due markers of a screen at time t. -/
def State.dueMarkers (i : ScreenNo) (t : ScreenTime) (s : State) : List Marker :=
  s.screens[i].markers.filter (markerIsDue (s.arrivalScreen i) t)

/-- R155: the due markers leave the list. -/
def State.removeMarkers (i : ScreenNo) (t : ScreenTime) (s : State) : State :=
  let arrival := s.arrivalScreen i
  s.modScreen i fun x => { x with markers := x.markers.filter fun m => !markerIsDue arrival t m }

/-- R154 to R156, R160: a cue of the screen is due at the boundary. -/
def Cue.isDue (c : Cue) (t : ScreenTime) (held : Bool) (due : List Marker) : Bool :=
  c.countdownEnds || (!held && c.timeDue t) || c.markerDue due || c.go

/-- R154: the countdown of an ARMED cue lowered by 1; at 0 it is absent. -/
def Cue.lowerCountdown (c : Cue) : Cue :=
  if c.state = .armed then
    { c with
      countdown :=
        match c.countdown with
        | none => none
        | some n => if n ≤ 1 then none else some (n - 1) }
  else c

/-- R154, R156: a cue of the screen once it has been judged. -/
def Cue.judged (c : Cue) (t : ScreenTime) (held : Bool) : Cue :=
  if !held && c.timeMissed t then { c with state := .missed }
  else { c.lowerCountdown with go := false }

/-- The due cues of a screen, ascending. -/
def State.dueCues (i : ScreenNo) (t : ScreenTime) (held : Bool) (s : State) : List CueNo :=
  let markers := s.dueMarkers i t
  (indexes 256).filter fun n => s.cues[n].spec.screen = i.val && s.cues[n].isDue t held markers

/-- R154 to R156: every cue of the screen judged, and the due markers removed. -/
def State.judgeCues (i : ScreenNo) (t : ScreenTime) (held : Bool) (s : State) : State :=
  (s.removeMarkers i t).mapCues fun _ c => if c.spec.screen = i.val then c.judged t held else c

/-- R154 to R157: the Cue Engine at stage 6 of a boundary with time t. -/
def State.cueStage (i : ScreenNo) (t : ScreenTime) (held : Bool) (s : State) : State :=
  (s.judgeCues i t held).fireCues i (s.dueCues i t held)

end Sys2Proof.Machine
end

