-- ==== Sys2Proof/Machine/Settings.lean ====
section
/-! DEFINITION. The SCREEN table's write and its effects (R29, R35, R52, R53, R132, R169), and the screen reset (R171). -/

namespace Sys2Proof.Machine

/-- R35, R52, R132: every numeric setting clamped. -/
def clampSettings (r : ScreenSettings) : ScreenSettings :=
  { r with
    phase := clampNat 0 47 r.phase
    lateLimit := clampNat 48 48000 r.lateLimit
    earlyLimit := clampNat 48 96000 r.earlyLimit
    window := clampNat 1 480 r.window
    lockN := clampNat 1 255 r.lockN
    unlockN := clampNat 1 255 r.unlockN
    referenceOffset := clampInt (-48000) 48000 r.referenceOffset
    referenceTimeout := clampNat 10 60000 r.referenceTimeout
    quota := clampNat 4 64 r.quota
    meterInterval := clampNat 0 255 r.meterInterval }

/-- R35: the move of the next boundary for a changed phase at word-clock count `now`. A boundary that falls at that
count and has not been taken does not fall. -/
def Playout.movePhase (p : Playout) (now phase : Nat) : Playout :=
  { p with
    nextBoundary := nextCount now phase
    voidedAt := if p.nextBoundary = now then some now else p.voidedAt }

/-- R169: the settings stored, with the moves of the phase and the meter count. -/
def Screen.storeSettings (x : Screen) (now : Nat) (r : ScreenSettings) : Screen :=
  { x with
    settings := r
    playout := if r.phase = x.settings.phase then x.playout else x.playout.movePhase now r.phase
    meterCount := if r.meterInterval = x.settings.meterInterval then x.meterCount else 0 }

/-- R53: a changed clock mode: the starting state of the new mode, and the resync flag set for SELF_TIMED. -/
def Screen.changeMode (x : Screen) (mode : ClockMode) : Screen :=
  { x with
    clock := { x.clock.cleared with state := ClockState.starting mode }
    playout := { x.playout with resync := if mode = .selfTimed then true else x.playout.resync } }

/-- R52, R53: the clock's part of a SCREEN write; `old` is the mode stored before. -/
def State.settleClock (i : ScreenNo) (old : ClockMode) (r : ScreenSettings) (s : State) : State :=
  if r.clockMode = old then s.modClock i fun c => c.limited r
  else (s.modScreen i fun x => x.changeMode r.clockMode).raiseClock i 0

/-- R169: the effects of a stored SCREEN record as one event. -/
def State.storeScreen (i : ScreenNo) (r : ScreenSettings) (s : State) : State :=
  ((s.modScreen i fun x => x.storeSettings s.wordClock r).trimQuota i r.quota).settleClock i
    s.screens[i].settings.clockMode r

/-- R35: a changed phase is refused on a screen with an ACTIVE entry or in CHECK. -/
def State.phaseHeld (i : ScreenNo) (phase : Nat) (s : State) : Bool :=
  phase != s.screens[i].settings.phase && ((s.activeEntry i).isSome || s.screens[i].playout.mode = .check)

/-- R169: the checks of a SCREEN write, in order. -/
def doWriteScreen (index : Nat) (r : ScreenSettings) (s : State) : Answer :=
  if h : index < 6 then
    let i : ScreenNo := ⟨index, h⟩
    if s.phaseHeld i (clampSettings r).phase then refuse s .inUse
    else
      accept (s.storeScreen i (clampSettings r)) (decide (clampSettings r ≠ r)) (settingsBytes (clampSettings r))
  else refuse s .badIndex

/-! ## Screen reset -/

/-- R48: the scheduler context after a reset; its queues are freed by a step of their own. -/
def Playout.afterReset (p : Playout) : Playout := { p with resync := true, mode := .show }

/-- R171: what a screen reset leaves of the screen's own blocks. -/
def Screen.afterReset (x : Screen) : Screen :=
  { x with
    playout := x.playout.afterReset
    tallies := Vector.replicate 7 0
    clock := x.clock.afterReset x.settings.clockMode
    level := x.level.afterReset
    feeds := tabulate fun k => x.feeds[k].afterReset
    signal := x.signal.afterReset
    lanes := tabulate fun l => x.lanes[l].clearTallies
    channelHolds := Vector.replicate 8 0
    meterCount := 0
    records := Vector.replicate 58 AlarmRecord.powerOn
    markers := [] }

/-- R118: a running check is stopped by the reset. -/
def State.stopForReset (i : ScreenNo) (s : State) : State :=
  if s.screens[i].signal.check.running then s.endCheck i else s

/-- R26, R48, R164: the reset's part in the shared tables: queues freed, entries and cues reset. -/
def State.resetShared (i : ScreenNo) (s : State) : State :=
  (((s.freeProgram i).freeStandby i).resetEntries i).resetCues i

/-- R66: a CLOCK notice when the reset changed the clock state. -/
def State.raiseIfChanged (i : ScreenNo) (old : ClockState) (s : State) : State :=
  if s.screens[i].clock.state = old then s else s.raiseClock i 0

/-- R171: a screen reset, one event: CHECK_DONE of a stopped check, then the reset, then CLOCK of a changed state. -/
def State.resetScreen (i : ScreenNo) (s : State) : State :=
  (((s.stopForReset i).resetShared i).modScreen i Screen.afterReset).raiseIfChanged i s.screens[i].clock.state

/-- R171. -/
def doScreenReset (screen : Nat) (s : State) : Answer :=
  if h : screen < 6 then accept (s.resetScreen ⟨screen, h⟩) false (beNat 1 screen) else refuse s .badIndex

end Sys2Proof.Machine
end

