-- ==== Sys2Proof/Machine/Manage.lean ====
section
/-! DEFINITION. The Management Handler: reads (R169, R172, R173), the carrying out of one request, and the request
queue (R166 to R168). -/

namespace Sys2Proof.Machine

/-! ## Reads -/

/-- R169: READ of the STREAM table. -/
def readStreamEntry (index : Nat) (s : State) : Answer :=
  if h : index < 32 then accept s false (streamBytes s.entries[(⟨index, h⟩ : EntryNo)]) else refuse s .badIndex

/-- R169: READ of the PRESET table. -/
def readPresetEntry (index : Nat) (s : State) : Answer :=
  if h : index < 16 then accept s false (presetBytes s.presets[(⟨index, h⟩ : PresetNo)]) else refuse s .badIndex

/-- R169: READ of the EQBANK table. -/
def readEqbankEntry (index : Nat) (s : State) : Answer :=
  if h : index < 192 then
    let i : ScreenNo := ⟨index % 96 / 16, by omega⟩
    let k : FeedNo := ⟨index % 16, by omega⟩
    accept s false (bankBytes (s.screens[i].feeds[k].bank (bankOfIndex index)))
  else refuse s .badIndex

/-- R169: READ of the CUE table. -/
def readCueEntry (index : Nat) (s : State) : Answer :=
  if h : index < 256 then accept s false (cueBytes s.cues[(⟨index, h⟩ : CueNo)]) else refuse s .badIndex

/-- R169: READ of the PROFILE table. -/
def readProfileEntry (index : Nat) (s : State) : Answer :=
  if h : index < 36 then
    let i : ScreenNo := ⟨index / 6, by omega⟩
    let k : Fin 6 := ⟨index % 6, by omega⟩
    accept s false (profileBytes s.screens[i].profiles[k])
  else refuse s .badIndex

/-- R169: READ of the WAVE table. -/
def readWaveEntry (index : Nat) (s : State) : Answer :=
  if index = 0 then accept s false (waveBytes s.tone) else refuse s .badIndex

/-- R169: READ of the SCREEN table. -/
def readScreenEntry (index : Nat) (s : State) : Answer :=
  if h : index < 6 then accept s false (settingsBytes s.screens[(⟨index, h⟩ : ScreenNo)].settings)
  else refuse s .badIndex

/-- R169: READ of the FEED table. -/
def readFeedEntry (index : Nat) (s : State) : Answer :=
  if h : index < 96 then
    let i : ScreenNo := ⟨index / 16, by omega⟩
    let k : FeedNo := ⟨index % 16, by omega⟩
    accept s false (beBytes 1 s.screens[i].feeds[k].trim)
  else refuse s .badIndex

/-- R169: READ returns the entry as it stands. -/
def doRead (table : Table) (index : Nat) (s : State) : Answer :=
  match table with
  | .stream => readStreamEntry index s
  | .preset => readPresetEntry index s
  | .eqbank => readEqbankEntry index s
  | .cue => readCueEntry index s
  | .profile => readProfileEntry index s
  | .wave => readWaveEntry index s
  | .screen => readScreenEntry index s
  | .feed => readFeedEntry index s

/-- R172: how many records of a screen are in a state. -/
def Screen.countRecords (x : Screen) (st : AlarmState) : Nat :=
  ((indexes 58).filter fun k => x.records[k].state = st).length

/-- R172: the fade of a status record: target and blocks remaining. -/
def statusFadeBytes (f : Option Fade) : List Byte :=
  optionBytes (fun f : Fade => beNat 1 f.target ++ beNat 2 (f.duration - f.count)) f

/-- R172: an optional stream entry index. -/
def entryBytes (e : Option EntryNo) : List Byte := optionBytes (fun e : EntryNo => beNat 1 e.val) e

/-- R172: the status record. -/
def statusBytes (i : ScreenNo) (s : State) : List Byte :=
  let x := s.screens[i]
  beNat 4 x.clock.now.toNat ++ beNat 1 (ClockMode.code x.settings.clockMode) ++ beNat 1 x.clock.state.code ++
    beNat 1 x.playout.mode.code ++ beNat 1 x.playout.program.length ++ beNat 1 x.playout.standby.length ++
    entryBytes (s.activeEntry i) ++ entryBytes (s.primedEntry i) ++ selectionBytes x.render.selection ++
    selectionBytes (x.render.latched.map LatchedPreset.index) ++ beNat 1 x.level.fader ++
    statusFadeBytes x.level.fade ++ muteBytes x.level.muted ++ beNat 1 (x.countRecords .normal) ++
    beNat 1 (x.countRecords .warning) ++ beNat 1 (x.countRecords .acked) ++ beNat 1 (x.countRecords .action) ++
    flagByte x.noticeLost

/-- R172, R175: the status is read, then the notice-lost flag is cleared. -/
def doReadStatus (screen : Nat) (s : State) : Answer :=
  if h : screen < 6 then
    accept (s.modScreen ⟨screen, h⟩ fun x => { x with noticeLost := false }) false (statusBytes ⟨screen, h⟩ s)
  else refuse s .badIndex

/-- R173: tallies in their order, two bytes each. -/
def tallyBytes (ts : List Nat) : List Byte := ts.flatMap (beNat 2)

/-- R173: scope PORT. -/
def readPortTally (subject : Nat) (clear : Bool) (s : State) : Answer :=
  if subject = 0 then
    accept (if clear then { s with portTallies := Vector.replicate 5 0 } else s) false
      (tallyBytes s.portTallies.toList)
  else refuse s .badIndex

/-- R173: scope ENTRY. -/
def readEntryTally (subject : Nat) (clear : Bool) (s : State) : Answer :=
  if h : subject < 32 then
    let e : EntryNo := ⟨subject, h⟩
    accept (if clear then s.modEntry e fun x => { x with tallies := Vector.replicate 13 0 } else s) false
      (tallyBytes s.entries[e].tallies.toList)
  else refuse s .badIndex

/-- R173: scope SCREEN. -/
def readScreenTally (subject : Nat) (clear : Bool) (s : State) : Answer :=
  if h : subject < 6 then
    let i : ScreenNo := ⟨subject, h⟩
    accept (if clear then s.modScreen i fun x => { x with tallies := Vector.replicate 7 0 } else s) false
      (tallyBytes s.screens[i].tallies.toList)
  else refuse s .badIndex

/-- R173: scope FEED. -/
def readFeedTally (subject : Nat) (clear : Bool) (s : State) : Answer :=
  if h : subject < 96 then
    let i : ScreenNo := ⟨subject / 16, by omega⟩
    let k : FeedNo := ⟨subject % 16, by omega⟩
    accept (if clear then s.modFeed i k fun f => { f with eqSat := 0 } else s) false
      (tallyBytes [s.screens[i].feeds[k].eqSat])
  else refuse s .badIndex

/-- R173: scope LANE. -/
def readLaneTally (subject : Nat) (clear : Bool) (s : State) : Answer :=
  if h : subject < 12 then
    let n : LaneNo := ⟨subject, h⟩
    let l := s.screens[laneScreen n].lanes[laneSide n]
    accept (if clear then s.modLane n Lane.clearTallies else s) false (tallyBytes [l.miss, l.seqErrors])
  else refuse s .badIndex

/-- R173. -/
def doReadTally (subject : Nat) (scope : TallyScope) (clear : Bool) (s : State) : Answer :=
  match scope with
  | .port => readPortTally subject clear s
  | .entry => readEntryTally subject clear s
  | .screen => readScreenTally subject clear s
  | .feed => readFeedTally subject clear s
  | .lane => readLaneTally subject clear s

/-- R131: the sixteen feed holds of a screen. -/
def Screen.feedHolds (x : Screen) : Vector Nat 16 := tabulate fun k => x.feeds[k].hold

/-- R131: the 24 holds set to 0. -/
def Screen.clearHolds (x : Screen) : Screen :=
  { x with
    feeds := tabulate fun k => { x.feeds[k] with hold := 0 }
    channelHolds := Vector.replicate 8 0 }

/-- R173: the fields of R10 in their order, a hold of 0..8,388,608 in the 4 bytes of R4. -/
def doReadMeter (screen : Nat) (reset : Bool) (s : State) : Answer :=
  if h : screen < 6 then
    let i : ScreenNo := ⟨screen, h⟩
    let x := s.screens[i]
    accept (if reset then s.modScreen i Screen.clearHolds else s) false
      (meterFields 4 x.clock.now x.clock.state x.feedHolds x.channelHolds)
  else refuse s .badIndex

/-! ## The handler -/

/-- R167, R170: one request carried out by the rule of the block that owns its state. -/
def perform (r : Request) (s : State) : Answer :=
  match r with
  | .rejected result => refuse s result
  | .read table index => doRead table index s
  | .writeStream index w => doWriteStream index w s
  | .writePreset index p => doWritePreset index p s
  | .writeEqbank index list => doWriteEqbank index list s
  | .writeCue index w => doWriteCue index w s
  | .writeProfile index p => doWriteProfile index p s
  | .writeWave index tone => doWriteWave index tone s
  | .writeScreen index r => doWriteScreen index r s
  | .writeFeed index trim => doWriteFeed index trim s
  | .screenReset screen => doScreenReset screen s
  | .mute screen => doMute screen s
  | .unmute screen => doUnmute screen s
  | .setFader screen fader => doSetFader screen fader s
  | .fade screen target duration => doFade screen target duration s
  | .setPreset screen preset => doSetPreset screen preset s
  | .selectBank screen bank => doSelectBank screen bank s
  | .prime entry => doPrime entry s
  | .activate entry => doActivate entry s
  | .deactivate entry => doDeactivate entry s
  | .go cue => doGo cue s
  | .cancel cue => doCancel cue s
  | .enable cue => doEnable cue s
  | .ack record => doAck record s
  | .pattern screen spec => doPattern screen spec s
  | .startCheck screen spec => doStartCheck screen spec s
  | .stopCheck screen => doStopCheck screen s
  | .readStatus screen => doReadStatus screen s
  | .listAlarms screen => doListAlarms screen s
  | .readTally subject scope clear => doReadTally subject scope clear s
  | .readMeter screen reset => doReadMeter screen reset s
  | .readCheck screen => doReadCheck screen s
  | .readSense feed => doReadSense feed s

/-- R168: the answer's reply offered to the Report Queue after the request's effects and notices. -/
def Answer.reply (a : Answer) (tag : Byte) : State :=
  a.state.offerReply { tag := tag, result := a.result, record := a.record }

/-- R166, R168: a request taken: carried out whole, its reply offered. -/
def State.carryOut (tag : Byte) (r : Request) (s : State) : State := (perform r s).reply tag

/-- R166: whether the handler takes a request at once. -/
def State.handlerFree (s : State) : Bool := s.replySlot.isNone && s.requests.isEmpty

/-- R166: a request handed on: taken at once, queued, or discarded with MANAGE_DROP. -/
def State.submit (tag : Byte) (r : Request) (s : State) : State :=
  if s.handlerFree then s.carryOut tag r
  else if s.requests.length < Config.requestDepth then { s with requests := s.requests ++ [(tag, r)] }
  else s.bumpPort .manageDrop

/-- R166, R168: requests taken from the head of the queue as long as the reply slot is empty. -/
def State.takeFrom (queue : List (Byte × Request)) (s : State) : State :=
  match queue with
  | [] => { s with requests := [] }
  | r :: rest => if s.replySlot.isNone then State.takeFrom rest (s.carryOut r.1 r.2) else { s with requests := r :: rest }

/-- R166: the handler takes what it can of its queue. -/
def State.takeRequests (s : State) : State := s.takeFrom s.requests

/-- R174: a waiting reply enters the Report Queue. -/
def State.enterReply (s : State) : State :=
  match s.replySlot with
  | none => s
  | some r => { s with reports := s.reports ++ [.reply r], replySlot := none }

/-- R174: the head frame has been sent: it leaves, a waiting reply enters in the same event, the next frame starts
to send, and the handler takes its next request. -/
def State.frameSent (s : State) : State :=
  match s.reports with
  | [] => s
  | _ :: rest => State.takeRequests (State.startSending (State.enterReply { s with reports := rest, sendingSeq := none }))

end Sys2Proof.Machine
end

