-- ==== Sys2Proof/Machine/Boundary.lean ====
section
/-! DEFINITION. The block computation of a screen at a boundary (R37 to R40), stage by stage, and the pieces of it
that the opcode table lists as events of their own. -/

namespace Sys2Proof.Machine

/-! ## Stage 1: latch -/

/-- R38: the settings latched for the block. The preset and the banks are read from the screen itself. -/
structure Latched where
  mode       : ScreenMode
  filled     : Vector Bool 8
  gains      : Vector (Option Int) 16
  muted      : Bool
  pattern    : Option PatternSpec
  checkBlock : Option CheckBlock
  held       : Bool
  deriving DecidableEq, Repr

/-- R101, R102: the latched gain of feed k. -/
def Screen.latchGain (x : Screen) (k : FeedNo) : Option Int :=
  match x.playout.mode with
  | .show => x.showGain k
  | .check =>
      match x.signal.checkBlock with
      | some (.dwell _ tested) => if k = tested then x.testGain k else none
      | some .gap => none
      | some .closing => none
      | none => none

/-- R38: the latch, after the preset latch, the fade's advance and the check block count. -/
def Screen.latchSettings (x : Screen) : Latched :=
  { mode := x.playout.mode
    filled := tabulate x.filled
    gains := tabulate x.latchGain
    muted := x.level.muted
    pattern := x.signal.pattern
    checkBlock := x.signal.checkBlock
    held := x.cuesHeld }

/-- R72, R79, R98, R113: the changes stage 1 makes before the settings are latched. -/
def Screen.stageOne (x : Screen) (new : Option LatchedPreset) : Screen :=
  let y := x.latch new
  { y with level := y.level.advanceFade, signal := y.signal.countCheck }

/-! ## Stage 2: time and selection -/

/-- What stage 2 hands on. -/
structure Selected where
  state     : State
  hadActive : Bool
  decision  : Decision
  played    : Option Block
  deriving DecidableEq, Repr

/-- R41, R43: the selection of a screen's program queue at its T. -/
def State.selection (i : ScreenNo) (s : State) : Selection :=
  let x := s.screens[i]
  selectBlock (s.modeOf (s.activeEntry i)) x.clock.base x.settings.lateLimit x.settings.earlyLimit x.playout.program

/-- R39, R50, R61, R44: ST advances, the reference count rises, a due resync is carried out. -/
def State.stageTime (i : ScreenNo) (s : State) : State := ((s.advanceClock i).countReference i).resync i

/-- R39: stage 2. -/
def State.stageTwo (i : ScreenNo) (s : State) : Selected :=
  let s1 := s.stageTime i
  let r := s1.selection i
  { state := (s1.applySelection i (s1.activeEntry i) r).pruneStandby i
    hadActive := (s1.activeEntry i).isSome
    decision := r.decision
    played := r.played }

/-! ## Stage 3: samples -/

/-- R84, R110, R113: the input words of feed k. -/
def inputWords (l : Latched) (check : CheckSpec) (noise tone : List Int) (render : Vector (List Int) 16)
    (k : FeedNo) : List Int :=
  match l.mode with
  | .show =>
      match l.pattern with
      | none => render[k]
      | some p => if p.mask.getLsbD k.val then patternWords p.kind p.level noise tone else render[k]
  | .check =>
      match l.checkBlock with
      | some (.dwell _ tested) =>
          if k = tested then patternWords check.kind check.level noise tone else silence
      | some .gap => silence
      | some .closing => silence
      | none => silence

/-- R84: what the Feed Processor hands on for one feed. -/
structure FeedBlock where
  feed : Feed
  pre  : List Int
  out  : List Int
  deriving DecidableEq, Repr

/-- R84: equaliser, gain and clamp of one feed. -/
def Feed.process (f : Feed) (requested : Bank) (gain : Option Int) (words : List Int) : FeedBlock :=
  let r := f.equalise requested words
  let pre := r.2.map (applyGain gain)
  { feed := r.1, pre := pre, out := pre.map satSample }

/-- R84: the sixteen feeds of a screen. -/
def Screen.processFeeds (x : Screen) (l : Latched) (tone : Vector Int 32) (played : Option Block) :
    Vector FeedBlock 16 :=
  let render := renderWords x.render.latched l.filled (blockInputs played)
  let noise := (noiseRun Config.blockLength x.signal.noise).1
  let toneBlock := toneSamples tone x.signal.tonePhase
  tabulate fun k =>
    x.feeds[k].process x.level.requested l.gains[k] (inputWords l x.signal.check.spec noise toneBlock render k)

/-- R84, R106, R107: the screen after stage 3. -/
def Screen.stageThree (x : Screen) (blocks : Vector FeedBlock 16) : Screen :=
  { x with
    feeds := tabulate fun k => blocks[k].feed
    signal := x.signal.advance }

/-! ## Stages 4 and 5: lanes and measures -/

/-- R121: the output samples of the sixteen feeds. -/
def outputsOf (blocks : Vector FeedBlock 16) : Vector (List Int) 16 := tabulate fun k => blocks[k].out

/-- R131: the holds raised by a block. -/
def Screen.raiseHolds (x : Screen) (played : Option Block) (blocks : Vector FeedBlock 16) : Screen :=
  { x with
    feeds := tabulate fun k => { x.feeds[k] with hold := max x.feeds[k].hold (peakOf blocks[k].out) }
    channelHolds := tabulate fun i => max x.channelHolds[i] (peakOf (channelInput played i)) }

/-- R132: a METER frame of the screen, with ST_now as its ST: T within a boundary, where e is 0. A METER_DUE commanded
between two boundaries so carries B + e, which R132 and R10 leave open (log entry 3). -/
def State.meterFrame (i : ScreenNo) (s : State) : MeterFrame :=
  let x := s.screens[i]
  { screen := i, st := x.clock.now, clock := x.clock.state, feeds := x.feedHolds, channels := x.channelHolds }

/-- R132, R174: the frame is placed and the holds set to 0, or it is dropped and the holds kept. -/
def State.offerMeter (i : ScreenNo) (s : State) : State :=
  if s.reportSpace then (s.place (.meter (s.meterFrame i))).modScreen i Screen.clearHolds else s

/-- R132: the count reaches 100·i at this block. -/
def Screen.meterFalls (x : Screen) : Bool :=
  0 < x.settings.meterInterval && decide (100 * x.settings.meterInterval ≤ x.meterCount + 1)

/-- R132: the meter falls due: the frame is offered and the count set to 0. -/
def State.emitMeter (i : ScreenNo) (s : State) : State :=
  (s.offerMeter i).modScreen i fun x => { x with meterCount := 0 }

/-- R132: the meter count of one block. -/
def State.meterStage (i : ScreenNo) (s : State) : State :=
  if s.screens[i].meterFalls then s.emitMeter i
  else
    s.modScreen i fun x =>
      { x with meterCount := if x.settings.meterInterval = 0 then 0 else x.meterCount + 1 }

/-! ## Stage 6: evaluation -/

/-- R130: the sent peak history moves one block back. -/
def Screen.shiftPeaks (x : Screen) (blocks : Vector FeedBlock 16) : Screen :=
  { x with
    feeds := tabulate fun k =>
      { x.feeds[k] with sentTwo := x.feeds[k].sentOne, sentOne := peakOf blocks[k].out } }

/-- R134: what the alarm evaluation is told about the block. -/
def blockReport (l : Latched) (d : Decision) (hadActive : Bool) (played : Option Block)
    (blocks : Vector FeedBlock 16) (handed : Vector Handed 2) : BlockReport :=
  { decision := d, hadActive := hadActive, status := tabulate (channelStatus played), mode := l.mode,
    muted := l.muted, prePeaks := tabulate fun k => peakOf blocks[k].pre, handed := handed }

/-- R37 stage 6: lane outcomes, alarms, the check's judgement, the sent peaks, the cues. -/
def State.stageSix (i : ScreenNo) (l : Latched) (b : BlockReport) (blocks : Vector FeedBlock 16) (s : State) : State :=
  let s1 := s.modScreen i Screen.handLanes
  let s2 := (s1.evaluateAlarms i b).checkStage i b.handed
  let s3 := s2.modScreen i fun x => x.shiftPeaks blocks
  s3.cueStage i s3.screens[i].clock.base l.held

/-- R37 stages 3 to 6, from what stage 2 handed on. -/
def State.computeBlock (i : ScreenNo) (l : Latched) (p : Selected) (s : State) : State :=
  let blocks := s.screens[i].processFeeds l s.tone p.played
  let s1 := s.modScreen i fun x => (x.stageThree blocks).sendLanes (outputsOf blocks)
  let s2 := (s1.modScreen i fun x => x.raiseHolds p.played blocks).meterStage i
  s2.stageSix i l (blockReport l p.decision p.hadActive p.played blocks s2.screens[i].handedLanes) blocks

/-- R35: the screen's next boundary after one taken at the word-clock count `now`. -/
def Screen.scheduleNext (x : Screen) (now : Nat) : Screen :=
  { x with playout := { x.playout with nextBoundary := nextCount now x.settings.phase } }

/-- R37: the six stages, taken whole. -/
def State.boundary (i : ScreenNo) (s : State) : State :=
  let new := s.toLatch i
  let retired := s.screens[i].retiredRaised new
  let s1 := s.modScreen i fun x => (x.scheduleNext s.wordClock).stageOne new
  let l := s1.screens[i].latchSettings
  let p := s1.stageTwo i
  (p.state.raiseRetired i retired).computeBlock i l p

/-! ## Events within a boundary, as the opcode table lists them (log entry 3) -/

/-- R61: a LOCKED clock whose count reaches the timeout with this block. -/
def Screen.timeoutFalls (x : Screen) : Bool :=
  x.clock.state = .locked && decide (x.settings.referenceTimeout ≤ satInc x.clock.sinceReference)

/-- R113, R115: the check's next block, or the one just computed, is the closing block. -/
def CheckRecord.closes (c : CheckRecord) : Bool :=
  c.running &&
    match c.count with
    | none => false
    | some n => decide (c.closingCount ≤ n + 1)

/-- R115: the result of the last feed of the list. -/
def Signal.decideLast (g : Signal) : Signal := g.decideFeed (g.check.feeds.length - 1)

/-- R98: the next advance ends the fade. -/
def Level.fadeEnds (l : Level) : Bool :=
  match l.fade with
  | none => false
  | some f => decide (f.duration ≤ f.count + 1)

end Sys2Proof.Machine
end

