-- ==== Sys2Proof/Machine/Intake.lean ====
section
/-! DEFINITION. Trunk Intake: reading a downstream frame (R1, R2), its kind (R3), classification (R13), sequence
tracking (R14) and the hand-off by kind (R15 to R17). -/

namespace Sys2Proof.Machine

/-- R1: a downstream frame's header fields and body. -/
structure Frame where
  kind   : Nat
  stream : Nat
  seq    : Byte
  body   : List Byte
  deriving DecidableEq, Repr

/-- R2: the length agrees and the check passes. -/
def frameCheckPasses (bytes : List Byte) : Bool :=
  7 ≤ bytes.length && decide (numberOf ((bytes.drop 3).take 2) = bytes.length - 7) &&
    decide ((frameCheck (bytes.take (bytes.length - 2))).toNat = numberOf (bytes.drop (bytes.length - 2)))

/-- R1: the fields of a frame that passed its check. -/
def frameFields (bytes : List Byte) : Frame :=
  { kind := numberOf (bytes.take 1) / 16
    stream := numberOf (bytes.take 2) % 4096
    seq := (bytes.drop 2).headD 0
    body := (bytes.drop 5).take (bytes.length - 7) }

/-- R3: a kind error. -/
def Frame.kindError (f : Frame) : Bool :=
  if f.kind = 4 then f.stream != 0 || f.body.length < 5
  else if 1 ≤ f.kind ∧ f.kind ≤ 3 then f.stream = 0
  else true

/-- R14: a frame follows the last sequence. -/
def follows (last : Option Byte) (seq : Byte) : Bool :=
  match last with
  | none => true
  | some q => seq = q + 1

/-- R14: sequence tracking. -/
def State.trackSequence (e : EntryNo) (seq : Byte) (s : State) : State :=
  (if follows s.entries[e].lastSeq seq then s else s.bumpEntry e .seqGap 1).modEntry e fun x =>
    { x with lastSeq := some seq }

/-- R15: a REFERENCE frame. -/
def State.handReference (e : EntryNo) (body : List Byte) (s : State) : State :=
  if body.length < 5 then s.bumpEntry e .short 1
  else if 5 < body.length then s.bumpEntry e .long 1
  else
    match s.entries[e].state with
    | .active =>
        s.judgeReference e (BitVec.ofNat 32 (numberOf (body.take 4))) ((body.getD 4 0).getLsbD 0)
    | .unused | .inactive | .primed => s.bumpEntry e .refIgnored 1

/-- R16: a MARKER frame. -/
def State.handMarker (e : EntryNo) (body : List Byte) (s : State) : State :=
  if body.length < 6 then s.bumpEntry e .short 1
  else if 6 < body.length then s.bumpEntry e .long 1
  else
    match s.entries[e].state with
    | .active =>
        s.placeMarker s.entries[e].screen s.entries[e].timing
          { pt := BitVec.ofNat 32 (numberOf (body.take 4)), code := numberOf (body.drop 4) }
    | .unused | .inactive | .primed => s

/-- R5: a sample of three bytes in the entry's byte order. -/
def sampleOf (order : ByteOrder) (b0 b1 b2 : Byte) : Int :=
  match order with
  | .msbFirst => signedOf 3 (numberOf [b0, b1, b2])
  | .lsbFirst => signedOf 3 (numberOf [b2, b1, b0])

/-- R5: the samples of a body, in the order they are carried. -/
def samplesOf (order : ByteOrder) : List Byte → List Int
  | b0 :: b1 :: b2 :: rest => sampleOf order b0 b1 b2 :: samplesOf order rest
  | _ => []

/-- R5: the 48 samples of channel i of n from the interleaved list. -/
def deinterleave (n i : Nat) (samples : List Int) : List Int :=
  (List.range Config.blockLength).map fun t => samples.getD (t * n + i) 0

/-- R5: the block a PROGRAM body carries. -/
def programBlock (e : EntryNo) (order : ByteOrder) (body : List Byte) : Block :=
  let n := numberOf ((body.drop 5).take 1)
  let samples := samplesOf order (body.drop 6)
  { pt := BitVec.ofNat 32 (numberOf (body.take 4))
    present := (body.drop 4).headD 0
    channels := n
    samples := (List.range n).map fun i => deinterleave n i samples
    entry := e }

/-- R17: the tally of the first check a PROGRAM body fails, or none. -/
def programFailure (expected : Nat) (body : List Byte) : Option EntryTally :=
  let n := numberOf ((body.drop 5).take 1)
  if body.length < 6 then some .short
  else if n < 1 ∨ 8 < n then some .format
  else if body.length < 6 + 144 * n then some .short
  else if 6 + 144 * n < body.length then some .long
  else if n ≠ expected then some .format
  else none

/-- R17: a PROGRAM frame. -/
def State.handProgram (e : EntryNo) (body : List Byte) (s : State) : State :=
  match programFailure s.entries[e].channels body with
  | some t => s.bumpEntry e t 1
  | none => s.offerBlock e (programBlock e s.entries[e].order body)

/-- R13 step 7. -/
def State.handByKind (e : EntryNo) (f : Frame) (s : State) : State :=
  if f.kind = 1 then s.handProgram e f.body
  else if f.kind = 2 then s.handReference e f.body
  else s.handMarker e f.body

/-- R13 steps 4 to 7: a stream frame. -/
def State.classifyStream (f : Frame) (s : State) : State :=
  match s.findStream f.stream with
  | none => s.bumpPort .unknownStream
  | some e =>
      match s.entries[e].state with
      | .primed | .active => (s.trackSequence e f.seq).handByKind e f
      | .unused | .inactive => s.bumpPort .inactiveDrop

/-- R13 step 3, R166: a MANAGE frame handed to the Management Handler. -/
def State.handManage (body : List Byte) (s : State) : State :=
  match readManage body with
  | some (tag, r) => s.submit tag r
  | none => s.bumpPort .badKind

/-- R13 steps 2 to 7. -/
def State.classify (f : Frame) (s : State) : State :=
  if f.kindError then s.bumpPort .badKind
  else if f.kind = 4 then s.handManage f.body
  else s.classifyStream f

/-- R13: a downstream frame, taken whole. -/
def State.arrive (bytes : List Byte) (s : State) : State :=
  if frameCheckPasses bytes then s.classify (frameFields bytes) else s.bumpPort .checkFail

end Sys2Proof.Machine
end

