-- ==== Sys2Proof/Machine/Events.lean ====
section
/-! DEFINITION. The meanings of the event rows of the opcode table: the part, the trunk, the lanes, the boundary,
and the events within a boundary (log entry 3). -/

namespace Sys2Proof.Machine

/-- What a step can answer. -/
abbrev Answered := Host.Outcome State Fault Refusal

/-- POWER_ON (00_scope, R49): every block in its power-on state; the queue of commands is kept. -/
def execPowerOn (s : State) : Answered := .next { State.reset with pending := s.pending }

/-- FRAME_ARRIVAL (R13). -/
def execFrameArrival (frame : List Byte) (s : State) : Answered := .next (s.arrive frame)

/-- BLOCK_BOUNDARY (R37); a boundary withdrawn by a phase write at this word-clock count does not fall (R35). -/
def execBlockBoundary (screen : ScreenNo) (s : State) : Answered :=
  if s.screens[screen].playout.voidedAt = some s.wordClock then .next s else .next (s.boundary screen)

/-- REFERENCE_TIMEOUT (R61): the block count that reaches the timeout in LOCKED, and the fall to HOLDOVER. -/
def execReferenceTimeout (screen : ScreenNo) (s : State) : Answered :=
  if s.screens[screen].timeoutFalls then .next (s.countReference screen) else .next s

/-- METER_DUE (R132): the meter count that reaches 100·i. -/
def execMeterDue (screen : ScreenNo) (s : State) : Answered :=
  if s.screens[screen].meterFalls then .next (s.emitMeter screen) else .next s

/-- CHECK_COMPLETE (R115): at the closing block the last feed is decided and the check ends. -/
def execCheckComplete (screen : ScreenNo) (s : State) : Answered :=
  if s.screens[screen].signal.check.closes then
    .next ((s.modSignal screen Signal.decideLast).completeCheck screen)
  else .next s

/-- FADE_END (R98): the advance at which k reaches D. -/
def execFadeEnd (screen : ScreenNo) (s : State) : Answered :=
  if s.screens[screen].level.fadeEnds then .next (s.modLevel screen Level.advanceFade) else .next s

/-- The screen a cue is tied to (R151). -/
def Cue.screenNo (c : Cue) : ScreenNo := ⟨c.spec.screen % 6, by omega⟩

/-- CUE_COUNTDOWN_EXPIRY (R154): an ARMED cue's countdown reaches 0; the cue is due and fires (R157). By the model's
choice (log entry 3) it keeps a go request, which R156 clears at stage 6 of a boundary, and so fires again there. -/
def execCueCountdownExpiry (cue : CueNo) (s : State) : Answered :=
  if s.cues[cue].countdownEnds then
    .next ((s.modCue cue Cue.lowerCountdown).fireCues s.cues[cue].screenNo [cue])
  else .next s

/-- R154, R160: the judgement of one PENDING AT_TIME cue against its screen's T, unless the screen's timed cues
are held. R160 reads the hold from a boundary's latch; outside a boundary the model reads the REF_LOST record as it
stands, and a cue that its go request keeps from MISSED stays PENDING (its choices, log entry 3). -/
def State.judgeTimed (cue : CueNo) (s : State) : State :=
  let c := s.cues[cue]
  let x := s.screens[c.screenNo]
  if x.cuesHeld then s
  else if c.timeDue x.clock.base then s.fireCues c.screenNo [cue]
  else if c.timeMissed x.clock.base then s.modCue cue fun c => { c with state := .missed }
  else s

/-- CUE_TIME_DUE (R154): a PENDING AT_TIME cue is due on time, due overdue, or MISSED. One that fires keeps its go
request for the next boundary (R156), by the model's choice (log entry 3). -/
def execCueTimeDue (cue : CueNo) (s : State) : Answered := .next (s.judgeTimed cue)

/-- R155: the cues of a screen that its due markers make due, ascending. -/
def State.markerCues (i : ScreenNo) (t : ScreenTime) (s : State) : List CueNo :=
  let due := s.dueMarkers i t
  (indexes 256).filter fun n => s.cues[n].spec.screen = i.val && s.cues[n].markerDue due

/-- MARKER_DUE (R155): due markers leave the list, and the cues they make due fire (R157). They keep a go request for
the next boundary (R156), by the model's choice (log entry 3). -/
def execMarkerDue (screen : ScreenNo) (s : State) : Answered :=
  .next ((s.removeMarkers screen s.screens[screen].clock.base).fireCues screen
    (s.markerCues screen s.screens[screen].clock.base))

/-- LANE_RECORD_SENT (R121). -/
def execLaneRecordSent (lane : LaneNo) (s : State) : Answered := .next (s.modLane lane Lane.sent)

/-- SENSE_RECORD_ARRIVAL (R122). -/
def execSenseRecordArrival (lane : LaneNo) (record : List Byte) (s : State) : Answered :=
  .next (s.modLane lane fun l => l.arrive record)

/-- UPSTREAM_FRAME_SENT (R174). -/
def execUpstreamFrameSent (s : State) : Answered := .next s.frameSent

end Sys2Proof.Machine
end

