-- ==== Sys2Proof/Machine/Requests.lean ====
section
/-! DEFINITION. The meanings of the request rows of the opcode table. Each is the hand-off of that request to the
Management Handler (R166): taken at once, queued, or discarded with MANAGE_DROP. What a taken request does is the
`do…` definition of the block that owns its state, reached through `perform`. -/

namespace Sys2Proof.Machine

/-- UNDEFINED_REQUEST (R167: the envelope's judgement; an undefined kind or table code is answered with no change). -/
def execUndefinedRequest (tag : Byte) (kind table index : Nat) (args : List Byte) (s : State) : Answered :=
  .next (s.submit tag (judgeEnvelope kind table index args))

/-- READ (R169). -/
def execRead (tag : Byte) (table : Table) (index : Nat) (s : State) : Answered :=
  .next (s.submit tag (.read table index))

/-- WRITE_STREAM (R22). -/
def execWriteStream (tag : Byte) (index : Nat) (record : StreamWrite) (s : State) : Answered :=
  .next (s.submit tag (.writeStream index record))

/-- WRITE_PRESET (R68). -/
def execWritePreset (tag : Byte) (index : Nat) (record : Preset) (s : State) : Answered :=
  .next (s.submit tag (.writePreset index record))

/-- WRITE_EQBANK (R86). -/
def execWriteEqbank (tag : Byte) (index : Nat) (record : List Section) (s : State) : Answered :=
  .next (s.submit tag (.writeEqbank index record))

/-- WRITE_CUE (R152). -/
def execWriteCue (tag : Byte) (index : Nat) (record : CueSpec) (s : State) : Answered :=
  .next (s.submit tag (.writeCue index record))

/-- WRITE_PROFILE (R141). -/
def execWriteProfile (tag : Byte) (index : Nat) (record : Profile) (s : State) : Answered :=
  .next (s.submit tag (.writeProfile index record))

/-- WRITE_WAVE (R107). -/
def execWriteWave (tag : Byte) (index : Nat) (record : Vector Int 32) (s : State) : Answered :=
  .next (s.submit tag (.writeWave index record))

/-- WRITE_SCREEN (R169). -/
def execWriteScreen (tag : Byte) (index : Nat) (record : ScreenSettings) (s : State) : Answered :=
  .next (s.submit tag (.writeScreen index record))

/-- WRITE_FEED (R93). -/
def execWriteFeed (tag : Byte) (index : Nat) (trim : Int) (s : State) : Answered :=
  .next (s.submit tag (.writeFeed index trim))

/-- SCREEN_RESET (R171). -/
def execScreenReset (tag : Byte) (screen : Nat) (s : State) : Answered :=
  .next (s.submit tag (.screenReset screen))

/-- MUTE (R99). -/
def execMute (tag : Byte) (screen : Nat) (s : State) : Answered :=
  .next (s.submit tag (.mute screen))

/-- UNMUTE (R99). -/
def execUnmute (tag : Byte) (screen : Nat) (s : State) : Answered :=
  .next (s.submit tag (.unmute screen))

/-- SET_FADER (R96). -/
def execSetFader (tag : Byte) (screen fader : Nat) (s : State) : Answered :=
  .next (s.submit tag (.setFader screen fader))

/-- FADE (R97). -/
def execFade (tag : Byte) (screen target duration : Nat) (s : State) : Answered :=
  .next (s.submit tag (.fade screen target duration))

/-- SET_PRESET (R70). -/
def execSetPreset (tag : Byte) (screen : Nat) (preset : Option Nat) (s : State) : Answered :=
  .next (s.submit tag (.setPreset screen preset))

/-- SELECT_BANK (R89). -/
def execSelectBank (tag : Byte) (screen : Nat) (bank : Bank) (s : State) : Answered :=
  .next (s.submit tag (.selectBank screen bank))

/-- PRIME (R23). -/
def execPrime (tag : Byte) (entry : Nat) (s : State) : Answered :=
  .next (s.submit tag (.prime entry))

/-- ACTIVATE (R24). -/
def execActivate (tag : Byte) (entry : Nat) (s : State) : Answered :=
  .next (s.submit tag (.activate entry))

/-- DEACTIVATE (R25). -/
def execDeactivate (tag : Byte) (entry : Nat) (s : State) : Answered :=
  .next (s.submit tag (.deactivate entry))

/-- GO (R156). -/
def execGo (tag : Byte) (cue : Nat) (s : State) : Answered :=
  .next (s.submit tag (.go cue))

/-- CANCEL (R162). -/
def execCancel (tag : Byte) (cue : Nat) (s : State) : Answered :=
  .next (s.submit tag (.cancel cue))

/-- ENABLE (R162). -/
def execEnable (tag : Byte) (cue : Nat) (s : State) : Answered :=
  .next (s.submit tag (.enable cue))

/-- ACK (R146). -/
def execAck (tag : Byte) (record : Nat) (s : State) : Answered :=
  .next (s.submit tag (.ack record))

/-- PATTERN (R109). -/
def execPattern (tag : Byte) (screen : Nat) (spec : PatternSpec) (s : State) : Answered :=
  .next (s.submit tag (.pattern screen spec))

/-- START_CHECK (R112). -/
def execStartCheck (tag : Byte) (screen : Nat) (spec : CheckSpec) (s : State) : Answered :=
  .next (s.submit tag (.startCheck screen spec))

/-- STOP_CHECK (R117). -/
def execStopCheck (tag : Byte) (screen : Nat) (s : State) : Answered :=
  .next (s.submit tag (.stopCheck screen))

/-- READ_STATUS (R172). -/
def execReadStatus (tag : Byte) (screen : Nat) (s : State) : Answered :=
  .next (s.submit tag (.readStatus screen))

/-- LIST_ALARMS (R172). -/
def execListAlarms (tag : Byte) (screen : Nat) (s : State) : Answered :=
  .next (s.submit tag (.listAlarms screen))

/-- READ_TALLY (R173). -/
def execReadTally (tag : Byte) (subject : Nat) (scope : TallyScope) (clear : Bool) (s : State) : Answered :=
  .next (s.submit tag (.readTally subject scope clear))

/-- READ_METER (R173). -/
def execReadMeter (tag : Byte) (screen : Nat) (reset : Bool) (s : State) : Answered :=
  .next (s.submit tag (.readMeter screen reset))

/-- READ_CHECK (R116). -/
def execReadCheck (tag : Byte) (screen : Nat) (s : State) : Answered :=
  .next (s.submit tag (.readCheck screen))

/-- READ_SENSE (R125). -/
def execReadSense (tag : Byte) (feed : Nat) (s : State) : Answered :=
  .next (s.submit tag (.readSense feed))

end Sys2Proof.Machine
end

