-- ==== Sys2Proof/Machine/Dispatch.lean ====
section
/-! DEFINITION. One arm per command. -/

namespace Sys2Proof.Machine

def exec (i : Instr) (s : State) : Host.Outcome State Fault Refusal :=
  match i with
  | .powerOn => Sys2Proof.Machine.execPowerOn s
  | .frameArrival frame => Sys2Proof.Machine.execFrameArrival frame s
  | .blockBoundary screen => Sys2Proof.Machine.execBlockBoundary screen s
  | .referenceTimeout screen => Sys2Proof.Machine.execReferenceTimeout screen s
  | .meterDue screen => Sys2Proof.Machine.execMeterDue screen s
  | .checkComplete screen => Sys2Proof.Machine.execCheckComplete screen s
  | .fadeEnd screen => Sys2Proof.Machine.execFadeEnd screen s
  | .cueCountdownExpiry cue => Sys2Proof.Machine.execCueCountdownExpiry cue s
  | .cueTimeDue cue => Sys2Proof.Machine.execCueTimeDue cue s
  | .markerDue screen => Sys2Proof.Machine.execMarkerDue screen s
  | .laneRecordSent lane => Sys2Proof.Machine.execLaneRecordSent lane s
  | .senseRecordArrival lane record => Sys2Proof.Machine.execSenseRecordArrival lane record s
  | .upstreamFrameSent => Sys2Proof.Machine.execUpstreamFrameSent s
  | .undefinedRequest tag kind table index args => Sys2Proof.Machine.execUndefinedRequest tag kind table index args s
  | .read tag table index => Sys2Proof.Machine.execRead tag table index s
  | .writeStream tag index record => Sys2Proof.Machine.execWriteStream tag index record s
  | .writePreset tag index record => Sys2Proof.Machine.execWritePreset tag index record s
  | .writeEqbank tag index record => Sys2Proof.Machine.execWriteEqbank tag index record s
  | .writeCue tag index record => Sys2Proof.Machine.execWriteCue tag index record s
  | .writeProfile tag index record => Sys2Proof.Machine.execWriteProfile tag index record s
  | .writeWave tag index record => Sys2Proof.Machine.execWriteWave tag index record s
  | .writeScreen tag index record => Sys2Proof.Machine.execWriteScreen tag index record s
  | .writeFeed tag index trim => Sys2Proof.Machine.execWriteFeed tag index trim s
  | .screenReset tag screen => Sys2Proof.Machine.execScreenReset tag screen s
  | .mute tag screen => Sys2Proof.Machine.execMute tag screen s
  | .unmute tag screen => Sys2Proof.Machine.execUnmute tag screen s
  | .setFader tag screen fader => Sys2Proof.Machine.execSetFader tag screen fader s
  | .fade tag screen target duration => Sys2Proof.Machine.execFade tag screen target duration s
  | .setPreset tag screen preset => Sys2Proof.Machine.execSetPreset tag screen preset s
  | .selectBank tag screen bank => Sys2Proof.Machine.execSelectBank tag screen bank s
  | .prime tag entry => Sys2Proof.Machine.execPrime tag entry s
  | .activate tag entry => Sys2Proof.Machine.execActivate tag entry s
  | .deactivate tag entry => Sys2Proof.Machine.execDeactivate tag entry s
  | .go tag cue => Sys2Proof.Machine.execGo tag cue s
  | .cancel tag cue => Sys2Proof.Machine.execCancel tag cue s
  | .enable tag cue => Sys2Proof.Machine.execEnable tag cue s
  | .ack tag record => Sys2Proof.Machine.execAck tag record s
  | .pattern tag screen spec => Sys2Proof.Machine.execPattern tag screen spec s
  | .startCheck tag screen spec => Sys2Proof.Machine.execStartCheck tag screen spec s
  | .stopCheck tag screen => Sys2Proof.Machine.execStopCheck tag screen s
  | .readStatus tag screen => Sys2Proof.Machine.execReadStatus tag screen s
  | .listAlarms tag screen => Sys2Proof.Machine.execListAlarms tag screen s
  | .readTally tag subject scope clear => Sys2Proof.Machine.execReadTally tag subject scope clear s
  | .readMeter tag screen reset => Sys2Proof.Machine.execReadMeter tag screen reset s
  | .readCheck tag screen => Sys2Proof.Machine.execReadCheck tag screen s
  | .readSense tag feed => Sys2Proof.Machine.execReadSense tag feed s

end Sys2Proof.Machine
end

