-- ==== Sys2Proof/Machine/Step.lean ====
section
/-! DEFINITION. One step: the command at the front of the queue, or one word-clock period on an empty queue. -/

namespace Sys2Proof.Machine

/-- The front command is run on the state with the queue's rest; on an empty queue one word-clock period passes
(DESIGN CHOICE, log entry 1). -/
def step (s : State) : Host.Outcome State Fault Refusal :=
  match s.pending with
  | [] => .next s.tick
  | c :: rest => exec c { s with pending := rest }

/-- The command a table word spells put at the front of the queue; no row of the table gives bits, so s itself. -/
def State.withFetchWord (s : State) (nbits w : Nat) : State :=
  match decodeTableWord nbits w with
  | some c => { s with pending := c :: s.pending }
  | none => s

end Sys2Proof.Machine
end

