-- ==== Sys2Proof/Safety.lean ====
section
/-! DEFINITION. The invariants every step keeps, each read from a rule of the manual, and the words the statements
and the tests share: frames as the trunk and the lanes carry them, a request answered, and what the stages of a boundary
hand on. No command of the model ends in a fault or a refusal, so a run is safe when every state in it meets these
invariants. -/

namespace Sys2Proof.Machine

/-! ## Invariants -/

/-- R28, R29: slots in the queues and free slots number 192, and no screen holds more than its quota. -/
def State.poolSound (s : State) : Prop :=
  s.freeSlots + (s.screens.toList.map fun x => x.playout.held).sum = 192 ∧
    ∀ i : ScreenNo, s.screens[i].playout.held ≤ s.screens[i].settings.quota

/-- R166, R174: the queues within their depths; a reply waits only for a full Report Queue, and a request waits only
behind a waiting reply; a sequence is taken exactly by a head frame (R11). -/
def State.reportsSound (s : State) : Prop :=
  s.reports.length ≤ 32 ∧ s.requests.length ≤ 16 ∧ (s.replySlot.isSome → s.reports.length = 32) ∧
    (s.requests ≠ [] → s.replySlot.isSome) ∧ (s.sendingSeq.isSome ↔ s.reports ≠ [])

/-- R35, R52, R132: every setting within its range. -/
def settingsInRange (r : ScreenSettings) : Prop :=
  r.phase ≤ 47 ∧ (48 ≤ r.lateLimit ∧ r.lateLimit ≤ 48000) ∧ (48 ≤ r.earlyLimit ∧ r.earlyLimit ≤ 96000) ∧
    (1 ≤ r.window ∧ r.window ≤ 480) ∧ (1 ≤ r.lockN ∧ r.lockN ≤ 255) ∧ (1 ≤ r.unlockN ∧ r.unlockN ≤ 255) ∧
    (-48000 ≤ r.referenceOffset ∧ r.referenceOffset ≤ 48000) ∧
    (10 ≤ r.referenceTimeout ∧ r.referenceTimeout ≤ 60000) ∧ (4 ≤ r.quota ∧ r.quota ≤ 64) ∧ r.meterInterval ≤ 255

/-- R54, R55: UNREFERENCED exactly in SELF_TIMED; slip only in LOCKED and within W; counts below their limits. -/
def Screen.clockSound (x : Screen) : Prop :=
  settingsInRange x.settings ∧ (x.clock.state = .unreferenced ↔ x.settings.clockMode = .selfTimed) ∧
    (x.clock.slip ≠ 0 → x.clock.state = .locked) ∧ x.clock.slip.natAbs ≤ x.settings.window ∧
    x.clock.inWindow < x.settings.lockN ∧ x.clock.outWindow < x.settings.unlockN ∧ x.clock.sinceReference ≤ 65535

def State.clocksSound (s : State) : Prop := ∀ i : ScreenNo, s.screens[i].clockSound

/-- R94: the fader in 0..100, and a fade's fields in their ranges. -/
def Level.sound (l : Level) : Prop :=
  l.fader ≤ 100 ∧
    ∀ f, l.fade = some f → f.start ≤ 100 ∧ f.target ≤ 100 ∧ 1 ≤ f.duration ∧ f.duration ≤ 60000 ∧ f.count < f.duration

def State.levelsSound (s : State) : Prop := ∀ i : ScreenNo, s.screens[i].level.sound

/-- R133: which fields are present in which state, and the ranges of the counts. -/
def AlarmRecord.sound (r : AlarmRecord) : Prop :=
  (r.recorded.isSome ↔ r.state = .action) ∧ (r.raised.isSome ↔ r.state ≠ .normal) ∧
    (r.state = .acked → r.acked = true) ∧ (r.state = .normal ∨ r.state = .warning → r.acked = false) ∧
    r.run ≤ 65535 ∧ r.clear ≤ 65535 ∧ r.occurrences ≤ 255

/-- R78: a retired record is NORMAL with zero run and clear counts. -/
def Screen.recordsSound (x : Screen) : Prop :=
  ∀ k : RecordNo, x.records[k].sound ∧
    (recordInUse x.render.latched k = false →
      x.records[k].state = .normal ∧ x.records[k].run = 0 ∧ x.records[k].clear = 0)

def State.alarmsSound (s : State) : Prop := ∀ i : ScreenNo, s.screens[i].recordsSound

/-- R13 note 1, R20, R21: one ACTIVE and one PRIMED entry per screen; a number is held by one used entry; every
queued block came from the entry that fills its queue. -/
def State.sourcesSound (s : State) : Prop :=
  (∀ e o : EntryNo, s.entries[e].screen = s.entries[o].screen → s.entries[e].state = s.entries[o].state →
      s.entries[e].state = .active ∨ s.entries[e].state = .primed → e = o) ∧
    (∀ e o : EntryNo, s.entries[e].state ≠ .unused → s.entries[o].state ≠ .unused →
      s.entries[e].number = s.entries[o].number → e = o) ∧
    (∀ e : EntryNo, s.entries[e].number ≤ 4095 ∧ (s.entries[e].number = 0 ↔ s.entries[e].state = .unused)) ∧
    (∀ i : ScreenNo, ∀ b ∈ s.screens[i].playout.program,
      s.entries[b.entry].screen = i ∧ s.entries[b.entry].state = .active) ∧
    (∀ i : ScreenNo, ∀ b ∈ s.screens[i].playout.standby,
      s.entries[b.entry].screen = i ∧ s.entries[b.entry].state = .primed)

/-- R104: a value within the sample range. -/
def inSampleRange (v : Int) : Prop := -8388608 ≤ v ∧ v ≤ 8388607

/-- R120, R123: the awaiting entries are the last blocks sent, oldest first, and at most two between boundaries;
R121: the transmit queue holds at most two records; R104: every sample in it is within the sample range. -/
def Lane.sound (l : Lane) : Prop :=
  l.awaiting.length ≤ 2 ∧
    l.awaiting.map Awaiting.count =
      (List.range l.awaiting.length).map (fun j => l.nextCount - BitVec.ofNat 16 (l.awaiting.length - j)) ∧
    l.transmit.length ≤ 2 ∧ (∀ r ∈ l.transmit, ∀ j : Fin 8, ∀ v ∈ r.samples[j], inSampleRange v) ∧
    l.miss ≤ 65535 ∧ l.seqErrors ≤ 65535

/-- R120: both lanes of a screen carry the same counts. -/
def State.lanesSound (s : State) : Prop :=
  ∀ i : ScreenNo, (∀ l : Fin 2, s.screens[i].lanes[l].sound) ∧
    s.screens[i].lanes[(0 : Fin 2)].nextCount = s.screens[i].lanes[(1 : Fin 2)].nextCount ∧
    s.screens[i].lanes[(0 : Fin 2)].awaiting.length = s.screens[i].lanes[(1 : Fin 2)].awaiting.length

/-- R88: a bank at rest: every history 0. -/
def bankAtRest (bank : List EqSection) : Prop := ∀ e ∈ bank, e.x1 = 0 ∧ e.x2 = 0 ∧ e.y1 = 0 ∧ e.y2 = 0

/-- R85, R88, R93, R131: at most eight sections a bank; the inactive bank at rest; trim, hold, sent peaks and EQ_SAT
in range. -/
def Feed.sound (f : Feed) : Prop :=
  f.bankA.length ≤ 8 ∧ f.bankB.length ≤ 8 ∧ (f.active ≠ .a → bankAtRest f.bankA) ∧
    (f.active ≠ .b → bankAtRest f.bankB) ∧ (-40 ≤ f.trim ∧ f.trim ≤ 24) ∧ f.hold ≤ 8388608 ∧ f.sentOne ≤ 8388608 ∧
    f.sentTwo ≤ 8388608 ∧ f.eqSat ≤ 65535

/-- R85: all sixteen feeds of a screen hold the same active bank. -/
def State.feedsSound (s : State) : Prop :=
  ∀ i : ScreenNo, ∀ k : FeedNo, s.screens[i].feeds[k].sound ∧
    s.screens[i].feeds[k].active = s.screens[i].feeds[(0 : FeedNo)].active

/-- R106: the noise register never holds 0. R36, R113: the mode is CHECK exactly while a check is RUNNING; the block
count is absent while IDLE and below the closing block's between boundaries. -/
def Screen.signalSound (x : Screen) : Prop :=
  x.signal.noise ≠ 0 ∧ (x.playout.mode = .check ↔ x.signal.check.running = true) ∧
    (x.signal.check.running = false → x.signal.check.count = none) ∧
    (x.signal.check.running = true →
      x.signal.check.feeds ≠ [] ∧ ∀ n, x.signal.check.count = some n → n < x.signal.check.closingCount)

def State.signalsSound (s : State) : Prop := ∀ i : ScreenNo, s.screens[i].signalSound

/-- R151, R152, R163: what the table holds about cue n: an EMPTY cue has its power-on values; an AFTER cue names a
loaded parent of its own screen; an ARMED cue is an AFTER cue under a FIRED parent with a countdown in 1..delay, and
no other cue has a countdown. -/
def State.cueSound (s : State) (n : CueNo) : Prop :=
  (s.cues[n].state = .empty → s.cues[n] = Cue.powerOn) ∧
    (s.cues[n].state ≠ .empty → s.cues[n].spec.screen < 6 ∧
      (s.cues[n].spec.trigger = .after → 1 ≤ s.cues[n].spec.delay ∧
        ∃ p : CueNo, s.cues[n].spec.parent = p.val ∧ p ≠ n ∧ s.cues[p].state ≠ .empty ∧
          s.cues[p].spec.screen = s.cues[n].spec.screen)) ∧
    (s.cues[n].state = .armed → s.cues[n].spec.trigger = .after ∧
      (∀ p : CueNo, s.cues[n].spec.parent = p.val → s.cues[p].state = .fired) ∧
      ∃ c, s.cues[n].countdown = some c ∧ 1 ≤ c ∧ c ≤ s.cues[n].spec.delay) ∧
    (s.cues[n].state ≠ .armed → s.cues[n].countdown = none)

/-- R151, R153, R163: every cue, and every marker list within its depth. -/
def State.cuesSound (s : State) : Prop :=
  (∀ n : CueNo, s.cueSound n) ∧ ∀ i : ScreenNo, s.screens[i].markers.length ≤ 8

/-! ## Words the statements share -/

/-- R166: the handler takes a request at once: its queue and its reply slot are empty. -/
def State.free (s : State) : Prop := s.requests = [] ∧ s.replySlot = none

/-- R11, R174: a frame at the tail of the Report Queue; the first frame of an empty queue starts to send and takes
the upstream sequence. -/
def State.placed (s : State) (f : UpFrame) : State :=
  { s with
    reports := s.reports ++ [f]
    sendingSeq := if s.reports = [] then some s.upSeq else s.sendingSeq
    upSeq := if s.reports = [] then s.upSeq + 1 else s.upSeq }

/-- A request has left `t` and is answered: its reply is offered after its effects (R168). -/
def State.answers (t : State) (tag : Byte) (result : Result) (record : List Byte) : Answered :=
  .next (t.offerReply { tag := tag, result := result, record := record })

/-- The tag and request of a request row. -/
def requestOf : Instr → Option (Byte × Request)
  | .undefinedRequest tag kind table index args => some (tag, judgeEnvelope kind table index args)
  | .read tag table index => some (tag, .read table index)
  | .writeStream tag index r => some (tag, .writeStream index r)
  | .writePreset tag index r => some (tag, .writePreset index r)
  | .writeEqbank tag index r => some (tag, .writeEqbank index r)
  | .writeCue tag index r => some (tag, .writeCue index r)
  | .writeProfile tag index r => some (tag, .writeProfile index r)
  | .writeWave tag index r => some (tag, .writeWave index r)
  | .writeScreen tag index r => some (tag, .writeScreen index r)
  | .writeFeed tag index trim => some (tag, .writeFeed index trim)
  | .screenReset tag screen => some (tag, .screenReset screen)
  | .mute tag screen => some (tag, .mute screen)
  | .unmute tag screen => some (tag, .unmute screen)
  | .setFader tag screen fader => some (tag, .setFader screen fader)
  | .fade tag screen target duration => some (tag, .fade screen target duration)
  | .setPreset tag screen preset => some (tag, .setPreset screen preset)
  | .selectBank tag screen bank => some (tag, .selectBank screen bank)
  | .prime tag entry => some (tag, .prime entry)
  | .activate tag entry => some (tag, .activate entry)
  | .deactivate tag entry => some (tag, .deactivate entry)
  | .go tag cue => some (tag, .go cue)
  | .cancel tag cue => some (tag, .cancel cue)
  | .enable tag cue => some (tag, .enable cue)
  | .ack tag record => some (tag, .ack record)
  | .pattern tag screen spec => some (tag, .pattern screen spec)
  | .startCheck tag screen spec => some (tag, .startCheck screen spec)
  | .stopCheck tag screen => some (tag, .stopCheck screen)
  | .readStatus tag screen => some (tag, .readStatus screen)
  | .listAlarms tag screen => some (tag, .listAlarms screen)
  | .readTally tag subject scope clear => some (tag, .readTally subject scope clear)
  | .readMeter tag screen reset => some (tag, .readMeter screen reset)
  | .readCheck tag screen => some (tag, .readCheck screen)
  | .readSense tag feed => some (tag, .readSense feed)
  | .powerOn | .frameArrival _ | .blockBoundary _ | .referenceTimeout _ | .meterDue _ | .checkComplete _ | .fadeEnd _
  | .cueCountdownExpiry _ | .cueTimeDue _ | .markerDue _ | .laneRecordSent _ | .senseRecordArrival _ _
  | .upstreamFrameSent => none

/-- Bytes followed by their check, most-significant byte first (R2, R12). -/
def withCheck (bytes : List Byte) : List Byte :=
  bytes ++ [((frameCheck bytes) >>> 8).setWidth 8, (frameCheck bytes).setWidth 8]

/-- R1: a trunk frame of the given kind, stream number, sequence and body. -/
def trunkFrame (kind stream : Nat) (seq : Byte) (body : List Byte) : List Byte :=
  withCheck
    ([BitVec.ofNat 8 (16 * kind + stream / 256), BitVec.ofNat 8 (stream % 256), seq,
      BitVec.ofNat 8 (body.length / 256), BitVec.ofNat 8 (body.length % 256)] ++ body)

/-- A 16-bit number as its two bytes, most-significant byte first. -/
def twoBytes (v : BitVec 16) : List Byte := [(v >>> 8).setWidth 8, v.setWidth 8]

/-- A 32-bit number as its four bytes, most-significant byte first. -/
def fourBytes (v : BitVec 32) : List Byte :=
  [(v >>> 24).setWidth 8, (v >>> 16).setWidth 8, (v >>> 8).setWidth 8, v.setWidth 8]

/-- R67: the bytes of a fill entry that begins a record: its presence byte is the fifth (R4). -/
def fillLength (bytes : List Byte) : Nat := if bytes.getD 4 0 = 0 then 5 else 8

/-- R67: the bytes that `n` fill entries require, each by its own presence byte. -/
def fillsLength : Nat → List Byte → Nat
  | 0, _ => 0
  | n + 1, bytes => fillLength bytes + fillsLength n (bytes.drop (fillLength bytes))

/-- R67: the fill mode bytes of `n` fill entries. -/
def fillModes : Nat → List Byte → List Nat
  | 0, _ => []
  | n + 1, bytes => (bytes.getD 0 0).toNat :: fillModes n (bytes.drop (fillLength bytes))

/-- R4, R167 step 3: the bytes a WRITE record of the table requires, read with its count and presence bytes: STREAM (R22),
PRESET (R67: 261 before the fill entries), EQBANK (R85: 15 a section), CUE (R151), PROFILE (R141), WAVE (R107), SCREEN
(R169), FEED (R93). -/
def writeLength (table : Nat) (args : List Byte) : Nat :=
  match table with
  | 1 => 6
  | 2 => 261 + fillsLength 8 (args.drop 261)
  | 3 => 1 + 15 * (args.getD 0 0).toNat
  | 4 => 39
  | 5 => 18
  | 6 => 96
  | 7 => 20
  | 8 => 1
  | _ => 0

/-- R4, R167 step 4: the named-value bytes of a WRITE record, each with the number of codes its field has: byte order and
timing mode, fill modes, a cue's trigger, action, bank and two pattern kinds, alarm action, clock mode. -/
def writeCodes (table : Nat) (args : List Byte) : List (Nat × Nat) :=
  let byte := fun n : Nat => (args.getD n 0).toNat
  match table with
  | 1 => [(byte 4, 2), (byte 5, 2)]
  | 2 => (fillModes 8 (args.drop 261)).map fun mode => (mode, 3)
  | 4 => [(byte 2, 4), (byte 12, 11), (byte 18, 2), (byte 19, 3), (byte 24, 3)]
  | 5 => [(byte 6, 5)]
  | 7 => [(byte 7, 2)]
  | _ => []

/-- R4, R167 step 3: the bytes a command's record requires: SET_FADER (R96), FADE (R97), SET_PRESET (R70), SELECT_BANK
(R89), PATTERN (R109), START_CHECK (R112), READ_TALLY and READ_METER (R173); none for the others. -/
def commandLength (kind : Nat) (args : List Byte) : Nat :=
  match kind with
  | 19 => 1
  | 20 => 3
  | 21 => if args.getD 0 0 = 0 then 1 else 2
  | 22 => 1
  | 30 => 5
  | 31 => 11
  | 35 => 2
  | 36 => 1
  | _ => 0

/-- R4, R167 step 4: the named-value byte of a command's record with the number of codes its field has: the bank of
SELECT_BANK, the kind of PATTERN and START_CHECK, the scope of READ_TALLY. -/
def commandCodes (kind : Nat) (args : List Byte) : List (Nat × Nat) :=
  match kind with
  | 22 => [((args.getD 0 0).toNat, 2)]
  | 30 => [((args.getD 0 0).toNat, 3)]
  | 31 => [((args.getD 0 0).toNat, 3)]
  | 35 => [((args.getD 0 0).toNat, 5)]
  | _ => []

/-- R167: a flag or presence byte as the 0 or 1 it reads as. -/
def plainFlag (b : Byte) : Byte := if b = 0 then 0 else 1

/-- R64, R175: the outcome of a decision at the clock of screen `i`: the clock it leaves, and the step amount of the one
CLOCK notice it offers, or none. A notice that finds the Report Queue full is dropped and sets the notice-lost flag. -/
def State.clockOutcome (i : ScreenNo) (s t : State) (c : Clock) (notice : Option Int) : Prop :=
  t.screens[i].clock = c ∧
    t.screens[i].noticeLost = (s.screens[i].noticeLost || (notice.isSome && decide (32 ≤ s.reports.length))) ∧
    (32 ≤ s.reports.length → t.reports = s.reports) ∧
    (s.reports.length < 32 →
      t.reports = s.reports ++ notice.toList.map fun d => UpFrame.notice
        { kind := .clock, screen := i, subject := 0, state := c.state.code, valueA := 0, valueB := d, st := c.now })

/-- Everything outside the screens, the Report Queue and its sequence stands as it was, and so do the screens
other than `i`. -/
def State.sameBut (i : ScreenNo) (s t : State) : Prop :=
  (∀ j : ScreenNo, j ≠ i → t.screens[j] = s.screens[j]) ∧
    t = { s with screens := t.screens, reports := t.reports, sendingSeq := t.sendingSeq, upSeq := t.upSeq }

/-! ## What a boundary hands from stage to stage -/

/-- R37, R154: a boundary of screen i that falls at `s` ends in its cue stage, run on `u` at T, the base u holds. -/
def State.reachesCues (i : ScreenNo) (s u : State) : Prop :=
  ∃ held : Bool, exec (.blockBoundary i) s = .next (u.cueStage i u.screens[i].clock.base held)

/-- R38, R72, R79, R98, R113: screen i with what stage 1 of its boundary latches: the selected preset, the records that
leave use retired, the fade advanced, the check block counted. -/
def State.latchedScreen (i : ScreenNo) (s : State) : Screen :=
  let x := s.screens[i]
  let new : Option LatchedPreset := x.render.selection.map fun p => { index := p, preset := s.presets[p] }
  { x with
    render := { x.render with latched := new }
    records := tabulate fun k =>
      if recordInUse x.render.latched k && !recordInUse new k then
        { x.records[k] with state := .normal, run := 0, clear := 0, recorded := none, acked := false, raised := none }
      else x.records[k]
    level := x.level.advanceFade
    signal := x.signal.countCheck }

/-- R39, R41, R43: the selection of screen i at T, by the timing mode of its ACTIVE entry. -/
def State.selectionAt (i : ScreenNo) (t : ScreenTime) (s : State) : Selection :=
  let x := s.screens[i]
  selectBlock (s.modeOf (s.activeEntry i)) t x.settings.lateLimit x.settings.earlyLimit x.playout.program

/-- R84, R110, R113: the 48 input words of feed k at a boundary that plays `played`: the render of the latched preset, or
the pattern that replaces it. -/
def State.feedWords (i : ScreenNo) (k : FeedNo) (played : Option Block) (s : State) : List Int :=
  let x := s.screens[i]
  let y := s.latchedScreen i
  inputWords y.latchSettings x.signal.check.spec (noiseRun 48 x.signal.noise).1
    (toneSamples s.tone x.signal.tonePhase)
    (renderWords y.render.latched (tabulate y.filled) (blockInputs played)) k

/-- R84, R104: the pre-clamp values of feed k at a boundary that plays `played`: its input words through the feed's bank
and its latched gain. -/
def State.gainedWords (i : ScreenNo) (k : FeedNo) (played : Option Block) (s : State) : List Int :=
  let x := s.screens[i]
  (x.feeds[k].equalise x.level.requested (s.feedWords i k played)).2.map (applyGain ((s.latchedScreen i).latchGain k))

/-- R123: the outcome a lane hands over at a boundary: that of the older of two blocks awaiting. -/
def Lane.twoBack (l : Lane) : Handed :=
  match l.awaiting with
  | [a, _] =>
      match a.slot with
      | none => .lost
      | some v => .received v
  | _ => .none

end Sys2Proof.Machine
end

