-- ==== Sys2Proof/Certificates/Slice0/Obligations.lean ====
section
/-! DEFINITION. The statements for the provers. `s.free` says that the Management Handler takes a request at once
(R166); `t.answers tag result record` is the outcome in which the request left `t` and its reply was offered (R168). A
statement about a request row names every field it changes by a record update of `s`, so every other field of the
state is unchanged, but for the Report Queue and the reply slot, which `OffersToTheReportQueue` describes. -/

section Statements

open Sys2Proof Sys2Proof.Machine

/-! ## The step -/

/-- The command at the front of the queue is run on the state with the queue's rest. -/
def Obligations.StepRunsTheFrontCommand : Prop :=
  ∀ (c : Instr) (rest : List Instr) (s : State), s.pending = c :: rest → step s = exec c { s with pending := rest }

/-- The model's choice of log entry 1: on an empty queue one word-clock period passes. The count and every screen's e
rise by 1 (R49), and exactly the boundaries that fall at the new count join the queue (R35). -/
def Obligations.EmptyQueueStepIsOneWordClockPeriod : Prop :=
  ∀ s : State, s.pending = [] →
    ∃ t, step s = .next t ∧ t = { s with wordClock := s.wordClock + 1, screens := t.screens, pending := t.pending } ∧
      (∀ i : ScreenNo, t.screens[i] =
        { s.screens[i] with clock := { s.screens[i].clock with elapsed := s.screens[i].clock.elapsed + 1 } }) ∧
      (∀ c, c ∈ t.pending ↔ ∃ i : ScreenNo, c = .blockBoundary i ∧ s.screens[i].playout.nextBoundary = s.wordClock + 1) ∧
      t.pending.Nodup

/-- POWER_ON: the power-on values of the manual's tables, from every state; the queue of commands is kept (the model's
own, log entry 1), the feed mask of the check's parameters is the model's choice (log entry 9), and the two fields the
model adds, the sequence of the frame being sent and the withdrawn boundary, are absent (log entries 5 and 2). -/
def Obligations.PowerOnRestoresTheManualsValues : Prop :=
  ∀ s : State, ∃ t, exec .powerOn s = .next t ∧
    t.pending = s.pending ∧ t.wordClock = 0 ∧ t.freeSlots = 192 ∧ t.requests = [] ∧ t.replySlot = none ∧
    t.reports = [] ∧ t.upSeq = 0 ∧ t.sendingSeq = none ∧ (∀ k : Fin 5, t.portTallies[k] = 0) ∧ (∀ p : Fin 32, t.tone[p] = 0) ∧
    (∀ e : EntryNo, t.entries[e] =
      { number := 0, screen := 0, channels := 1, order := .msbFirst, timing := .timed, state := .unused,
        lastSeq := none, tallies := Vector.replicate 13 0 }) ∧
    (∀ p : PresetNo, t.presets[p].used = false ∧ t.presets[p].channels = 1 ∧ t.presets[p].monitored = 0 ∧
      t.presets[p].feedSet = 0 ∧ (∀ (f : FeedNo) (c : ChannelNo), t.presets[p].matrix[f][c] = 0) ∧
      ∀ c : ChannelNo, t.presets[p].fill[c] = { mode := .none, donorA := 0, coefA := 0, donorB := none }) ∧
    (∀ n : CueNo, t.cues[n] =
      { spec :=
          { used := false, screen := 0, trigger := .atTime, time := 0, markerCode := 0, parent := 0, delay := 0,
            action := .preset, preset := 0, fadeTarget := 0, fadeDuration := 0, entry := 0, bank := .a,
            pattern := { kind := .off, level := 0, mask := 0 },
            check := { kind := .off, level := 0, dwell := 0, passCount := 0, returnFloor := 0, mask := 0 },
            notifyCode := 0, catchUp := false, rearm := false }
        state := .empty, countdown := none, lastFault := none, go := false }) ∧
    (∀ i : ScreenNo,
      t.screens[i].settings =
        { phase := 0, lateLimit := 480, earlyLimit := 4800, clockMode := .selfTimed, window := 24, lockN := 4,
          unlockN := 3, referenceOffset := 0, referenceTimeout := 1000, quota := 32, meterInterval := 0 } ∧
      t.screens[i].playout.program = [] ∧ t.screens[i].playout.standby = [] ∧
      t.screens[i].playout.resync = true ∧ t.screens[i].playout.mode = .show ∧
      t.screens[i].playout.nextBoundary = 48 ∧ t.screens[i].playout.voidedAt = none ∧ (∀ k : Fin 7, t.screens[i].tallies[k] = 0) ∧
      t.screens[i].clock =
        { base := 0, elapsed := 0, state := .unreferenced, inWindow := 0, outWindow := 0, slip := 0,
          sinceReference := 0 } ∧
      t.screens[i].render.selection = none ∧ t.screens[i].render.latched = none ∧
      t.screens[i].level = { fader := 70, fade := none, muted := true, requested := .a } ∧
      (∀ k : FeedNo, t.screens[i].feeds[k] =
        { bankA := [], bankB := [], active := .a, trim := 0, eqSat := 0, hold := 0, sentOne := 0, sentTwo := 0 }) ∧
      t.screens[i].signal.noise = 1 ∧ t.screens[i].signal.tonePhase = 0 ∧ t.screens[i].signal.pattern = none ∧
      t.screens[i].signal.check =
        { running := false
          spec := { kind := .noise, level := 0, dwell := 8, passCount := 1, returnFloor := 1, mask := 0 }
          feeds := [], count := none } ∧
      (∀ k : FeedNo, t.screens[i].signal.results[k] = { state := .untested, hits := 0, maxPeak := 0 }) ∧
      (∀ l : Fin 2, t.screens[i].lanes[l].nextCount = 0 ∧ t.screens[i].lanes[l].transmit = [] ∧
        t.screens[i].lanes[l].awaiting = [] ∧ t.screens[i].lanes[l].miss = 0 ∧ t.screens[i].lanes[l].seqErrors = 0 ∧
        ∀ j : Fin 8, t.screens[i].lanes[l].views[j] = { outcome := .none, outcomeCount := none, last := none }) ∧
      (∀ c : ChannelNo, t.screens[i].channelHolds[c] = 0) ∧ t.screens[i].meterCount = 0 ∧
      (∀ k : RecordNo, t.screens[i].records[k] =
        { state := .normal, run := 0, clear := 0, recorded := none, acked := false, raised := none,
          occurrences := 0 }) ∧
      (∀ k : Fin 6, t.screens[i].profiles[k] =
        { warnAfter := 8, actAfter := 0, clearAfter := 8, action := .none, threshold := 8388608,
          probeLevel := 262144, returnFloor := 64, reduce := 12 }) ∧
      t.screens[i].markers = [] ∧ t.screens[i].noticeLost = false)

/-! ## Invariants -/

/-- The state after reset meets every invariant below. -/
def Obligations.ResetMeetsEveryInvariant : Prop :=
  State.reset.poolSound ∧ State.reset.reportsSound ∧ State.reset.clocksSound ∧ State.reset.levelsSound ∧
    State.reset.alarmsSound ∧ State.reset.sourcesSound ∧ State.reset.lanesSound ∧ State.reset.feedsSound ∧
    State.reset.signalsSound ∧ State.reset.cuesSound

/-- R28, R29: no step loses or duplicates a slot, and no screen exceeds its quota. -/
def Obligations.EveryStepConservesThePool : Prop :=
  ∀ s t : State, s.poolSound → step s = .next t → t.poolSound

/-- R166, R168, R174: no step overfills a queue, and a reply or a request waits only for report space. That a sequence is
taken exactly while a frame stands at the head is the model's reading (log entry 5). -/
def Obligations.EveryStepBoundsTheReportQueue : Prop :=
  ∀ s t : State, s.reportsSound → step s = .next t → t.reportsSound

/-- R54, R55: the clock state agrees with the clock mode, slip is pending only in LOCKED and within W. R94: the fader value
lies in 0..100 at every moment. -/
def Obligations.EveryStepKeepsClocksAndFadersInRange : Prop :=
  (∀ s t : State, s.clocksSound → step s = .next t → t.clocksSound) ∧
  ∀ s t : State, s.levelsSound → step s = .next t → t.levelsSound

/-- R78, R133: every retired record is NORMAL with zero counts, and a recorded action is held exactly in ACTION. -/
def Obligations.EveryStepKeepsRetiredRecordsAtRest : Prop :=
  ∀ s t : State, s.alarmsSound → step s = .next t → t.alarmsSound

/-- R21: one ACTIVE and one PRIMED entry per screen, and every queued block came from the entry that fills its queue. -/
def Obligations.EveryStepKeepsOneSourcePerQueue : Prop :=
  ∀ s t : State, s.sourcesSound → step s = .next t → t.sourcesSound

/-- R104, R120, R121, R123: the lanes' counts in step, their queues bounded, their samples in range. -/
def Obligations.EveryStepKeepsTheLanesInStep : Prop :=
  ∀ s t : State, s.lanesSound → step s = .next t → t.lanesSound

/-- R85, R88: the inactive bank of every feed stays at rest, and a screen's feeds share one active bank. -/
def Obligations.EveryStepKeepsInactiveBanksAtRest : Prop :=
  ∀ s t : State, s.feedsSound → step s = .next t → t.feedsSound

/-- R36, R106, R113: the noise register never holds 0, and the mode is CHECK exactly while a check runs. -/
def Obligations.EveryStepKeepsCheckModeWithTheCheck : Prop :=
  ∀ s t : State, s.signalsSound → step s = .next t → t.signalsSound

/-- R163: an AFTER cue is ARMED only while its parent is FIRED, with its countdown between 1 and its delay. -/
def Obligations.EveryStepArmsOnlyUnderFiredParents : Prop :=
  ∀ s t : State, s.cuesSound → step s = .next t → t.cuesSound

/-! ## The Management Handler and the Report Queue -/

/-- R166: each request row is taken at once, queued at the tail, or dropped with MANAGE_DROP. R167 steps 1 and 2: an
undefined table is BAD_TABLE; an undefined kind, or a command with a table, BAD_REQUEST. R167 step 3, R4: a READ with a
nonempty record, and a WRITE or a command whose record has not the length its fields require, its count and presence
bytes read, is BAD_REQUEST. R167 step 4: a record of that length with an undefined named-value code is BAD_VALUE, at
every index. Each with an empty record and no change of state; a record that passes both is not rejected by its
envelope. -/
def Obligations.RequestIsTakenQueuedOrDropped : Prop :=
  (∀ (c : Instr) (tag : Byte) (r : Request) (s : State), requestOf c = some (tag, r) →
    (s.free → exec c s = (perform r s).state.answers tag (perform r s).result (perform r s).record) ∧
    (¬s.free → s.requests.length < 16 → exec c s = .next { s with requests := s.requests ++ [(tag, r)] }) ∧
    (¬s.free → 16 ≤ s.requests.length →
      exec c s = .next { s with portTallies := s.portTallies.set 4 (min (s.portTallies[4] + 1) 65535) })) ∧
  ∀ (tag : Byte) (kind table index : Nat) (args : List Byte) (s : State), s.free →
    ((kind = 1 ∨ kind = 2) → (table < 1 ∨ 8 < table) →
      exec (.undefinedRequest tag kind table index args) s = s.answers tag .badTable []) ∧
    (kind ≠ 1 → kind ≠ 2 → (kind < 16 ∨ 38 < kind) →
      exec (.undefinedRequest tag kind table index args) s = s.answers tag .badRequest []) ∧
    (16 ≤ kind → kind ≤ 38 → table ≠ 0 →
      exec (.undefinedRequest tag kind table index args) s = s.answers tag .badRequest []) ∧
    (kind = 1 → 1 ≤ table → table ≤ 8 → args ≠ [] →
      exec (.undefinedRequest tag kind table index args) s = s.answers tag .badRequest []) ∧
    (kind = 2 → 1 ≤ table → table ≤ 8 → args.length ≠ writeLength table args →
      exec (.undefinedRequest tag kind table index args) s = s.answers tag .badRequest []) ∧
    (kind = 2 → 1 ≤ table → table ≤ 8 → args.length = writeLength table args →
      ((∃ p ∈ writeCodes table args, p.2 ≤ p.1) →
        exec (.undefinedRequest tag kind table index args) s = s.answers tag .badValue []) ∧
      ((∀ p ∈ writeCodes table args, p.1 < p.2) → ∀ e, judgeEnvelope kind table index args ≠ .rejected e)) ∧
    (16 ≤ kind → kind ≤ 38 → table = 0 → args.length ≠ commandLength kind args →
      exec (.undefinedRequest tag kind table index args) s = s.answers tag .badRequest []) ∧
    (16 ≤ kind → kind ≤ 38 → table = 0 → args.length = commandLength kind args →
      ((∃ p ∈ commandCodes kind args, p.2 ≤ p.1) →
        exec (.undefinedRequest tag kind table index args) s = s.answers tag .badValue []) ∧
      ((∀ p ∈ commandCodes kind args, p.1 < p.2) → ∀ e, judgeEnvelope kind table index args ≠ .rejected e))

/-- R168, R174, R175: what a full and a non-full Report Queue does with each kind of frame. That a frame placed in an
empty queue takes the upstream sequence at once is the model's reading (log entry 5). -/
def Obligations.OffersToTheReportQueue : Prop :=
  ∀ s : State, s.reportsSound →
    (∀ r : Reply,
      (s.reports.length < 32 → s.offerReply r = s.placed (.reply r)) ∧
      (s.reports.length = 32 → s.offerReply r = { s with replySlot := some r })) ∧
    (∀ n : Notice,
      (s.reports.length < 32 → s.offerNotice n = s.placed (.notice n)) ∧
      (s.reports.length = 32 →
        s.offerNotice n = s.modScreen n.screen fun x => { x with noticeLost := true }))

/-- R174: the head frame leaves; a waiting reply enters in the same event and the next request is taken, its own reply
then waiting in its turn. That the new head takes the upstream sequence (R11) in the same event is the model's reading
(log entry 5). -/
def Obligations.SentFrameLeavesAndTheNextEnters : Prop :=
  ∀ (s : State) (f : UpFrame) (rest : List UpFrame), s.reports = f :: rest →
    (s.free →
      exec .upstreamFrameSent s = .next
        { s with
          reports := rest
          sendingSeq := if rest = [] then none else some s.upSeq
          upSeq := if rest = [] then s.upSeq else s.upSeq + 1 }) ∧
    (∀ r, s.replySlot = some r → s.requests = [] →
      exec .upstreamFrameSent s = .next
        { s with
          reports := rest ++ [.reply r], replySlot := none, sendingSeq := some s.upSeq, upSeq := s.upSeq + 1 }) ∧
    (∀ r tag q more, s.replySlot = some r → s.requests = (tag, q) :: more → rest.length = 31 →
      ∃ entered : State,
        entered =
          { s with
            reports := rest ++ [.reply r], replySlot := none, sendingSeq := some s.upSeq, upSeq := s.upSeq + 1 } ∧
        exec .upstreamFrameSent s = .next
          { (perform q entered).state with
            replySlot := some { tag := tag, result := (perform q entered).result, record := (perform q entered).record }
            requests := more })

/-! ## Stream entries -/

/-- R22: the checks of a STREAM write in their order, and its effect table. -/
def Obligations.WriteStreamFollowsItsChecks : Prop :=
  ∀ (tag : Byte) (w : StreamWrite) (s : State), s.free →
    (∀ index, 32 ≤ index → exec (.writeStream tag index w) s = s.answers tag .badIndex []) ∧
    (∀ e : EntryNo, 4095 < w.number ∨ 6 ≤ w.screen →
      exec (.writeStream tag e.val w) s = s.answers tag .badValue []) ∧
    (∀ (e : EntryNo) (i : ScreenNo) (x : StreamEntry) (n : Nat), w.screen = i.val → w.number ≤ 4095 →
      x = s.entries[e] → n = max 1 (min 8 w.channels) →
      let held := (x.state = .primed ∨ x.state = .active) ∧
        (w.number ≠ x.number ∨ i ≠ x.screen ∨ n ≠ x.channels ∨ w.timing ≠ x.timing)
      let taken := w.number ≠ 0 ∧ ∃ o : EntryNo, o ≠ e ∧ s.entries[o].state ≠ .unused ∧ s.entries[o].number = w.number
      (held → exec (.writeStream tag e.val w) s = s.answers tag .inUse []) ∧
      (¬held → taken → exec (.writeStream tag e.val w) s = s.answers tag .badValue []) ∧
      (¬held → ¬taken → ∃ y : StreamEntry,
        exec (.writeStream tag e.val w) s =
          { s with entries := s.entries.set e.val y e.isLt }.answers tag
            (if n = w.channels then .ok else .okClamped) (streamBytes y) ∧
        (x.state = .unused → w.number = 0 → y = x) ∧
        (x.state = .unused → w.number ≠ 0 →
          y = { number := w.number, screen := i, channels := n, order := w.order, timing := w.timing,
                state := .inactive, lastSeq := none, tallies := Vector.replicate 13 0 }) ∧
        (x.state = .inactive → w.number = 0 → y = StreamEntry.powerOn) ∧
        (x.state = .inactive → w.number ≠ 0 → w.number = x.number ∧ i = x.screen →
          y = { x with channels := n, order := w.order, timing := w.timing }) ∧
        (x.state = .inactive → w.number ≠ 0 → ¬(w.number = x.number ∧ i = x.screen) →
          y = { number := w.number, screen := i, channels := n, order := w.order, timing := w.timing,
                state := .inactive, lastSeq := none, tallies := Vector.replicate 13 0 }) ∧
        (x.state = .primed ∨ x.state = .active → y = { x with order := w.order })))

/-- R23: PRIME in each state of the entry. -/
def Obligations.PrimeFollowsTheEntryState : Prop :=
  ∀ (tag : Byte) (s : State), s.free → s.sourcesSound →
    (∀ entry, 32 ≤ entry → exec (.prime tag entry) s = s.answers tag .badIndex []) ∧
    ∀ e : EntryNo,
      (s.entries[e].state = .active → exec (.prime tag e.val) s = s.answers tag .inUse []) ∧
      (s.entries[e].state = .unused → exec (.prime tag e.val) s = s.answers tag .empty []) ∧
      (s.entries[e].state = .primed → exec (.prime tag e.val) s = s.answers tag .ok (streamBytes s.entries[e])) ∧
      (s.entries[e].state = .inactive → ∃ t : State,
        exec (.prime tag e.val) s = t.answers tag .ok (streamBytes t.entries[e]) ∧
        t = { s with entries := t.entries, screens := t.screens, freeSlots := t.freeSlots } ∧
        (∀ o : EntryNo, t.entries[o] =
          if o = e then { s.entries[e] with state := .primed, lastSeq := none }
          else if s.entries[o].state = .primed ∧ s.entries[o].screen = s.entries[e].screen then
            { s.entries[o] with state := .inactive }
          else s.entries[o]) ∧
        t.freeSlots = s.freeSlots + s.screens[s.entries[e].screen].playout.standby.length ∧
        ∀ i : ScreenNo, t.screens[i] =
          if i = s.entries[e].screen then
            { s.screens[i] with playout := { s.screens[i].playout with standby := [] } }
          else s.screens[i])

/-- R24: ACTIVATE in each state of the entry: the swap of a PRIMED entry, the empty start of an INACTIVE one. -/
def Obligations.ActivateFollowsTheEntryState : Prop :=
  ∀ (tag : Byte) (s : State), s.free → s.sourcesSound →
    (∀ entry, 32 ≤ entry → exec (.activate tag entry) s = s.answers tag .badIndex []) ∧
    ∀ e : EntryNo,
      (s.entries[e].state = .unused → exec (.activate tag e.val) s = s.answers tag .empty []) ∧
      (s.entries[e].state = .active → exec (.activate tag e.val) s = s.answers tag .ok (streamBytes s.entries[e])) ∧
      (s.entries[e].state = .primed ∨ s.entries[e].state = .inactive → ∃ t : State,
        exec (.activate tag e.val) s = t.answers tag .ok (streamBytes t.entries[e]) ∧
        t = { s with entries := t.entries, screens := t.screens, freeSlots := t.freeSlots } ∧
        (∀ o : EntryNo, t.entries[o] =
          if o = e then
            { s.entries[e] with
              state := .active
              lastSeq := if s.entries[e].state = .primed then s.entries[e].lastSeq else none }
          else if s.entries[o].state = .active ∧ s.entries[o].screen = s.entries[e].screen then
            { s.entries[o] with state := .inactive }
          else s.entries[o]) ∧
        t.freeSlots = s.freeSlots + s.screens[s.entries[e].screen].playout.program.length ∧
        ∀ i : ScreenNo, t.screens[i] =
          if i = s.entries[e].screen then
            { s.screens[i] with
              playout :=
                { s.screens[i].playout with
                  program := if s.entries[e].state = .primed then s.screens[i].playout.standby else []
                  standby := if s.entries[e].state = .primed then [] else s.screens[i].playout.standby } }
          else s.screens[i])

/-- R25: DEACTIVATE in each state of the entry. -/
def Obligations.DeactivateFollowsTheEntryState : Prop :=
  ∀ (tag : Byte) (s : State), s.free →
    (∀ entry, 32 ≤ entry → exec (.deactivate tag entry) s = s.answers tag .badIndex []) ∧
    ∀ (e : EntryNo) (i : ScreenNo), i = s.entries[e].screen →
      (s.entries[e].state = .unused → exec (.deactivate tag e.val) s = s.answers tag .empty []) ∧
      (s.entries[e].state = .inactive →
        exec (.deactivate tag e.val) s = s.answers tag .ok (streamBytes s.entries[e])) ∧
      (s.entries[e].state = .active →
        exec (.deactivate tag e.val) s =
          { s with
            entries := s.entries.set e.val { s.entries[e] with state := .inactive } e.isLt
            freeSlots := s.freeSlots + s.screens[i].playout.program.length
            screens := s.screens.set i.val
              { s.screens[i] with playout := { s.screens[i].playout with program := [] } } i.isLt }.answers
            tag .ok (streamBytes { s.entries[e] with state := .inactive })) ∧
      (s.entries[e].state = .primed →
        exec (.deactivate tag e.val) s =
          { s with
            entries := s.entries.set e.val { s.entries[e] with state := .inactive } e.isLt
            freeSlots := s.freeSlots + s.screens[i].playout.standby.length
            screens := s.screens.set i.val
              { s.screens[i] with playout := { s.screens[i].playout with standby := [] } } i.isLt }.answers
            tag .ok (streamBytes { s.entries[e] with state := .inactive }))

/-! ## Presets, banks, trims and levels -/

/-- R68, R70: the checks of a PRESET write in their order, and SET_PRESET. -/
def Obligations.PresetsAreWrittenAndSelected : Prop :=
  (∀ (tag : Byte) (r : Preset) (s : State), s.free →
    (∀ index, 16 ≤ index → exec (.writePreset tag index r) s = s.answers tag .badIndex []) ∧
    (∀ p : PresetNo, r.used = false →
      ((∃ i : ScreenNo, s.screens[i].render.selection = some p) →
        exec (.writePreset tag p.val r) s = s.answers tag .inUse []) ∧
      (¬(∃ i : ScreenNo, s.screens[i].render.selection = some p) →
        exec (.writePreset tag p.val r) s =
          { s with presets := s.presets.set p.val Preset.powerOn p.isLt }.answers tag .ok
            (presetBytes Preset.powerOn))) ∧
    (∀ (p : PresetNo) (n : Nat), r.used = true → n = max 1 (min 8 r.channels) →
      let badDonor := ∃ c : ChannelNo, c.val < n ∧ r.fill[c].mode = .fill ∧
        (r.fill[c].donorA = c.val ∨ n ≤ r.fill[c].donorA ∨
          ∃ b k, r.fill[c].donorB = some (b, k) ∧ (b = c.val ∨ n ≤ b))
      (badDonor → exec (.writePreset tag p.val r) s = s.answers tag .badValue []) ∧
      (¬badDonor →
        exec (.writePreset tag p.val r) s =
          { s with presets := s.presets.set p.val { r with channels := n } p.isLt }.answers tag
            (if n = r.channels then .ok else .okClamped) (presetBytes { r with channels := n })))) ∧
  ∀ (tag : Byte) (s : State), s.free →
    (∀ screen preset, 6 ≤ screen → exec (.setPreset tag screen preset) s = s.answers tag .badIndex []) ∧
    ∀ i : ScreenNo,
      (∀ p, 16 ≤ p → exec (.setPreset tag i.val (some p)) s = s.answers tag .badValue []) ∧
      (∀ p : PresetNo, s.presets[p].used = false →
        exec (.setPreset tag i.val (some p.val)) s = s.answers tag .empty []) ∧
      (∀ p : PresetNo, s.presets[p].used = true →
        exec (.setPreset tag i.val (some p.val)) s =
          (s.modScreen i fun x => { x with render := { x.render with selection := some p } }).answers tag .ok
            [1, BitVec.ofNat 8 p.val]) ∧
      exec (.setPreset tag i.val none) s =
        (s.modScreen i fun x => { x with render := { x.render with selection := none } }).answers tag .ok [0]

/-- R85, R86, R93: an EQBANK write to bank b of feed k of screen i, index 16i + k for bank A and 96 + 16i + k for bank B,
is refused on a bank in use; a FEED write of index 16i + k clamps the trim to -40..24. -/
def Obligations.BankAndTrimWritesFollowTheirChecks : Prop :=
  (∀ (tag : Byte) (list : List Section) (s : State), s.free →
    (∀ index, 192 ≤ index → exec (.writeEqbank tag index list) s = s.answers tag .badIndex []) ∧
    ∀ (i : ScreenNo) (k : FeedNo) (bank : Bank) (index : Nat),
      index = (match bank with | .a => 0 | .b => 96) + 16 * i.val + k.val →
      (8 < list.length → exec (.writeEqbank tag index list) s = s.answers tag .badValue []) ∧
      (list.length ≤ 8 → s.screens[i].feeds[k].active = bank ∨ s.screens[i].level.requested = bank →
        exec (.writeEqbank tag index list) s = s.answers tag .inUse []) ∧
      (list.length ≤ 8 → ¬(s.screens[i].feeds[k].active = bank ∨ s.screens[i].level.requested = bank) →
        exec (.writeEqbank tag index list) s =
          (s.modFeed i k fun f => f.setBank bank (list.map EqSection.atRest)).answers tag .ok
            (BitVec.ofNat 8 list.length :: list.flatMap sectionBytes))) ∧
  ∀ (tag : Byte) (trim : Int) (s : State), s.free →
    (∀ index, 96 ≤ index → exec (.writeFeed tag index trim) s = s.answers tag .badIndex []) ∧
    ∀ (i : ScreenNo) (k : FeedNo) (v : Int), v = max (-40) (min 24 trim) →
      exec (.writeFeed tag (16 * i.val + k.val) trim) s =
        (s.modFeed i k fun f => { f with trim := v }).answers tag (if v = trim then .ok else .okClamped)
          [BitVec.ofInt 8 v]

/-- R89, R96, R97, R99: SELECT_BANK stores the request; SET_FADER stores the clamped value and cancels a fade; FADE starts
one from the value as it stands; MUTE and UNMUTE store the mute. That their reply carries 1 for muted is the model's
reading (log entry 7), and so is the form of the fade record in the reply of FADE (log entry 8). -/
def Obligations.LevelCommandsStoreTheirValues : Prop :=
  (∀ (tag : Byte) (bank : Bank) (s : State), s.free →
    (∀ screen, 6 ≤ screen → exec (.selectBank tag screen bank) s = s.answers tag .badIndex []) ∧
    ∀ i : ScreenNo,
      exec (.selectBank tag i.val bank) s =
        (s.modScreen i fun x => { x with level := { x.level with requested := bank } }).answers tag .ok
          [match bank with | .a => 0 | .b => 1]) ∧
  (∀ (tag : Byte) (s : State), s.free →
    (∀ screen f, 6 ≤ screen → exec (.setFader tag screen f) s = s.answers tag .badIndex []) ∧
    (∀ screen ft d, 6 ≤ screen → exec (.fade tag screen ft d) s = s.answers tag .badIndex []) ∧
    (∀ (i : ScreenNo) (f : Nat),
      exec (.setFader tag i.val f) s =
        (s.modScreen i fun x => { x with level := { x.level with fader := min 100 f, fade := none } }).answers tag
          (if f ≤ 100 then .ok else .okClamped) [BitVec.ofNat 8 (min 100 f)]) ∧
    (∀ (i : ScreenNo) (ft d target duration : Nat), target = min 100 ft → duration = max 1 (min 60000 d) →
      exec (.fade tag i.val ft d) s =
        (s.modScreen i fun x =>
          { x with
            level :=
              { x.level with
                fade := some { start := x.level.fader, target := target, duration := duration, count := 0 } } }).answers
          tag (if ft = target ∧ d = duration then .ok else .okClamped)
          ([BitVec.ofNat 8 s.screens[i].level.fader] ++
            [BitVec.ofNat 8 s.screens[i].level.fader, BitVec.ofNat 8 target] ++
            twoBytes (BitVec.ofNat 16 duration) ++ [0, 0]))) ∧
  ∀ (tag : Byte) (s : State), s.free →
    (∀ screen, 6 ≤ screen → exec (.mute tag screen) s = s.answers tag .badIndex [] ∧
      exec (.unmute tag screen) s = s.answers tag .badIndex []) ∧
    ∀ i : ScreenNo,
      exec (.mute tag i.val) s =
        (s.modScreen i fun x => { x with level := { x.level with muted := true } }).answers tag .ok [1] ∧
      exec (.unmute tag i.val) s =
        (s.modScreen i fun x => { x with level := { x.level with muted := false } }).answers tag .ok [0]

/-! ## Test signals and the speaker check -/

/-- R107, R109: PATTERN and a WAVE write. -/
def Obligations.PatternAndWaveAreStored : Prop :=
  ∀ (tag : Byte) (s : State), s.free →
    (∀ screen spec, 6 ≤ screen → exec (.pattern tag screen spec) s = s.answers tag .badIndex []) ∧
    (∀ (i : ScreenNo) (spec : PatternSpec), spec.kind = .off →
      exec (.pattern tag i.val spec) s =
        (s.modScreen i fun x => { x with signal := { x.signal with pattern := none } }).answers tag .ok [0]) ∧
    (∀ (i : ScreenNo) (spec : PatternSpec) (level : Int), spec.kind ≠ .off → level = max (-160) (min 0 spec.level) →
      exec (.pattern tag i.val spec) s =
        (s.modScreen i fun x =>
          { x with signal := { x.signal with pattern := some { spec with level := level } } }).answers tag
          (if level = spec.level then .ok else .okClamped) (1 :: patternBytes { spec with level := level })) ∧
    (∀ index tone, index ≠ 0 → exec (.writeWave tag index tone) s = s.answers tag .badIndex []) ∧
    (∀ tone, exec (.writeWave tag 0 tone) s = { s with tone := tone }.answers tag .ok (waveBytes tone))

/-- R112: START_CHECK. The form of the reply's check record is the model's reading, and so is that a check with an empty
feed list stores its parameters and that list (log entry 8). -/
def Obligations.StartCheckFollowsItsRules : Prop :=
  ∀ (tag : Byte) (spec : CheckSpec) (s : State), s.free →
    (∀ screen, 6 ≤ screen → exec (.startCheck tag screen spec) s = s.answers tag .badIndex []) ∧
    ∀ (i : ScreenNo) (x : Screen), x = s.screens[i] →
      (spec.kind = .off → exec (.startCheck tag i.val spec) s = s.answers tag .badValue []) ∧
      (spec.kind ≠ .off → x.signal.check.running = true →
        exec (.startCheck tag i.val spec) s = s.answers tag .busy []) ∧
      (spec.kind ≠ .off → x.signal.check.running = false →
        ∀ (d : Nat) (c : CheckSpec) (feeds : List FeedNo), d = max 8 (min 1000 spec.dwell) →
        c = { kind := spec.kind, level := max (-160) (min 0 spec.level), dwell := d,
              passCount := max 1 (min d spec.passCount), returnFloor := max 1 (min 65535 spec.returnFloor),
              mask := spec.mask } →
        feeds = (List.finRange 16).filter (fun k =>
          spec.mask.getLsbD k.val && x.render.latched.any fun l => l.preset.feedSet.getLsbD k.val) →
        ∃ (t : State) (results : Vector ResultEntry 16),
          (∀ k : FeedNo, results[k] =
            { state := if k ∈ feeds then .untested else .skipped, hits := 0, maxPeak := 0 }) ∧
          exec (.startCheck tag i.val spec) s =
            t.answers tag (if c = spec then .ok else .okClamped) (checkBytes t.screens[i].signal.check) ∧
          (feeds ≠ [] →
            t = s.modScreen i fun x =>
              { x with
                playout := { x.playout with mode := .check }
                signal :=
                  { x.signal with
                    check := { running := true, spec := c, feeds := feeds, count := none }, results := results } }) ∧
          (feeds = [] →
            t = (s.modScreen i fun x =>
              { x with
                signal :=
                  { x.signal with
                    check := { running := false, spec := c, feeds := [], count := none }
                    results := results } }).offerNotice
              { kind := .checkDone, screen := i, subject := 0, state := 0, valueA := 0, valueB := 0, st := s.stNow i }))

/-- R117: STOP_CHECK; the notice carries cause STOPPED and the counts of the table after the stop. The form of the reply's
check record is the model's reading (log entry 8). -/
def Obligations.StopCheckEndsARunningCheck : Prop :=
  ∀ (tag : Byte) (s : State), s.free →
    (∀ screen, 6 ≤ screen → exec (.stopCheck tag screen) s = s.answers tag .badIndex []) ∧
    ∀ i : ScreenNo,
      (s.screens[i].signal.check.running = false → exec (.stopCheck tag i.val) s = s.answers tag .empty []) ∧
      (s.screens[i].signal.check.running = true →
        ∃ (t : State) (results : Vector ResultEntry 16),
          (∀ k : FeedNo, results[k] =
            if s.screens[i].signal.results[k].state = .running ∨ s.screens[i].signal.results[k].state = .untested then
              { s.screens[i].signal.results[k] with state := .skipped }
            else s.screens[i].signal.results[k]) ∧
          exec (.stopCheck tag i.val) s = t.answers tag .ok (checkBytes t.screens[i].signal.check) ∧
          t = (s.modScreen i fun x =>
            { x with
              playout := { x.playout with mode := .show }
              signal :=
                { x.signal with
                  check := { x.signal.check with running := false, count := none }, results := results } }).offerNotice
            { kind := .checkDone, screen := i, subject := 0, state := 1
              valueA := ((List.finRange 16).filter fun k => results[k].state = .pass).length
              valueB := ((List.finRange 16).filter fun k => results[k].state = .fail).length
              st := s.stNow i })

/-! ## Alarms -/

/-- R141: the checks of a PROFILE write; index 6i + k, k in the order CH_LOSS, STARVE, REF_LOST, OVERLOAD, FEED_OPEN,
AMP_FAULT. -/
def Obligations.WriteProfileFollowsItsChecks : Prop :=
  ∀ (tag : Byte) (p : Profile) (s : State), s.free →
    (∀ index, 36 ≤ index → exec (.writeProfile tag index p) s = s.answers tag .badIndex []) ∧
    ∀ (i : ScreenNo) (k : Fin 6) (q : Profile),
      q = { warnAfter := max 1 (min 65535 p.warnAfter), actAfter := min 65535 p.actAfter,
            clearAfter := max 1 (min 65535 p.clearAfter), action := p.action,
            threshold := max 1 (min 8388608 p.threshold), probeLevel := max 1 (min 8388608 p.probeLevel),
            returnFloor := max 1 (min 65535 p.returnFloor), reduce := max 1 (min 48 p.reduce) } →
      let allowed := p.action = .none ∨ (k = 0 ∧ p.action = .fill) ∨ (k = 2 ∧ p.action = .holdCues) ∨
        (k = 3 ∧ p.action = .reduce) ∨ (k = 5 ∧ p.action = .muteFeed)
      (¬allowed → exec (.writeProfile tag (6 * i.val + k.val) p) s = s.answers tag .badValue []) ∧
      (allowed →
        exec (.writeProfile tag (6 * i.val + k.val) p) s =
          (s.modScreen i fun x => { x with profiles := x.profiles.set k.val q k.isLt }).answers tag
            (if q = p then .ok else .okClamped) (profileBytes q))

/-- R146: ACK of record 58i + k in each of its states. -/
def Obligations.AckFollowsTheRecordState : Prop :=
  ∀ (tag : Byte) (s : State), s.free →
    (∀ record, 348 ≤ record → exec (.ack tag record) s = s.answers tag .badIndex []) ∧
    ∀ (i : ScreenNo) (k : RecordNo) (r : AlarmRecord), r = s.screens[i].records[k] →
      (r.state = .normal → exec (.ack tag (58 * i.val + k.val)) s = s.answers tag .notRaised []) ∧
      (r.state = .acked → exec (.ack tag (58 * i.val + k.val)) s = s.answers tag .ok (alarmBytes k r)) ∧
      (r.state = .warning → ∀ q : AlarmRecord, q = { r with state := .acked, run := 0, acked := true } →
        exec (.ack tag (58 * i.val + k.val)) s =
          (s.modScreen i fun x => { x with records := x.records.set k.val q k.isLt }).answers tag .ok
            (alarmBytes k q)) ∧
      (r.state = .action → ∀ q : AlarmRecord, q = { r with acked := true } →
        exec (.ack tag (58 * i.val + k.val)) s =
          (s.modScreen i fun x => { x with records := x.records.set k.val q k.isLt }).answers tag .ok
            (alarmBytes k q))

/-- R135 to R140: how each kind of record sorts a block, by its place k in the screen's 58 records. -/
def Obligations.EachKindJudgesItsOwnInput : Prop :=
  ∀ (x : Screen) (b : BlockReport),
    (∀ (c : ChannelNo) (k : RecordNo), k.val = c.val → x.judge b k =
      if b.mode = .check then .neutral
      else if b.status[c] = .missing then .qualifying
      else if b.status[c] = .present then .clearing
      else .neutral) ∧
    (∀ k : RecordNo, k.val = 8 → x.judge b k =
      if b.hadActive = false ∨ b.muted = true ∨ b.mode = .check then .neutral
      else if b.decision = .underrun ∨ b.decision = .wait then .qualifying
      else .clearing) ∧
    (∀ k : RecordNo, k.val = 9 → x.judge b k =
      if x.clock.state = .acquiring ∨ x.clock.state = .holdover then .qualifying
      else if x.clock.state = .locked then .clearing
      else .neutral) ∧
    (∀ (f : FeedNo) (k : RecordNo), k.val = 10 + f.val → x.judge b k =
      if x.profiles[(3 : Fin 6)].threshold ≤ b.prePeaks[f] then .qualifying else .clearing) ∧
    (∀ (f : FeedNo) (k : RecordNo), k.val = 26 + f.val → x.judge b k =
      match feedReturn b.handed f with
      | .none => .neutral
      | .lost => .neutral
      | .received v =>
          if x.feeds[f].sentTwo < x.profiles[(4 : Fin 6)].probeLevel then .neutral
          else if v.peak < x.profiles[(4 : Fin 6)].returnFloor then .qualifying
          else .clearing) ∧
    (∀ (f : FeedNo) (k : RecordNo), k.val = 42 + f.val → x.judge b k =
      match feedReturn b.handed f with
      | .none => .neutral
      | .lost => .qualifying
      | .received v => if v.protect = true ∨ v.thermal = true then .qualifying else .clearing)

/-- R143, R144: the table of escalation with the fields each transition sets; the second component is the cause of the
notice, WARN 0, ACTION 1, CLEAR 2. R78: the records a latched preset puts in use. R134: stage 6 of a boundary judges
every record in use by the block's report and leaves every other record as stage 1 left it (R79). R145: each transition
offers one ALARM notice, in ascending record number, with subject 58i + k, the state after it, its cause and T. The
frames of a boundary before its cue stage are, in this order, the CLOCK notices of a timeout and of a resync that is a
step (R61, R64, R44), the RETIRED notices of the records that left use raised (R80, cause 3), at most one METER frame
(R132), the ALARM notices of stage 6, and CHECK_DONE (R115); what the Report Queue has no space for is dropped, and a
notice among it sets the screen's notice-lost flag (R174, R175). -/
def Obligations.EscalationFollowsItsTable : Prop :=
  (∀ (r : AlarmRecord) (p : Profile) (t : ScreenTime) (run clear : Nat), run = min (r.run + 1) 65535 →
    clear = min (r.clear + 1) 65535 →
    let normal : AlarmRecord :=
      { state := .normal, run := 0, clear := 0, recorded := none, acked := false, raised := none,
        occurrences := r.occurrences }
    r.evaluate p t .neutral = (r, none) ∧
    (r.state = .normal →
      r.evaluate p t .clearing = ({ r with run := 0 }, none) ∧
      (run < p.warnAfter → r.evaluate p t .qualifying = ({ r with run := run }, none)) ∧
      (p.warnAfter ≤ run → r.evaluate p t .qualifying =
        ({ r with state := .warning, run := 0, clear := 0, raised := some t,
                  occurrences := min (r.occurrences + 1) 255 }, some 0))) ∧
    (r.state = .warning →
      (p.actAfter = 0 ∨ run < p.actAfter →
        r.evaluate p t .qualifying = ({ r with run := run, clear := 0 }, none)) ∧
      (0 < p.actAfter → p.actAfter ≤ run → r.evaluate p t .qualifying =
        ({ r with state := .action, run := 0, clear := 0,
                  recorded := some { action := p.action, amount := if p.action = .reduce then p.reduce else 0 } },
          some 1)) ∧
      (clear < p.clearAfter → r.evaluate p t .clearing = ({ r with run := 0, clear := clear }, none)) ∧
      (p.clearAfter ≤ clear → r.evaluate p t .clearing = (normal, some 2))) ∧
    (r.state = .acked ∨ r.state = .action →
      r.evaluate p t .qualifying = ({ r with clear := 0 }, none) ∧
      (clear < p.clearAfter → r.evaluate p t .clearing = ({ r with clear := clear }, none)) ∧
      (p.clearAfter ≤ clear → r.evaluate p t .clearing = (normal, some 2)))) ∧
  (∀ (latched : Option LatchedPreset) (k : RecordNo), recordInUse latched k = true ↔
    k.val = 8 ∨ k.val = 9 ∨ ∃ l, latched = some l ∧
      ((k.val < 8 ∧ k.val < l.preset.channels ∧ l.preset.monitored.getLsbD k.val = true) ∨
        ∃ f : FeedNo, (k.val = 10 + f.val ∨ k.val = 26 + f.val ∨ k.val = 42 + f.val) ∧
          l.preset.feedSet.getLsbD f.val = true)) ∧
  ∀ (s : State) (i : ScreenNo) (x y : Screen) (advanced : ScreenTime), x = s.screens[i] → y = s.latchedScreen i →
    x.playout.voidedAt ≠ some s.wordClock → advanced = x.clock.base + BitVec.ofNat 32 x.clock.advance →
    ∃ (u : State) (b : BlockReport) (t : ScreenTime) (r : Selection) (clock retired meter alarms done : List UpFrame),
      s.reachesCues i u ∧ t = u.screens[i].clock.base ∧ r = s.selectionAt i t ∧
      b.decision = r.decision ∧ b.hadActive = (s.activeEntry i).isSome ∧ b.mode = x.playout.mode ∧
      b.muted = x.level.muted ∧ (∀ c : ChannelNo, b.status[c] = channelStatus r.played c) ∧
      (∀ f : FeedNo, b.prePeaks[f] = peakOf (s.gainedWords i f r.played)) ∧
      (s.lanesSound → ∀ l : Fin 2, b.handed[l] = x.lanes[l].twoBack) ∧
      let outcome := fun k : RecordNo => y.records[k].evaluate x.profiles[(recordKind k).profileIndex] t
        (({ x with clock := u.screens[i].clock } : Screen).judge b k)
      let alarm := fun (k : RecordNo) (state cause : Nat) => UpFrame.notice
        { kind := .alarm, screen := i, subject := 58 * i.val + k.val, state := state, valueA := cause, valueB := 0
          st := t }
      let clockNotice := fun (state : Nat) (d : Int) (st : ScreenTime) => UpFrame.notice
        { kind := .clock, screen := i, subject := 0, state := state, valueA := 0, valueB := d, st := st }
      (∀ k : RecordNo, u.screens[i].records[k] =
        if recordInUse y.render.latched k then (outcome k).1 else y.records[k]) ∧
      clock =
        (if x.clock.state = .locked ∧ x.settings.referenceTimeout ≤ min (x.clock.sinceReference + 1) 65535 then
          [clockNotice 3 0 advanced] else []) ++
        (if (x.settings.clockMode = .selfTimed ∧ x.playout.resync = true ∧ x.playout.program ≠ []) ∧ t ≠ advanced then
          [clockNotice u.screens[i].clock.state.code (signedDiff t advanced) t] else []) ∧
      retired = ((List.finRange 58).filter fun k => recordInUse x.render.latched k && !recordInUse y.render.latched k &&
        decide (x.records[k].state ≠ .normal)).map (fun k => alarm k 0 3) ∧
      meter.length =
        (if 0 < x.settings.meterInterval ∧ 100 * x.settings.meterInterval ≤ x.meterCount + 1 then 1 else 0) ∧
      (∀ f ∈ meter, ∃ m, f = .meter m) ∧
      alarms = ((List.finRange 58).filter fun k => recordInUse y.render.latched k).filterMap (fun k =>
        (outcome k).2.map fun cause => alarm k
          (match (outcome k).1.state with | .normal => 0 | .warning => 1 | .acked => 2 | .action => 3) cause) ∧
      done.length ≤ 1 ∧ (∀ f ∈ done, ∃ n, f = .notice n ∧ n.kind = .checkDone) ∧
      u.reports = s.reports ++ (clock ++ retired ++ meter ++ alarms ++ done).take (32 - s.reports.length) ∧
      (u.screens[i].noticeLost = true ↔ x.noticeLost = true ∨
        ∃ n, .notice n ∈ (clock ++ retired ++ meter ++ alarms ++ done).drop (32 - s.reports.length))

/-! ## Cues -/

/-- R152, R163: the checks of a CUE write in their order, the clamps of the fields its trigger and action use, and the
release of the ARMED children of a cue that was FIRED. That the level of a PATTERN cue of kind OFF is clamped as well is
the model's reading (log entry 10). -/
def Obligations.WriteCueFollowsItsChecks : Prop :=
  ∀ (tag : Byte) (w : CueSpec) (s : State), s.free →
    (∀ index, 256 ≤ index → exec (.writeCue tag index w) s = s.answers tag .badIndex []) ∧
    ∀ n : CueNo,
      let hasChild := ∃ m : CueNo, s.cues[m].state ≠ .empty ∧ s.cues[m].spec.trigger = .after ∧
        s.cues[m].spec.parent = n.val
      let parentGood := ∃ p : CueNo, w.parent = p.val ∧ p ≠ n ∧ s.cues[p].state ≠ .empty ∧
        s.cues[p].spec.screen = w.screen
      let badAction := (w.action = .preset ∧ 16 ≤ w.preset) ∨
        ((w.action = .source ∨ w.action = .prime) ∧ 32 ≤ w.entry) ∨ (w.action = .check ∧ w.check.kind = .off)
      let held := s.cues[n].state ≠ .empty ∧ s.cues[n].spec.screen ≠ w.screen ∧ hasChild
      (w.used = false → hasChild → exec (.writeCue tag n.val w) s = s.answers tag .inUse []) ∧
      (w.used = false → ¬hasChild →
        exec (.writeCue tag n.val w) s =
          { s with cues := s.cues.set n.val Cue.powerOn n.isLt }.answers tag .ok (cueBytes Cue.powerOn)) ∧
      (w.used = true → (6 ≤ w.screen ∨ (w.trigger = .after ∧ ¬parentGood) ∨ badAction) →
        exec (.writeCue tag n.val w) s = s.answers tag .badValue []) ∧
      (w.used = true → w.screen < 6 → ¬(w.trigger = .after ∧ ¬parentGood) → ¬badAction → held →
        exec (.writeCue tag n.val w) s = s.answers tag .inUse []) ∧
      (w.used = true → w.screen < 6 → ¬(w.trigger = .after ∧ ¬parentGood) → ¬badAction → ¬held →
        ∃ (v : CueSpec) (c : Cue) (t : State),
          v = { w with
            delay := if w.trigger = .after then max 1 (min 60000 w.delay) else w.delay
            fadeTarget := if w.action = .fade then min 100 w.fadeTarget else w.fadeTarget
            fadeDuration := if w.action = .fade then max 1 (min 60000 w.fadeDuration) else w.fadeDuration
            pattern :=
              if w.action = .pattern then { w.pattern with level := max (-160) (min 0 w.pattern.level) } else w.pattern
            check :=
              if w.action = .check then
                { w.check with
                  level := max (-160) (min 0 w.check.level)
                  dwell := max 8 (min 1000 w.check.dwell)
                  passCount := max 1 (min (max 8 (min 1000 w.check.dwell)) w.check.passCount)
                  returnFloor := max 1 (min 65535 w.check.returnFloor) }
              else w.check } ∧
          c = { spec := v, state := .pending, countdown := none, lastFault := none, go := false } ∧
          exec (.writeCue tag n.val w) s = t.answers tag (if v = w then .ok else .okClamped) (cueBytes c) ∧
          t = { s with cues := t.cues } ∧
          ∀ m : CueNo, t.cues[m] =
            if m = n then c
            else if s.cues[n].state = .fired ∧ s.cues[m].state = .armed ∧ s.cues[m].spec.trigger = .after ∧
                s.cues[m].spec.parent = n.val then
              { s.cues[m] with state := .pending, countdown := none }
            else s.cues[m])

/-- R156, R162, R163: GO, CANCEL and ENABLE in each state of the cue. -/
def Obligations.GoCancelEnableFollowTheCueState : Prop :=
  ∀ (tag : Byte) (s : State), s.free →
    (∀ n, 256 ≤ n → exec (.go tag n) s = s.answers tag .badIndex [] ∧
      exec (.cancel tag n) s = s.answers tag .badIndex [] ∧ exec (.enable tag n) s = s.answers tag .badIndex []) ∧
    ∀ (n : CueNo) (c : Cue), c = s.cues[n] →
      (c.state = .empty → exec (.go tag n.val) s = s.answers tag .empty [] ∧
        exec (.cancel tag n.val) s = s.answers tag .empty [] ∧ exec (.enable tag n.val) s = s.answers tag .empty []) ∧
      (c.state = .disabled → exec (.go tag n.val) s = s.answers tag .badValue [] ∧
        exec (.cancel tag n.val) s = s.answers tag .ok (cueBytes c) ∧
        exec (.enable tag n.val) s =
          { s with cues := s.cues.set n.val { c with state := .pending } n.isLt }.answers tag .ok
            (cueBytes { c with state := .pending })) ∧
      (c.state ≠ .empty → c.state ≠ .disabled →
        exec (.go tag n.val) s =
          { s with cues := s.cues.set n.val { c with go := true } n.isLt }.answers tag .ok
            (cueBytes { c with go := true }) ∧
        exec (.enable tag n.val) s = s.answers tag .ok (cueBytes c) ∧
        ∃ t : State,
          exec (.cancel tag n.val) s =
            t.answers tag .ok (cueBytes { c with state := .disabled, countdown := none, go := false }) ∧
          t = { s with cues := t.cues } ∧
          ∀ m : CueNo, t.cues[m] =
            if m = n then { c with state := .disabled, countdown := none, go := false }
            else if c.state = .fired ∧ s.cues[m].state = .armed ∧ s.cues[m].spec.trigger = .after ∧
                s.cues[m].spec.parent = n.val then
              { s.cues[m] with state := .pending, countdown := none }
            else s.cues[m])

/-- R161: the rearm of a backward step. -/
def Obligations.BackwardStepRearmsCues : Prop :=
  ∀ (i : ScreenNo) (d : Int) (s : State), -2147483648 < d → d ≤ 2147483647 →
    let tNew := s.stNow i + BitVec.ofInt 32 d
    let rearmed := fun n : CueNo => s.cues[n].spec.screen = i.val ∧ s.cues[n].spec.trigger = .atTime ∧
      s.cues[n].spec.rearm = true ∧ (s.cues[n].state = .fired ∨ s.cues[n].state = .missed) ∧
      0 < signedDiff s.cues[n].spec.time tNew
    (d = 0 → s.stepClock i d = s) ∧
    (d ≠ 0 →
      (s.stepClock i d).stNow i = tNew ∧ (s.stepClock i d).screens[i] =
        { s.screens[i] with
          clock := { s.screens[i].clock with base := s.screens[i].clock.base + BitVec.ofInt 32 d }
          tallies := s.screens[i].tallies.set 2 (min (s.screens[i].tallies[2] + 1) 65535) } ∧
      s.stepClock i d = { s with screens := (s.stepClock i d).screens, cues := (s.stepClock i d).cues } ∧
      ∀ j : ScreenNo, j ≠ i → (s.stepClock i d).screens[j] = s.screens[j]) ∧
    (0 < d → (s.stepClock i d).cues = s.cues) ∧
    (d < 0 → ∀ n : CueNo, (s.stepClock i d).cues[n] =
      if rearmed n then { s.cues[n] with state := .pending, countdown := none }
      else if s.cues[n].state = .armed ∧ s.cues[n].spec.trigger = .after ∧
          (∃ p : CueNo, s.cues[n].spec.parent = p.val ∧ rearmed p ∧ s.cues[p].state = .fired) then
        { s.cues[n] with state := .pending, countdown := none }
      else s.cues[n])

/-! ## Screen settings and the screen reset -/

/-- R169: a SCREEN write clamps, refuses a changed phase on a screen in use, and otherwise stores all eleven
settings and changes exactly what the record updates name: R29 its quota trim, R35 its phase move, R52 and R53 its effect
on the clock with the CLOCK notice of a changed mode, dropped with the notice-lost flag at a full Report Queue (R174,
R175), R132 on the meter count. That a boundary due at this very count and not yet taken is withdrawn by a changed phase is
the model's reading (log entry 2). -/
def Obligations.WriteScreenStoresElevenSettings : Prop :=
  ∀ (tag : Byte) (w : ScreenSettings) (s : State), s.free →
    (∀ index, 6 ≤ index → exec (.writeScreen tag index w) s = s.answers tag .badIndex []) ∧
    ∀ (i : ScreenNo) (r : ScreenSettings) (x : Screen), x = s.screens[i] →
      r = { phase := min 47 w.phase, lateLimit := max 48 (min 48000 w.lateLimit),
            earlyLimit := max 48 (min 96000 w.earlyLimit), clockMode := w.clockMode,
            window := max 1 (min 480 w.window), lockN := max 1 (min 255 w.lockN), unlockN := max 1 (min 255 w.unlockN),
            referenceOffset := max (-48000) (min 48000 w.referenceOffset),
            referenceTimeout := max 10 (min 60000 w.referenceTimeout), quota := max 4 (min 64 w.quota),
            meterInterval := min 255 w.meterInterval } →
      let held := r.phase ≠ x.settings.phase ∧
        ((∃ e : EntryNo, s.entries[e].state = .active ∧ s.entries[e].screen = i) ∨ x.playout.mode = .check)
      let keepStandby := r.quota - x.playout.program.length
      (held → exec (.writeScreen tag i.val w) s = s.answers tag .inUse []) ∧
      (¬held → ∃ (t u : State) (next : Nat) (clock : Clock) (notice : Notice),
        exec (.writeScreen tag i.val w) s = t.answers tag (if r = w then .ok else .okClamped) (settingsBytes r) ∧
        (r.phase = x.settings.phase → next = x.playout.nextBoundary) ∧
        (r.phase ≠ x.settings.phase →
          s.wordClock < next ∧ next ≤ s.wordClock + 48 ∧ next % 48 = r.phase) ∧
        (r.clockMode = x.settings.clockMode →
          clock =
            { x.clock with
              slip := max (-(r.window : Int)) (min r.window x.clock.slip)
              inWindow := if r.lockN ≤ x.clock.inWindow then r.lockN - 1 else x.clock.inWindow
              outWindow := if r.unlockN ≤ x.clock.outWindow then r.unlockN - 1 else x.clock.outWindow }) ∧
        (r.clockMode ≠ x.settings.clockMode →
          clock =
            { x.clock with
              state := if r.clockMode = .referenced then .acquiring else .unreferenced
              inWindow := 0, outWindow := 0, slip := 0, sinceReference := 0 }) ∧
        (∀ (e : EntryNo) (freed : Nat),
          freed = (x.playout.standby.drop keepStandby ++ x.playout.program.drop r.quota).countP
            (fun b => b.entry = e) →
          { u.entries[e] with tallies := s.entries[e].tallies } = s.entries[e] ∧
          (∀ k : Fin 13, k ≠ 10 → u.entries[e].tallies[k] = s.entries[e].tallies[k]) ∧
          u.entries[e].tallies[(10 : Fin 13)] =
            if freed = 0 then s.entries[e].tallies[(10 : Fin 13)]
            else min (s.entries[e].tallies[(10 : Fin 13)] + freed) 65535) ∧
        u =
          { s with
            entries := u.entries
            freeSlots := s.freeSlots + (x.playout.program.length - r.quota) + (x.playout.standby.length - keepStandby)
            screens := s.screens.set i.val
              { x with
                settings := r
                playout :=
                  { x.playout with
                    program := x.playout.program.take r.quota
                    standby := x.playout.standby.take keepStandby
                    resync := x.playout.resync ||
                      decide (r.clockMode ≠ x.settings.clockMode ∧ r.clockMode = .selfTimed)
                    nextBoundary := next
                    voidedAt := if r.phase ≠ x.settings.phase ∧ x.playout.nextBoundary = s.wordClock
                      then some s.wordClock else x.playout.voidedAt }
                clock := clock
                meterCount := if r.meterInterval = x.settings.meterInterval then x.meterCount else 0 } i.isLt } ∧
        notice =
          { kind := .clock, screen := i, subject := 0, state := if r.clockMode = .referenced then 1 else 0,
            valueA := 0, valueB := 0, st := s.stNow i } ∧
        (r.clockMode = x.settings.clockMode → t = u) ∧
        (r.clockMode ≠ x.settings.clockMode → t = u.offerNotice notice ∧
          (s.reports.length < 32 → t.reports = s.reports ++ [.notice notice]) ∧
          (32 ≤ s.reports.length → t = u.modScreen i fun y => { y with noticeLost := true })))

/-- R26, R48, R66, R83, R88, R94, R105, R118, R126, R127, R149, R164, R171: what a screen reset leaves and keeps. Its
notices are offered in the order of R171: the CHECK_DONE of a stopped check, with the counts of the table after the stop,
then the CLOCK notice of a changed clock state. That the CHECK_DONE carries ST_now as it stood before the reset is the
model's reading (log entry 13). -/
def Obligations.ScreenResetKeepsTheLoadedSettings : Prop :=
  ∀ (tag : Byte) (s : State), s.free →
    (∀ screen, 6 ≤ screen → exec (.screenReset tag screen) s = s.answers tag .badIndex []) ∧
    ∀ (i : ScreenNo) (x : Screen) (starting : ClockState), x = s.screens[i] →
      starting = (if x.settings.clockMode = .referenced then .acquiring else .unreferenced) →
      ∃ (t u v : State) (y : Screen),
      exec (.screenReset tag i.val) s = t.answers tag .ok [BitVec.ofNat 8 i.val] ∧
      y.settings = x.settings ∧
      y.playout = { x.playout with program := [], standby := [], resync := true, mode := .show } ∧
      (∀ k : Fin 7, y.tallies[k] = 0) ∧
      y.clock =
        { base := 0, elapsed := 0, state := starting, inWindow := 0, outWindow := 0, slip := 0, sinceReference := 0 } ∧
      y.render = x.render ∧ y.level = { x.level with muted := true, fade := none } ∧
      (∀ k : FeedNo,
        y.feeds[k].bankA.map EqSection.coeffs = x.feeds[k].bankA.map EqSection.coeffs ∧
        y.feeds[k].bankB.map EqSection.coeffs = x.feeds[k].bankB.map EqSection.coeffs ∧
        bankAtRest y.feeds[k].bankA ∧ bankAtRest y.feeds[k].bankB ∧ y.feeds[k].active = x.feeds[k].active ∧
        y.feeds[k].trim = x.feeds[k].trim ∧ y.feeds[k].eqSat = 0 ∧ y.feeds[k].hold = 0 ∧
        y.feeds[k].sentOne = x.feeds[k].sentOne ∧ y.feeds[k].sentTwo = x.feeds[k].sentTwo) ∧
      y.signal.noise = 1 ∧ y.signal.tonePhase = 0 ∧ y.signal.pattern = none ∧
      y.signal.check =
        { x.signal.check with
          running := false, count := if x.signal.check.running then none else x.signal.check.count } ∧
      (∀ k : FeedNo, y.signal.results[k] =
        if x.signal.check.running = true ∧
            (x.signal.results[k].state = .running ∨ x.signal.results[k].state = .untested) then
          { x.signal.results[k] with state := .skipped }
        else x.signal.results[k]) ∧
      (∀ l : Fin 2, y.lanes[l] = { x.lanes[l] with miss := 0, seqErrors := 0 }) ∧
      (∀ c : ChannelNo, y.channelHolds[c] = 0) ∧ y.meterCount = 0 ∧
      (∀ k : RecordNo, y.records[k] =
        { state := .normal, run := 0, clear := 0, recorded := none, acked := false, raised := none,
          occurrences := 0 }) ∧
      y.profiles = x.profiles ∧ y.markers = [] ∧ y.noticeLost = x.noticeLost ∧
      (∀ e : EntryNo, v.entries[e] =
        if s.entries[e].screen = i ∧ s.entries[e].state ≠ .unused then
          { s.entries[e] with state := .inactive, lastSeq := none, tallies := Vector.replicate 13 0 }
        else s.entries[e]) ∧
      (∀ n : CueNo, v.cues[n] =
        if s.cues[n].spec.screen = i.val ∧ s.cues[n].state = .disabled then { s.cues[n] with go := false }
        else if s.cues[n].spec.screen = i.val ∧ s.cues[n].state ≠ .empty then
          { s.cues[n] with state := .pending, countdown := none, go := false }
        else s.cues[n]) ∧
      v =
        { s with
          entries := v.entries, cues := v.cues
          freeSlots := s.freeSlots + x.playout.program.length + x.playout.standby.length
          screens := s.screens.set i.val y i.isLt } ∧
      u = (if x.signal.check.running then
        v.offerNotice
          { kind := .checkDone, screen := i, subject := 0, state := 1
            valueA := ((List.finRange 16).filter fun k => y.signal.results[k].state = .pass).length
            valueB := ((List.finRange 16).filter fun k => y.signal.results[k].state = .fail).length
            st := s.stNow i }
        else v) ∧
      t = (if x.clock.state = starting then u
        else u.offerNotice
          { kind := .clock, screen := i, subject := 0, state := if x.settings.clockMode = .referenced then 1 else 0,
            valueA := 0, valueB := 0, st := 0 })

/-! ## Reads -/

/-- R116, R125, R169, R172: READ returns the entry of each table as it stands; LIST_ALARMS, READ_CHECK and READ_SENSE
return what stands; none of them changes anything. The form of the check record in the reply of READ_CHECK is the model's
reading (log entry 8). -/
def Obligations.ReadsAndListsReturnWhatStands : Prop :=
  (∀ (tag : Byte) (s : State), s.free →
    (∀ e : EntryNo, exec (.read tag .stream e.val) s = s.answers tag .ok (streamBytes s.entries[e])) ∧
    (∀ p : PresetNo, exec (.read tag .preset p.val) s = s.answers tag .ok (presetBytes s.presets[p])) ∧
    (∀ (i : ScreenNo) (k : FeedNo),
      exec (.read tag .eqbank (16 * i.val + k.val)) s = s.answers tag .ok (bankBytes s.screens[i].feeds[k].bankA) ∧
      exec (.read tag .eqbank (96 + 16 * i.val + k.val)) s =
        s.answers tag .ok (bankBytes s.screens[i].feeds[k].bankB) ∧
      exec (.read tag .feed (16 * i.val + k.val)) s =
        s.answers tag .ok [BitVec.ofInt 8 s.screens[i].feeds[k].trim]) ∧
    (∀ n : CueNo, exec (.read tag .cue n.val) s = s.answers tag .ok (cueBytes s.cues[n])) ∧
    (∀ (i : ScreenNo) (k : Fin 6),
      exec (.read tag .profile (6 * i.val + k.val)) s = s.answers tag .ok (profileBytes s.screens[i].profiles[k])) ∧
    exec (.read tag .wave 0) s = s.answers tag .ok (waveBytes s.tone) ∧
    (∀ i : ScreenNo, exec (.read tag .screen i.val) s = s.answers tag .ok (settingsBytes s.screens[i].settings)) ∧
    ∀ (table : Table) (index : Nat),
      (match table with
        | .stream => 32 | .preset => 16 | .eqbank => 192 | .cue => 256 | .profile => 36 | .wave => 1 | .screen => 6
        | .feed => 96) ≤ index →
      exec (.read tag table index) s = s.answers tag .badIndex []) ∧
  ∀ (tag : Byte) (s : State), s.free →
    (∀ n, 6 ≤ n → exec (.listAlarms tag n) s = s.answers tag .badIndex [] ∧
      exec (.readCheck tag n) s = s.answers tag .badIndex []) ∧
    (∀ n, 96 ≤ n → exec (.readSense tag n) s = s.answers tag .badIndex []) ∧
    (∀ (i : ScreenNo) (raised : List RecordNo),
      raised = (List.finRange 58).filter (fun k => s.screens[i].records[k].state ≠ .normal) →
      exec (.listAlarms tag i.val) s =
        s.answers tag .ok
          (BitVec.ofNat 8 raised.length ::
            raised.flatMap fun k =>
              twoBytes (BitVec.ofNat 16 (58 * i.val + k.val)) ++ alarmBytes k s.screens[i].records[k])) ∧
    (∀ i : ScreenNo,
      exec (.readCheck tag i.val) s =
        s.answers tag .ok
          (checkBytes s.screens[i].signal.check ++
            (List.finRange 16).flatMap fun k => resultBytes s.screens[i].signal.results[k])) ∧
    ∀ (i : ScreenNo) (l : Fin 2) (j : Fin 8),
      exec (.readSense tag (16 * i.val + 8 * l.val + j.val)) s =
        s.answers tag .ok (senseBytes (2 * i.val + l.val) j s.screens[i].lanes[l].views[j])

/-- R131, R172, R173, R175: READ_STATUS returns the status record and then clears the notice-lost flag; READ_METER returns
ST_now, the clock state and the 24 holds, each in the 4 bytes R4 gives it, and with reset set sets the holds to 0. That
the mute byte of the status record is 1 when muted is the model's reading (log entry 7). -/
def Obligations.StatusAndMeterReadsReturnAndClear : Prop :=
  (∀ (tag : Byte) (s : State), s.free →
    (∀ screen, 6 ≤ screen → exec (.readStatus tag screen) s = s.answers tag .badIndex []) ∧
    ∀ (i : ScreenNo) (x : Screen), x = s.screens[i] →
      exec (.readStatus tag i.val) s =
        (s.modScreen i fun x => { x with noticeLost := false }).answers tag .ok
          (fourBytes (x.clock.base + BitVec.ofNat 32 x.clock.elapsed) ++
            [match x.settings.clockMode with | .referenced => 0 | .selfTimed => 1,
             match x.clock.state with | .unreferenced => 0 | .acquiring => 1 | .locked => 2 | .holdover => 3,
             match x.playout.mode with | .show => 0 | .check => 1,
             BitVec.ofNat 8 x.playout.program.length, BitVec.ofNat 8 x.playout.standby.length] ++
            entryBytes (s.activeEntry i) ++ entryBytes (s.primedEntry i) ++
            selectionBytes x.render.selection ++ selectionBytes (x.render.latched.map LatchedPreset.index) ++
            [BitVec.ofNat 8 x.level.fader] ++
            (match x.level.fade with
              | none => [0]
              | some f => [1, BitVec.ofNat 8 f.target] ++ twoBytes (BitVec.ofNat 16 (f.duration - f.count))) ++
            [if x.level.muted then 1 else 0,
             BitVec.ofNat 8 ((List.finRange 58).filter fun k => x.records[k].state = .normal).length,
             BitVec.ofNat 8 ((List.finRange 58).filter fun k => x.records[k].state = .warning).length,
             BitVec.ofNat 8 ((List.finRange 58).filter fun k => x.records[k].state = .acked).length,
             BitVec.ofNat 8 ((List.finRange 58).filter fun k => x.records[k].state = .action).length,
             if x.noticeLost then 1 else 0])) ∧
  ∀ (tag : Byte) (s : State), s.free →
    (∀ screen reset, 6 ≤ screen → exec (.readMeter tag screen reset) s = s.answers tag .badIndex []) ∧
    ∀ (i : ScreenNo) (x : Screen) (record : List Byte), x = s.screens[i] →
      record = fourBytes (x.clock.base + BitVec.ofNat 32 x.clock.elapsed) ++
        ([match x.clock.state with | .unreferenced => 0 | .acquiring => 1 | .locked => 2 | .holdover => 3] : List Byte) ++
        (List.finRange 16).flatMap (fun k => beNat 4 x.feeds[k].hold) ++
        (List.finRange 8).flatMap (fun c => beNat 4 x.channelHolds[c]) →
      exec (.readMeter tag i.val false) s = s.answers tag .ok record ∧
      ∃ t : State, exec (.readMeter tag i.val true) s = t.answers tag .ok record ∧
        t = s.modScreen i (fun x => { x with feeds := t.screens[i].feeds, channelHolds := t.screens[i].channelHolds }) ∧
        (∀ k : FeedNo, t.screens[i].feeds[k] = { x.feeds[k] with hold := 0 }) ∧
        ∀ c : ChannelNo, t.screens[i].channelHolds[c] = 0

/-- R173: READ_TALLY returns each scope's tallies in order, and with clear set sets them to 0 once read. -/
def Obligations.ReadTallyReturnsAndClears : Prop :=
  ∀ (tag : Byte) (clear : Bool) (s : State), s.free →
    (∀ (scope : TallyScope) (subject : Nat),
      (match scope with | .port => 1 | .entry => 32 | .screen => 6 | .feed => 96 | .lane => 12) ≤ subject →
      exec (.readTally tag subject scope clear) s = s.answers tag .badIndex []) ∧
    exec (.readTally tag 0 .port clear) s =
      { s with portTallies := if clear then Vector.replicate 5 0 else s.portTallies }.answers tag .ok
        (s.portTallies.toList.flatMap fun n => twoBytes (BitVec.ofNat 16 n)) ∧
    (∀ e : EntryNo,
      exec (.readTally tag e.val .entry clear) s =
        (s.modEntry e fun x => { x with tallies := if clear then Vector.replicate 13 0 else x.tallies }).answers tag .ok
          (s.entries[e].tallies.toList.flatMap fun n => twoBytes (BitVec.ofNat 16 n))) ∧
    (∀ i : ScreenNo,
      exec (.readTally tag i.val .screen clear) s =
        (s.modScreen i fun x => { x with tallies := if clear then Vector.replicate 7 0 else x.tallies }).answers tag .ok
          (s.screens[i].tallies.toList.flatMap fun n => twoBytes (BitVec.ofNat 16 n))) ∧
    (∀ (i : ScreenNo) (k : FeedNo),
      exec (.readTally tag (16 * i.val + k.val) .feed clear) s =
        (s.modFeed i k fun f => { f with eqSat := if clear then 0 else f.eqSat }).answers tag .ok
          (twoBytes (BitVec.ofNat 16 s.screens[i].feeds[k].eqSat))) ∧
    (∀ (i : ScreenNo) (l : Fin 2),
      exec (.readTally tag (2 * i.val + l.val) .lane clear) s =
        (s.modScreen i fun x =>
          { x with
            lanes := x.lanes.set l.val
              { x.lanes[l] with
                miss := if clear then 0 else x.lanes[l].miss
                seqErrors := if clear then 0 else x.lanes[l].seqErrors } l.isLt }).answers tag .ok
          (twoBytes (BitVec.ofNat 16 s.screens[i].lanes[l].miss) ++
            twoBytes (BitVec.ofNat 16 s.screens[i].lanes[l].seqErrors)))

/-! ## Frames at the trunk -/

/-- R2, R3, R13, R19: a frame stopped at one of steps 1 to 5 raises its one port tally and changes nothing else. A
delimited frame passes step 1 exactly when it is a whole frame in the form of R1 with its check. -/
def Obligations.StoppedFrameRaisesOnePortTally : Prop :=
  ∀ s : State,
    (∀ bytes : List Byte,
      ¬(∃ kind stream seq body, kind < 16 ∧ stream < 4096 ∧ body.length < 65536 ∧
        bytes = trunkFrame kind stream seq body) →
      exec (.frameArrival bytes) s =
        .next { s with portTallies := s.portTallies.set 0 (min (s.portTallies[0] + 1) 65535) }) ∧
    ∀ (kind stream : Nat) (seq : Byte) (body : List Byte), kind < 16 → stream < 4096 → body.length < 65536 →
      ((kind = 0 ∨ 4 < kind) ∨ (kind ≠ 4 ∧ stream = 0) ∨ (kind = 4 ∧ (stream ≠ 0 ∨ body.length < 5)) →
        exec (.frameArrival (trunkFrame kind stream seq body)) s =
          .next { s with portTallies := s.portTallies.set 1 (min (s.portTallies[1] + 1) 65535) }) ∧
      (1 ≤ kind → kind ≤ 3 → stream ≠ 0 →
        (∀ e : EntryNo, s.entries[e].state ≠ .unused → s.entries[e].number ≠ stream) →
        exec (.frameArrival (trunkFrame kind stream seq body)) s =
          .next { s with portTallies := s.portTallies.set 2 (min (s.portTallies[2] + 1) 65535) }) ∧
      (1 ≤ kind → kind ≤ 3 → stream ≠ 0 → s.sourcesSound →
        (∃ e : EntryNo, s.entries[e].state = .inactive ∧ s.entries[e].number = stream) →
        exec (.frameArrival (trunkFrame kind stream seq body)) s =
          .next { s with portTallies := s.portTallies.set 3 (min (s.portTallies[3] + 1) 65535) })

/-- R7, R13 step 3, R166: a MANAGE frame is the request its envelope carries, handed to the Management Handler. -/
def Obligations.ManageFrameHandsOnItsRequest : Prop :=
  ∀ (s : State) (seq tag kind table i1 i0 : Byte) (args : List Byte), args.length ≤ 65530 →
    exec (.frameArrival (trunkFrame 4 0 seq ([tag, kind, table, i1, i0] ++ args))) s =
      exec (.undefinedRequest tag kind.toNat table.toNat (256 * i1.toNat + i0.toNat) args) s

/-- R5, R6, R14 to R17: a stream frame of a PRIMED or ACTIVE entry is tracked, its body checked, and handed on. -/
def Obligations.StreamFrameIsTrackedAndHandedOn : Prop :=
  ∀ (s u : State) (e : EntryNo) (seq : Byte) (body : List Byte), s.sourcesSound → body.length < 65536 →
    s.entries[e].state = .primed ∨ s.entries[e].state = .active →
    u = (s.modEntry e fun x =>
      { x with
        lastSeq := some seq
        tallies := if x.lastSeq.all (fun q => seq = q + 1) then x.tallies
          else x.tallies.set 1 (min (x.tallies[1] + 1) 65535) }) →
    (body.length < 5 →
      exec (.frameArrival (trunkFrame 2 s.entries[e].number seq body)) s = .next (u.bumpEntry e .short 1)) ∧
    (5 < body.length →
      exec (.frameArrival (trunkFrame 2 s.entries[e].number seq body)) s = .next (u.bumpEntry e .long 1)) ∧
    (∀ (r : ScreenTime) (flags : Byte), body = fourBytes r ++ [flags] →
      exec (.frameArrival (trunkFrame 2 s.entries[e].number seq body)) s =
        .next (if s.entries[e].state = .primed then u.bumpEntry e .refIgnored 1
          else u.judgeReference e r (flags.getLsbD 0))) ∧
    (body.length < 6 →
      exec (.frameArrival (trunkFrame 3 s.entries[e].number seq body)) s = .next (u.bumpEntry e .short 1)) ∧
    (6 < body.length →
      exec (.frameArrival (trunkFrame 3 s.entries[e].number seq body)) s = .next (u.bumpEntry e .long 1)) ∧
    (∀ (pt : ScreenTime) (code : BitVec 16), body = fourBytes pt ++ twoBytes code →
      exec (.frameArrival (trunkFrame 3 s.entries[e].number seq body)) s =
        .next (if s.entries[e].state = .primed then u
          else u.placeMarker s.entries[e].screen s.entries[e].timing { pt := pt, code := code.toNat })) ∧
    (∀ n : Nat, n = (body.getD 5 0).toNat →
      (body.length < 6 ∨ (1 ≤ n ∧ n ≤ 8 ∧ body.length < 6 + 144 * n) →
        exec (.frameArrival (trunkFrame 1 s.entries[e].number seq body)) s = .next (u.bumpEntry e .short 1)) ∧
      (6 ≤ body.length → (n < 1 ∨ 8 < n) ∨ (body.length = 6 + 144 * n ∧ n ≠ s.entries[e].channels) →
        exec (.frameArrival (trunkFrame 1 s.entries[e].number seq body)) s = .next (u.bumpEntry e .format 1)) ∧
      (1 ≤ n → n ≤ 8 → 6 + 144 * n < body.length →
        exec (.frameArrival (trunkFrame 1 s.entries[e].number seq body)) s = .next (u.bumpEntry e .long 1)) ∧
      (∀ (pt : ScreenTime) (present : Byte) (data : List Byte), 1 ≤ n → n ≤ 8 → n = s.entries[e].channels →
        data.length = 144 * n → body = fourBytes pt ++ [present, BitVec.ofNat 8 n] ++ data →
        ∃ b : Block,
          exec (.frameArrival (trunkFrame 1 s.entries[e].number seq body)) s = .next (u.offerBlock e b) ∧
          b.pt = pt ∧ b.present = present ∧ b.channels = n ∧ b.entry = e ∧ b.samples.length = n ∧
          ∀ c t k, c < n → t < 48 → k = 3 * (t * n + c) →
            (b.samples.getD c []).length = 48 ∧
            (b.samples.getD c []).getD t 0 =
              (match s.entries[e].order with
                | .msbFirst => (data.getD k 0 ++ data.getD (k + 1) 0 ++ data.getD (k + 2) 0).toInt
                | .lsbFirst => (data.getD (k + 2) 0 ++ data.getD (k + 1) 0 ++ data.getD k 0).toInt)))

/-! ## Offers, references, markers -/

/-- R28 to R32: the four tests of an offer in their order, and the place of a block that passes. -/
def Obligations.OfferIsJudgedByFourTests : Prop :=
  ∀ (s : State) (e : EntryNo) (b : Block) (x : StreamEntry) (y : Screen) (queue : List Block),
    x = s.entries[e] → y = s.screens[x.screen] → (x.state = .active ∨ x.state = .primed) →
    queue = (if x.state = .active then y.playout.program else y.playout.standby) →
    let full := y.settings.quota ≤ y.playout.program.length + y.playout.standby.length
    let duplicate := x.timing = .timed ∧ ∃ q ∈ queue, q.pt = b.pt
    let stale := x.timing = .timed ∧ ¬(y.settings.clockMode = .selfTimed ∧ y.playout.resync = true) ∧
      (y.settings.lateLimit : Int) < signedDiff (s.stNow x.screen) b.pt
    (s.freeSlots = 0 → s.offerBlock e b = s.bumpEntry e .poolDrop 1) ∧
    (s.freeSlots ≠ 0 → full → s.offerBlock e b = s.bumpEntry e .quotaDrop 1) ∧
    (s.freeSlots ≠ 0 → ¬full → duplicate → s.offerBlock e b = s.bumpEntry e .duplicate 1) ∧
    (s.freeSlots ≠ 0 → ¬full → ¬duplicate → stale → s.offerBlock e b = s.bumpEntry e .stale 1) ∧
    (s.freeSlots ≠ 0 → ¬full → ¬duplicate → ¬stale → ∃ before after : List Block,
      queue = before ++ after ∧ (x.timing = .arrival → after = []) ∧
      (x.timing = .timed → (∀ q ∈ before, ¬0 < signedDiff q.pt b.pt) ∧
        ∀ q, after.head? = some q → 0 < signedDiff q.pt b.pt) ∧
      s.offerBlock e b =
        State.bumpEntry e .accepted 1
          { s with
            freeSlots := s.freeSlots - 1
            screens := s.screens.set x.screen.val
              { y with
                playout :=
                  if x.state = .active then { y.playout with program := before ++ b :: after }
                  else { y.playout with standby := before ++ b :: after } } x.screen.isLt })

/-- R51, R56 to R60, R64, R161, R175: the decision on a reference in each clock state, the clock it leaves, and its
notice. Where it steps, the tallies and the cues are those of the step by d (`BackwardStepRearmsCues`): STEP raised,
and cues rearmed when d < 0. Where it does not, both stand. -/
def Obligations.ReferenceIsDecidedByTheClockState : Prop :=
  ∀ (s t : State) (e : EntryNo) (r : ScreenTime) (jump : Bool) (i : ScreenNo) (x : Screen) (d : Int) (c : Clock),
    i = s.entries[e].screen → x = s.screens[i] →
    d = signedDiff (r + BitVec.ofInt 32 x.settings.referenceOffset) (s.stNow i) →
    c = { x.clock with sinceReference := 0 } → t = s.judgeReference e r jump →
    let within := d.natAbs ≤ x.settings.window
    let stepped := c.base + BitVec.ofInt 32 d
    let lost : Clock := { c with base := stepped, state := .acquiring, inWindow := 0, outWindow := 0, slip := 0 }
    let steps := t.cues = (s.stepClock i d).cues ∧ t.screens[i].tallies = (s.stepClock i d).screens[i].tallies
    let stands := t.cues = s.cues ∧ t.screens[i].tallies = x.tallies
    (x.clock.state = .unreferenced → t = s.bumpEntry e .refIgnored 1) ∧
    (x.clock.state ≠ .unreferenced → d = -2147483648 → t = s.bumpScreen i .refBad) ∧
    (x.clock.state ≠ .unreferenced → d ≠ -2147483648 →
      (∀ j : ScreenNo, j ≠ i → t.screens[j] = s.screens[j]) ∧
      t = { s with
        screens := t.screens, cues := t.cues, reports := t.reports, sendingSeq := t.sendingSeq, upSeq := t.upSeq } ∧
      t.screens[i] =
        { x with
          clock := t.screens[i].clock, tallies := t.screens[i].tallies, noticeLost := t.screens[i].noticeLost } ∧
      (0 ≤ d → t.cues = s.cues) ∧
      (jump = true → steps ∧ State.clockOutcome i s t
        { c with base := stepped, inWindow := 0, outWindow := 0, slip := 0,
                 state := if c.state = .holdover then .locked else c.state } (some d)) ∧
      (jump = false → c.state = .acquiring → within → c.inWindow + 1 < x.settings.lockN →
        stands ∧ State.clockOutcome i s t { c with inWindow := c.inWindow + 1 } none) ∧
      (jump = false → c.state = .acquiring → within → x.settings.lockN ≤ c.inWindow + 1 →
        stands ∧ State.clockOutcome i s t { c with state := .locked, inWindow := 0, outWindow := 0 } (some 0)) ∧
      (jump = false → c.state = .acquiring → ¬within →
        steps ∧ State.clockOutcome i s t { c with base := stepped, inWindow := 0 } (some d)) ∧
      (jump = false → c.state = .locked → within →
        stands ∧ State.clockOutcome i s t { c with slip := d, outWindow := 0 } none) ∧
      (jump = false → c.state = .locked → ¬within → c.outWindow + 1 < x.settings.unlockN →
        stands ∧ State.clockOutcome i s t { c with outWindow := c.outWindow + 1 } none) ∧
      (jump = false → c.state = .locked → ¬within → x.settings.unlockN ≤ c.outWindow + 1 →
        steps ∧ State.clockOutcome i s t lost (some d)) ∧
      (jump = false → c.state = .holdover → within →
        stands ∧
          State.clockOutcome i s t { c with state := .locked, slip := d, inWindow := 0, outWindow := 0 } (some 0)) ∧
      (jump = false → c.state = .holdover → ¬within → steps ∧ State.clockOutcome i s t lost (some d)))

/-- R153: the judgement of a marker at its arrival and its place in the list. -/
def Obligations.MarkerIsJudgedAtArrival : Prop :=
  ∀ (s : State) (i : ScreenNo) (mode : TimingMode) (m : Marker) (x : Screen), x = s.screens[i] →
    let stale := mode = .timed ∧ ¬(x.settings.clockMode = .selfTimed ∧ x.playout.resync = true) ∧
      (x.settings.lateLimit : Int) < signedDiff (s.stNow i) m.pt
    (stale → s.placeMarker i mode m = s.bumpScreen i .markerStale) ∧
    (¬stale → 8 ≤ x.markers.length → s.placeMarker i mode m = s.bumpScreen i .markerDrop) ∧
    (¬stale → x.markers.length < 8 → ∃ before after : List Marker,
      x.markers = before ++ after ∧ (∀ q ∈ before, ¬0 < signedDiff q.pt m.pt) ∧
      (∀ q, after.head? = some q → 0 < signedDiff q.pt m.pt) ∧
      s.placeMarker i mode m = s.modScreen i fun x => { x with markers := before ++ m :: after })

/-! ## The block boundary -/

/-- R35, R49, R50, R61, R72, R98, R106, R107, R121, R130: what every boundary advances, when no resync is due: it
raises the blocks-since-reference count outside UNREFERENCED, and a LOCKED clock whose count so reaches the timeout
falls to HOLDOVER (its CLOCK notice is in `EscalationFollowsItsTable`). A boundary that a phase write withdrew at this
count changes nothing (R35, log entry 2). At every other boundary, a due resync or not: R98: at the cue stage k of a
fade has risen by 1 and its start, target and duration stand, and at k = D the record is absent. R84, R87, R88, R90,
R91: what a boundary leaves of a feed's banks, histories, active bank and EQ_SAT is what its equaliser makes of the
block's input words; its trim stands. -/
def Obligations.BoundaryAdvancesTheScreen : Prop :=
  ∀ (s : State) (i : ScreenNo) (x : Screen) (blocks : Nat), x = s.screens[i] →
    blocks = (if x.clock.state = .unreferenced then 0 else min (x.clock.sinceReference + 1) 65535) →
    (x.playout.voidedAt = some s.wordClock → exec (.blockBoundary i) s = .next s) ∧
    (x.playout.voidedAt ≠ some s.wordClock →
      ¬(x.settings.clockMode = .selfTimed ∧ x.playout.resync = true ∧ x.playout.program ≠ []) →
      ∃ (t : State) (y : Screen), exec (.blockBoundary i) s = .next t ∧ y = t.screens[i] ∧
        y.clock.base =
          x.clock.base + (if 0 < x.clock.slip then 49 else if x.clock.slip < 0 then 47 else 48) ∧
        (x.clock.state = .locked → x.settings.referenceTimeout ≤ blocks → y.clock =
          { base := y.clock.base, elapsed := 0, state := .holdover, inWindow := 0, outWindow := 0, slip := 0,
            sinceReference := blocks }) ∧
        (¬(x.clock.state = .locked ∧ x.settings.referenceTimeout ≤ blocks) → y.clock =
          { x.clock with
            base := y.clock.base
            elapsed := 0
            slip := if 0 < x.clock.slip then x.clock.slip - 1 else if x.clock.slip < 0 then x.clock.slip + 1 else 0
            sinceReference := blocks }) ∧
        y.tallies[(3 : Fin 7)] =
          (if x.clock.slip = 0 then x.tallies[(3 : Fin 7)] else min (x.tallies[(3 : Fin 7)] + 1) 65535) ∧
        s.wordClock < y.playout.nextBoundary ∧ y.playout.nextBoundary ≤ s.wordClock + 48 ∧
        y.playout.nextBoundary % 48 = x.settings.phase % 48 ∧
        y.render.latched = x.render.selection.map (fun p => { index := p, preset := s.presets[p] }) ∧
        (x.level.fade = none → y.level.fader = x.level.fader) ∧
        (∀ f, x.level.fade = some f → f.count + 1 < f.duration →
          y.level.fader =
            ((f.start : Int) + Int.tdiv (((f.target : Int) - f.start) * (f.count + 1)) f.duration).toNat) ∧
        (∀ f, x.level.fade = some f → f.duration ≤ f.count + 1 → y.level.fader = f.target) ∧
        y.signal.noise = (List.range 48).foldl (fun r _ => noiseStep r) x.signal.noise ∧
        y.signal.tonePhase = x.signal.tonePhase + 16 ∧
        (∀ l : Fin 2, y.lanes[l].nextCount = x.lanes[l].nextCount + 1 ∧
          ∃ r : LaneRecord, y.lanes[l].transmit.getLast? = some r ∧ r.count = x.lanes[l].nextCount) ∧
        (∀ k : FeedNo, y.feeds[k].sentTwo = x.feeds[k].sentOne ∧ y.feeds[k].active = x.level.requested) ∧
        y.settings = x.settings ∧ y.profiles = x.profiles) ∧
    (x.playout.voidedAt ≠ some s.wordClock →
      ∃ u t : State, s.reachesCues i u ∧ exec (.blockBoundary i) s = .next t ∧
        (x.level.fade = none → u.screens[i].level = x.level) ∧
        (∀ f, x.level.fade = some f → f.count + 1 < f.duration → u.screens[i].level =
          { x.level with
            fader := ((f.start : Int) + Int.tdiv (((f.target : Int) - f.start) * (f.count + 1)) f.duration).toNat
            fade := some { start := f.start, target := f.target, duration := f.duration, count := f.count + 1 } }) ∧
        (∀ f, x.level.fade = some f → f.duration ≤ f.count + 1 →
          u.screens[i].level = { x.level with fader := f.target, fade := none }) ∧
        ∀ (k : FeedNo) (f g : Feed), f = x.feeds[k] → g = t.screens[i].feeds[k] →
          let e := (f.equalise x.level.requested
            (s.feedWords i k (s.selectionAt i t.screens[i].clock.base).played)).1
          g =
            { bankA := e.bankA, bankB := e.bankB, active := e.active, trim := f.trim, eqSat := e.eqSat
              hold := g.hold, sentOne := g.sentOne, sentTwo := f.sentOne })

/-- R39, R44, R51, R64: a resync that is due sets ST to the PT of the head, which plays; the change is a step when the
two differ. A step's CLOCK notice, with state UNREFERENCED and the step amount, is the first frame the boundary offers;
a resync that is no step offers none. R44, R161: the cues the cue stage meets are those a step by d from the advanced
ST leaves (`BackwardStepRearmsCues`): rearmed when it is backward, as they were otherwise. -/
def Obligations.DueResyncTakesTheHeadsTime : Prop :=
  ∀ (s : State) (i : ScreenNo) (x : Screen) (b : Block) (rest : List Block) (advanced : ScreenTime), x = s.screens[i] →
    x.playout.voidedAt ≠ some s.wordClock → x.settings.clockMode = .selfTimed → x.playout.resync = true →
    x.playout.program = b :: rest → 48 ≤ x.settings.lateLimit →
    advanced = x.clock.base + BitVec.ofNat 32 x.clock.advance →
    ∃ u t : State, s.reachesCues i u ∧ exec (.blockBoundary i) s = .next t ∧ t.screens[i].clock.base = b.pt ∧
      t.screens[i].clock.elapsed = 0 ∧ t.screens[i].playout.resync = false ∧
      t.screens[i].tallies[(2 : Fin 7)] =
        (if b.pt = advanced then x.tallies[(2 : Fin 7)] else min (x.tallies[(2 : Fin 7)] + 1) 65535) ∧
      u.cues = ((s.modClock i fun c => { c with base := advanced, elapsed := 0 }).stepClock i
        (signedDiff b.pt advanced)).cues ∧
      (0 ≤ signedDiff b.pt advanced → u.cues = s.cues) ∧
      (s.clocksSound → ∃ more : List UpFrame, t.reports = s.reports ++ more ∧
        (b.pt ≠ advanced → s.reports.length < 32 → more.head? = some (.notice
          { kind := .clock, screen := i, subject := 0, state := 0, valueA := 0, valueB := signedDiff b.pt advanced,
            st := b.pt })) ∧
        (b.pt ≠ advanced → 32 ≤ s.reports.length → t.screens[i].noticeLost = true) ∧
        (b.pt = advanced → ∀ n, UpFrame.notice n ∈ more → n.kind ≠ .clock))

/-- R41, R42, R43: selection by the head's lateness L = T - PT, for limits of at least 48. -/
def Obligations.SelectionFollowsTheTable : Prop :=
  ∀ (t : ScreenTime) (late early : Int) (b : Block) (rest : List Block) (l : Int), 48 ≤ late → 48 ≤ early →
    l = signedDiff t b.pt →
    (∀ mode, selectBlock mode t late early [] =
      { decision := .underrun, played := none, rest := [], stale := 0, farEarly := 0 }) ∧
    selectBlock .arrival t late early (b :: rest) =
      { decision := .onTime, played := some b, rest := rest, stale := 0, farEarly := 0 } ∧
    (-24 ≤ l → l ≤ 23 → selectBlock .timed t late early (b :: rest) =
      { decision := .onTime, played := some b, rest := rest, stale := 0, farEarly := 0 }) ∧
    (24 ≤ l → l ≤ late → selectBlock .timed t late early (b :: rest) =
      { decision := .latePlay, played := some b, rest := rest, stale := 0, farEarly := 0 }) ∧
    (-early ≤ l → l < -24 → selectBlock .timed t late early (b :: rest) =
      { decision := .wait, played := none, rest := b :: rest, stale := 0, farEarly := 0 }) ∧
    (late < l → selectBlock .timed t late early (b :: rest) =
      { selectBlock .timed t late early rest with stale := (selectBlock .timed t late early rest).stale + 1 }) ∧
    (l < -early → selectBlock .timed t late early (b :: rest) =
      { selectBlock .timed t late early rest with farEarly := (selectBlock .timed t late early rest).farEarly + 1 })

/-- R27, R28, R36, R41, R42, R45: what a selection leaves: its queue, its slots, its tallies, and the resync flag; and
the standby pruning. R39: a boundary carries both out on the state its clock leaves, with its T: the selection first,
then the pruning, whose queues, slots and tallies reach the cue stage. Pruning reads the resync flag as it stands after
the selection, which is the model's choice (log entry 11). A resync that is due sets T to the head's PT and clears the
flag before the selection (R44). -/
def Obligations.SelectionAndPruningChargeTheEntries : Prop :=
  (∀ (s t : State) (i : ScreenNo) (r : Selection) (x : Screen), x = s.screens[i] →
    t = s.applySelection i (s.activeEntry i) r →
    t.freeSlots = s.freeSlots + (x.playout.program.length - r.rest.length) ∧
    t.screens[i].playout =
      { x.playout with
        program := r.rest
        resync := x.playout.resync || decide (x.settings.clockMode = .selfTimed ∧ 0 < r.stale + r.farEarly) } ∧
    (∀ j : ScreenNo, j ≠ i → t.screens[j] = s.screens[j]) ∧
    (∀ e : EntryNo, s.activeEntry i ≠ some e → t.entries[e] = s.entries[e]) ∧
    (∀ e : EntryNo, s.activeEntry i = some e →
      t.entries[e].tallies =
        ((s.entries[e].tallies.set 6 (min (s.entries[e].tallies[6] + r.stale) 65535)).set 8
          (min (s.entries[e].tallies[8] + r.farEarly) 65535)).set 7
          (if r.decision = .latePlay then min (s.entries[e].tallies[7] + 1) 65535 else s.entries[e].tallies[7])) ∧
    t.screens[i].tallies =
      (x.tallies.set 0
        (if r.decision = .underrun ∧ (s.activeEntry i).isSome then min (x.tallies[0] + 1) 65535 else x.tallies[0])).set 1
        (if r.decision = .wait then min (x.tallies[1] + 1) 65535 else x.tallies[1])) ∧
  (∀ (s t : State) (i : ScreenNo) (x : Screen), x = s.screens[i] → t = s.pruneStandby i →
    (∀ (e : EntryNo) (kept : List Block), s.primedEntry i = some e → s.entries[e].timing = .timed →
      ¬(x.settings.clockMode = .selfTimed ∧ x.playout.resync = true) →
      kept = x.playout.standby.filter (fun b => signedDiff x.clock.base b.pt ≤ (x.settings.lateLimit : Int)) →
      t = (({ s with freeSlots := s.freeSlots + (x.playout.standby.length - kept.length) } : State).modScreen i fun x =>
        { x with playout := { x.playout with standby := kept } }).bumpEntry e .pruned
        (x.playout.standby.length - kept.length)) ∧
    (∀ e : EntryNo, s.primedEntry i = some e → s.entries[e].timing = .arrival → t = s) ∧
    (x.settings.clockMode = .selfTimed → x.playout.resync = true → t = s) ∧
    (s.primedEntry i = none → x.playout.standby = [] → t = s)) ∧
  ∀ (s : State) (i : ScreenNo) (x : Screen), x = s.screens[i] → x.playout.voidedAt ≠ some s.wordClock →
    let due := x.settings.clockMode = .selfTimed ∧ x.playout.resync = true ∧ x.playout.program ≠ []
    ∃ (a p u : State), s.reachesCues i u ∧
      a.entries = s.entries ∧ a.freeSlots = s.freeSlots ∧ a.screens[i].settings = x.settings ∧
      a.screens[i].playout =
        { x.playout with
          resync := x.playout.resync && decide ¬due
          nextBoundary := u.screens[i].playout.nextBoundary } ∧
      (∀ n : Fin 7, n ≠ 2 → n ≠ 3 → a.screens[i].tallies[n] = x.tallies[n]) ∧
      a.screens[i].clock = u.screens[i].clock ∧
      (¬due → a.screens[i].clock.base = x.clock.base + BitVec.ofNat 32 x.clock.advance) ∧
      (∀ b rest, due → x.playout.program = b :: rest → a.screens[i].clock.base = b.pt) ∧
      p = (a.applySelection i (s.activeEntry i) (s.selectionAt i a.screens[i].clock.base)).pruneStandby i ∧
      u.entries = p.entries ∧ u.freeSlots = p.freeSlots ∧ u.screens[i].tallies = p.screens[i].tallies ∧
      u.screens[i].playout = { p.screens[i].playout with mode := u.screens[i].playout.mode }

/-- R101, R102, R104, R121: a boundary of a muted screen in SHOW sends only 0 on both lanes; a boundary in CHECK sends
only 0 on every feed that is not under test. Outside silence, feed k latches G = trim + fader code - reduction in SHOW,
the factor 0 below -160 and +24 above it, and trim - reduction under test; record 10 + k holds its reduction and record
42 + k its feed mute. R84, R103, R104, R121: the samples of feed k in the record a boundary queues are the words of
`State.gainedWords` clamped to the sample range: the latched gain over what the feed's banks make of its input words,
which are those of the render of the block the selection at T plays, or the pattern's. R38: what stage 1 latches. -/
def Obligations.MutedScreenAndUntestedFeedsSendSilence : Prop :=
  (∀ (s : State) (i : ScreenNo) (x : Screen), x = s.screens[i] → x.playout.voidedAt ≠ some s.wordClock →
    ∃ t : State, exec (.blockBoundary i) s = .next t ∧
      ∀ k : FeedNo, ∃ r : LaneRecord,
        t.screens[i].lanes[feedSide k].transmit.getLast? = some r ∧
        (x.playout.mode = .show → x.level.muted = true → ∀ v ∈ r.samples[feedSlot k], v = 0) ∧
        (x.playout.mode = .check → x.signal.check.running = true →
          (∀ position, x.signal.check.blockAt x.signal.check.nextCount ≠ .dwell position k) →
          ∀ v ∈ r.samples[feedSlot k], v = 0)) ∧
  (∀ (x : Screen) (k : FeedNo) (overload fault : RecordNo) (g : Int) (reduction : Nat), overload.val = 10 + k.val →
    fault.val = 42 + k.val →
    (∀ a, x.records[overload].state = .action → x.records[overload].recorded = some { action := .reduce, amount := a } →
      reduction = a) →
    (¬(x.records[overload].state = .action ∧
      ∃ a, x.records[overload].recorded = some { action := .reduce, amount := a }) → reduction = 0) →
    let feedMuted := x.records[fault].state = .action ∧
      ∃ a, x.records[fault].recorded = some { action := .muteFeed, amount := a }
    (x.playout.mode = .show → x.level.muted = true ∨ x.level.fader = 0 ∨ feedMuted → x.latchGain k = none) ∧
    (∀ code, x.playout.mode = .show → x.level.muted = false → ¬feedMuted → faderCode x.level.fader = some code →
      g = x.feeds[k].trim + code - reduction → x.latchGain k = if g < -160 then none else some (min 24 g)) ∧
    (∀ position, x.playout.mode = .check → x.signal.checkBlock = some (.dwell position k) →
      (feedMuted → x.latchGain k = none) ∧
      (¬feedMuted → x.latchGain k = some (x.feeds[k].trim - reduction))) ∧
    (x.playout.mode = .check → (∀ position, x.signal.checkBlock ≠ some (.dwell position k)) → x.latchGain k = none)) ∧
  (∀ (s : State) (i : ScreenNo), s.screens[i].playout.voidedAt ≠ some s.wordClock →
    ∃ t : State, exec (.blockBoundary i) s = .next t ∧
      ∀ k : FeedNo, ∃ r : LaneRecord, t.screens[i].lanes[feedSide k].transmit.getLast? = some r ∧
        r.samples[feedSlot k] = (s.gainedWords i k (s.selectionAt i t.screens[i].clock.base).played).map fun v =>
          max (-8388608) (min 8388607 v)) ∧
  ∀ (s : State) (i : ScreenNo) (x y : Screen) (l : Latched), x = s.screens[i] → y = s.latchedScreen i →
    l = y.latchSettings →
    l.mode = x.playout.mode ∧ l.pattern = x.signal.pattern ∧ l.muted = x.level.muted ∧ y.playout = x.playout ∧
    y.feeds = x.feeds ∧ y.level.muted = x.level.muted ∧
    l.checkBlock =
      (if x.signal.check.running = true then some (x.signal.check.blockAt x.signal.check.nextCount) else none) ∧
    y.signal.checkBlock = l.checkBlock ∧ (∀ k : FeedNo, l.gains[k] = y.latchGain k) ∧
    ∀ c : ChannelNo, l.filled[c] = y.filled c

/-- Screens do not disturb one another (00_scope, R37): a boundary of screen i leaves every other screen, every stream
entry and cue of another screen, and every shared table as it was. -/
def Obligations.BoundaryLeavesOtherScreensAlone : Prop :=
  ∀ (s : State) (i : ScreenNo), s.cuesSound → ∃ t : State, exec (.blockBoundary i) s = .next t ∧
    (∀ j : ScreenNo, j ≠ i → t.screens[j] = s.screens[j]) ∧
    (∀ e : EntryNo, s.entries[e].screen ≠ i → t.entries[e] = s.entries[e]) ∧
    (∀ n : CueNo, s.cues[n].spec.screen ≠ i.val → t.cues[n] = s.cues[n]) ∧
    (∀ n : CueNo, t.cues[n].spec = s.cues[n].spec) ∧
    t = { s with
      screens := t.screens, entries := t.entries, cues := t.cues, freeSlots := t.freeSlots, reports := t.reports
      sendingSeq := t.sendingSeq, upSeq := t.upSeq }

/-- R120, R123: the outcome a boundary hands over on each lane: the return of the block two before the one it sends. -/
def Obligations.BoundaryHandsOverTheReturnTwoBack : Prop :=
  ∀ (s : State) (i : ScreenNo) (l : Fin 2) (x y : Lane), s.lanesSound →
    s.screens[i].playout.voidedAt ≠ some s.wordClock → x = s.screens[i].lanes[l] →
    ∃ t : State, exec (.blockBoundary i) s = .next t ∧ (y = t.screens[i].lanes[l] →
      (x.awaiting.length < 2 → y.miss = x.miss ∧
        y.awaiting = x.awaiting ++ [{ count := x.nextCount, slot := none }] ∧
        ∀ j : Fin 8, y.views[j] = { x.views[j] with outcome := .none, outcomeCount := none }) ∧
      (∀ a rest, x.awaiting = a :: rest → x.awaiting.length = 2 →
        y.awaiting = rest ++ [{ count := x.nextCount, slot := none }] ∧
        (a.slot = none → y.miss = min (x.miss + 1) 65535 ∧
          ∀ j : Fin 8, y.views[j] = { x.views[j] with outcome := .lost, outcomeCount := some (x.nextCount - 2) }) ∧
        (∀ v, a.slot = some v → y.miss = x.miss ∧ ∀ j : Fin 8, y.views[j] =
          { outcome := .received, outcomeCount := some (x.nextCount - 2),
            last := some { count := x.nextCount - 2, reading := v[j] } })))

/-! ## Events within a boundary, taken as commands (log entry 3) -/

/-- The model's choice of log entry 3 for these two rows: each carries out its piece of the boundary when it is due and
otherwise changes nothing. R61: the block that brings a LOCKED clock's count to the timeout drops it to HOLDOVER. R98:
the advance at which k reaches D sets the fader to ft and ends the fade. -/
def Obligations.FadeEndAndReferenceTimeoutFallDue : Prop :=
  (∀ (s : State) (i : ScreenNo) (x : Screen) (n : Nat), x = s.screens[i] → n = min (x.clock.sinceReference + 1) 65535 →
    (x.clock.state = .locked → x.settings.referenceTimeout ≤ n → ∃ t : State,
      exec (.referenceTimeout i) s = .next t ∧
      State.clockOutcome i s t
        { x.clock with state := .holdover, slip := 0, inWindow := 0, outWindow := 0, sinceReference := n } (some 0) ∧
      State.sameBut i s t) ∧
    (¬(x.clock.state = .locked ∧ x.settings.referenceTimeout ≤ n) → exec (.referenceTimeout i) s = .next s)) ∧
  ∀ (s : State) (i : ScreenNo),
    (∀ f, s.screens[i].level.fade = some f → f.duration ≤ f.count + 1 →
      exec (.fadeEnd i) s =
        .next (s.modScreen i fun x => { x with level := { x.level with fader := f.target, fade := none } })) ∧
    ((∀ f, s.screens[i].level.fade = some f → f.count + 1 < f.duration) → exec (.fadeEnd i) s = .next s)

/-- The model's choice of log entry 3 for these two rows, that their frames carry ST_now included. R131, R132, R174:
the block that brings the meter count to 100i builds a METER frame: placed, and the holds set to 0, or dropped, and the
holds kept; the count is 0 in both cases. R115: at the closing block the last feed of the list is decided and the check
ends. Before that nothing changes. R113 to R115, within a boundary: stage 1 counts the check block and marks the feed
at its first dwell block; stage 6 of block n counts the return of the dwell block two before it, decides the feed whose
last dwell block that was, and at the closing block ends the check. The last two clauses say that a boundary does so,
between the noise and tone of its stage 3 (R106, R107) and its cue stage, with the outcomes its lanes hand over (R123),
and what its stage 5 does: R130: the sent peak of a feed, taken after the clamp, becomes the latest, and the one before
it moves back; R131: every hold rises to its block's peak, for a channel before fill; R132: the meter count rises by 1
where the interval is above 0, and at 100i the frame with the holds so raised is offered. R129: a block's peak is its
greatest magnitude. -/
def Obligations.MeterAndCheckFallDue : Prop :=
  (∀ (s : State) (i : ScreenNo) (x : Screen), s.reportsSound → x = s.screens[i] →
    let due := 0 < x.settings.meterInterval ∧ 100 * x.settings.meterInterval ≤ x.meterCount + 1
    (¬due → exec (.meterDue i) s = .next s) ∧
    (due → s.reports.length = 32 →
      exec (.meterDue i) s = .next (s.modScreen i fun x => { x with meterCount := 0 })) ∧
    (due → s.reports.length < 32 → ∃ (t : State) (m : MeterFrame),
      exec (.meterDue i) s = .next t ∧ m.screen = i ∧ m.st = s.stNow i ∧ m.clock = x.clock.state ∧
      (∀ k : FeedNo, m.feeds[k] = x.feeds[k].hold) ∧ m.channels = x.channelHolds ∧
      t = (s.placed (.meter m)).modScreen i (fun x =>
        { x with feeds := t.screens[i].feeds, channelHolds := t.screens[i].channelHolds, meterCount := 0 }) ∧
      (∀ k : FeedNo, t.screens[i].feeds[k] = { x.feeds[k] with hold := 0 }) ∧
      ∀ c : ChannelNo, t.screens[i].channelHolds[c] = 0)) ∧
  (∀ (s : State) (i : ScreenNo) (g : Signal), g = s.screens[i].signal →
    let closes := g.check.running = true ∧ ∃ n, g.check.count = some n ∧
      g.check.feeds.length * (g.check.spec.dwell + 1) ≤ n + 1
    (¬closes → exec (.checkComplete i) s = .next s) ∧
    (closes → ∃ (t : State) (results : Vector ResultEntry 16), exec (.checkComplete i) s = .next t ∧
      (∀ k : FeedNo, results[k] =
        if g.check.feeds.getLast? = some k then
          { g.results[k] with state := if g.check.spec.passCount ≤ g.results[k].hits then .pass else .fail }
        else g.results[k]) ∧
      t = (s.modScreen i fun x =>
        { x with
          playout := { x.playout with mode := .show }
          signal :=
            { g with check := { g.check with running := false, count := none }, results := results } }).offerNotice
        { kind := .checkDone, screen := i, subject := 0, state := 0
          valueA := ((List.finRange 16).filter fun k => results[k].state = .pass).length
          valueB := ((List.finRange 16).filter fun k => results[k].state = .fail).length
          st := s.stNow i })) ∧
  (∀ (c : CheckRecord) (n span : Nat), span = c.spec.dwell + 1 →
    (∀ k, n < c.feeds.length * span → n % span < c.spec.dwell → c.feeds[n / span]? = some k →
      c.blockAt n = .dwell (n / span) k) ∧
    (n < c.feeds.length * span → n % span = c.spec.dwell → c.blockAt n = .gap) ∧
    (c.feeds.length * span ≤ n → c.blockAt n = .closing)) ∧
  (∀ (g : Signal) (n : Nat), n = (match g.check.count with | none => 0 | some m => m + 1) →
    (g.check.running = false → g.countCheck = g) ∧
    (g.check.running = true → ∃ results : Vector ResultEntry 16,
      g.countCheck = { g with check := { g.check with count := some n }, results := results } ∧
      ∀ k : FeedNo,
        (∀ position, g.check.blockAt n = .dwell position k → n % (g.check.spec.dwell + 1) = 0 →
          results[k] = { g.results[k] with state := .running }) ∧
        (¬(n % (g.check.spec.dwell + 1) = 0 ∧ ∃ position, g.check.blockAt n = .dwell position k) →
          results[k] = g.results[k]))) ∧
  (∀ (s : State) (i : ScreenNo) (handed : Vector Handed 2) (g : Signal), g = s.screens[i].signal →
    (g.check.running = false ∨ g.check.count = none → s.checkStage i handed = s) ∧
    ∀ n, g.check.running = true → g.check.count = some n →
      ∃ counted results : Vector ResultEntry 16,
        (∀ k : FeedNo,
          (∀ position v, 2 ≤ n → g.check.blockAt (n - 2) = .dwell position k → feedReturn handed k = .received v →
            counted[k] =
              { g.results[k] with
                hits := g.results[k].hits +
                  (if g.check.spec.returnFloor ≤ v.peak ∧ v.protect = false ∧ v.thermal = false then 1 else 0)
                maxPeak := max g.results[k].maxPeak v.peak }) ∧
          (¬(2 ≤ n ∧ (∃ position, g.check.blockAt (n - 2) = .dwell position k) ∧
              ∃ v, feedReturn handed k = .received v) → counted[k] = g.results[k]) ∧
          results[k] =
            if 0 < n ∧ n % (g.check.spec.dwell + 1) = 0 ∧
                g.check.feeds[n / (g.check.spec.dwell + 1) - 1]? = some k then
              { counted[k] with state := if g.check.spec.passCount ≤ counted[k].hits then .pass else .fail }
            else counted[k]) ∧
        (n ≠ g.check.feeds.length * (g.check.spec.dwell + 1) →
          s.checkStage i handed = s.modScreen i fun x => { x with signal := { g with results := results } }) ∧
        (n = g.check.feeds.length * (g.check.spec.dwell + 1) →
          s.checkStage i handed = (s.modScreen i fun x =>
            { x with
              playout := { x.playout with mode := .show }
              signal :=
                { g with check := { g.check with running := false, count := none }, results := results } }).offerNotice
            { kind := .checkDone, screen := i, subject := 0, state := 0
              valueA := ((List.finRange 16).filter fun k => results[k].state = .pass).length
              valueB := ((List.finRange 16).filter fun k => results[k].state = .fail).length
              st := s.stNow i })) ∧
  (∀ words : List Int, (∀ v ∈ words, v.natAbs ≤ peakOf words) ∧
    (peakOf words = 0 ∨ ∃ v ∈ words, v.natAbs = peakOf words)) ∧
  (∀ (s : State) (i : ScreenNo) (x : Screen), x = s.screens[i] → x.playout.voidedAt ≠ some s.wordClock →
    ∃ (v u : State) (handed : Vector Handed 2), s.reachesCues i u ∧
      (s.lanesSound → ∀ l : Fin 2, handed[l] = x.lanes[l].twoBack) ∧
      v.screens[i].signal =
        { x.signal.countCheck with
          noise := (List.range 48).foldl (fun r _ => noiseStep r) x.signal.noise
          tonePhase := x.signal.tonePhase + 16 } ∧
      v.screens[i].playout.mode = x.playout.mode ∧ v.screens[i].clock = u.screens[i].clock ∧
      u = (v.checkStage i handed).modScreen i fun y => { y with feeds := u.screens[i].feeds }) ∧
  ∀ (s : State) (i : ScreenNo) (x : Screen), x = s.screens[i] → x.playout.voidedAt ≠ some s.wordClock →
    let due := 0 < x.settings.meterInterval ∧ 100 * x.settings.meterInterval ≤ x.meterCount + 1
    ∃ (u : State) (played : Option Block) (more : List UpFrame), s.reachesCues i u ∧
      played = (s.selectionAt i u.screens[i].clock.base).played ∧ u.reports = s.reports ++ more ∧
      let sent := fun k : FeedNo => peakOf ((s.gainedWords i k played).map fun v => max (-8388608) (min 8388607 v))
      let feedHold := fun k : FeedNo => max x.feeds[k].hold (sent k)
      let channelHold := fun c : ChannelNo => max x.channelHolds[c] (peakOf (channelInput played c))
      (∀ k : FeedNo, u.screens[i].feeds[k].sentOne = sent k ∧ u.screens[i].feeds[k].sentTwo = x.feeds[k].sentOne) ∧
      (x.settings.meterInterval = 0 ∨ due → u.screens[i].meterCount = 0) ∧
      (0 < x.settings.meterInterval → ¬due → u.screens[i].meterCount = x.meterCount + 1) ∧
      (¬due → ∀ m, UpFrame.meter m ∉ more) ∧
      (∀ m, UpFrame.meter m ∈ more →
        m.screen = i ∧ m.st = u.screens[i].clock.base ∧ m.clock = u.screens[i].clock.state ∧
        (∀ k : FeedNo, m.feeds[k] = feedHold k) ∧ (∀ c : ChannelNo, m.channels[c] = channelHold c) ∧
        (∀ k : FeedNo, u.screens[i].feeds[k].hold = 0) ∧ ∀ c : ChannelNo, u.screens[i].channelHolds[c] = 0) ∧
      ((∀ m, UpFrame.meter m ∉ more) →
        (∀ k : FeedNo, u.screens[i].feeds[k].hold = feedHold k) ∧
        (∀ c : ChannelNo, u.screens[i].channelHolds[c] = channelHold c) ∧
        (due → 32 ≤ u.reports.length))

/-- The model's choice of log entry 3 for these three rows, that CUE_TIME_DUE reads the hold of R160 from the REF_LOST
record as it stands and that a cue they fire keeps its go request (R156) included. R154, R157: an ARMED cue whose
countdown reaches 0 fires and arms its children. R154, R160: a PENDING AT_TIME cue is judged by d = T - t: not yet,
due, or MISSED; one that go requested keeps from MISSED waits for its boundary. R155: due markers leave the list, and
each PENDING ON_MARKER cue of the screen whose code one carries fires, in ascending index. Otherwise nothing changes.
The rest is the rules themselves. R157: a cue that fires has its action carried out, records its fault or NONE, reports
a fault in a CUE_FAULT notice, and ends FIRED. R158, R159: each action is what its command does (`perform`, see
`RequestIsTakenQueuedOrDropped`), or its fault, or the CUE notice. R157, R163: the children of the cues that fired are
armed, and those of a cue that so leaves FIRED released. R154 to R157, R160: the cue stage that ends a BLOCK_BOUNDARY
judges every cue of the screen, then fires the due ones in ascending index and arms their children. What the stages
before it left of the screen's settings, clock, latched preset, banks, peaks, holds, lanes, records and tallies, and of
its noise and tone, no cue changes. -/
def Obligations.CueEventsFireTheDueCues : Prop :=
  (∀ (s : State) (n : CueNo) (i : ScreenNo) (d : Int), s.cues[n].spec.screen = i.val →
    d = signedDiff s.screens[i].clock.base s.cues[n].spec.time →
    let expires := s.cues[n].state = .armed ∧ ∃ c, s.cues[n].countdown = some c ∧ c ≤ 1
    let judged := s.screens[i].cuesHeld = false ∧ s.cues[n].state = .pending ∧ s.cues[n].spec.trigger = .atTime
    let due := judged ∧ 0 ≤ d ∧ (d ≤ 47 ∨ s.cues[n].spec.catchUp = true)
    let missed := judged ∧ 48 ≤ d ∧ s.cues[n].spec.catchUp = false ∧ s.cues[n].go = false
    (expires → exec (.cueCountdownExpiry n) s =
      .next ((({ s with cues := s.cues.set n.val { s.cues[n] with countdown := none } n.isLt } : State).fireCue
        i n).armChildren [n])) ∧
    (¬expires → exec (.cueCountdownExpiry n) s = .next s) ∧
    (due → exec (.cueTimeDue n) s = .next ((s.fireCue i n).armChildren [n])) ∧
    (missed → exec (.cueTimeDue n) s =
      .next { s with cues := s.cues.set n.val { s.cues[n] with state := .missed } n.isLt }) ∧
    (¬due → ¬missed → exec (.cueTimeDue n) s = .next s)) ∧
  (∀ (s u : State) (i : ScreenNo) (arrival : Bool) (due : Marker → Bool) (fires : List CueNo),
    (arrival = true ↔ ∃ e, s.activeEntry i = some e ∧ s.entries[e].timing = .arrival) →
    (∀ m, due m = (arrival || decide (-24 ≤ signedDiff s.screens[i].clock.base m.pt))) →
    fires = (List.finRange 256).filter (fun n =>
      decide (s.cues[n].spec.screen = i.val ∧ s.cues[n].state = .pending ∧ s.cues[n].spec.trigger = .onMarker) &&
        s.screens[i].markers.any fun m => due m && decide (m.code = s.cues[n].spec.markerCode)) →
    u = (s.modScreen i fun x => { x with markers := x.markers.filter fun m => !due m }) →
    exec (.markerDue i) s = .next ((fires.foldl (fun v n => v.fireCue i n) u).armChildren fires) ∧
    ((∀ m ∈ s.screens[i].markers, due m = false) → exec (.markerDue i) s = .next s)) ∧
  (∀ (s : State) (i : ScreenNo) (n : CueNo) (r : State × CueFault), r = s.fireAction i n s.cues[n].spec →
    s.fireCue i n =
      { (if r.2 = .none then r.1
          else r.1.offerNotice
            { kind := .cueFault, screen := i, subject := n.val
              state := match r.2 with
                | .none => 0 | .badPreset => 1 | .badSource => 2 | .checkBusy => 3 | .noCheck => 4
              valueA := 0, valueB := 0, st := s.stNow i }) with
        cues := s.cues.set n.val
          { s.cues[n] with state := .fired, countdown := none, lastFault := some r.2 } n.isLt }) ∧
  (∀ (s : State) (i : ScreenNo) (n : CueNo) (c : CueSpec),
    let used := ∃ p : PresetNo, c.preset = p.val ∧ s.presets[p].used = true
    let running := s.screens[i].signal.check.running = true
    let entryIn := fun states : List EntryState =>
      ∃ e : EntryNo, c.entry = e.val ∧ s.entries[e].screen = i ∧ s.entries[e].state ∈ states
    let acts := fun r : Request => s.fireAction i n c = ((perform r s).state, .none)
    let faults := fun f : CueFault => s.fireAction i n c = (s, f)
    (c.action = .preset → (used → acts (.setPreset i.val (some c.preset))) ∧ (¬used → faults .badPreset)) ∧
    (c.action = .fade → acts (.fade i.val c.fadeTarget c.fadeDuration)) ∧
    (c.action = .mute → acts (.mute i.val)) ∧ (c.action = .unmute → acts (.unmute i.val)) ∧
    (c.action = .bank → acts (.selectBank i.val c.bank)) ∧
    (c.action = .pattern → acts (.pattern i.val c.pattern)) ∧
    (c.action = .check →
      (¬running → c.check.kind ≠ .off → acts (.startCheck i.val c.check)) ∧ (running → faults .checkBusy)) ∧
    (c.action = .stopCheck → (running → acts (.stopCheck i.val)) ∧ (¬running → faults .noCheck)) ∧
    (c.action = .notify → s.fireAction i n c =
      (s.offerNotice
        { kind := .cue, screen := i, subject := n.val, state := 0, valueA := c.notifyCode, valueB := 0,
          st := s.stNow i }, .none)) ∧
    (c.action = .source → (entryIn [.primed, .inactive, .active] → acts (.activate c.entry)) ∧
      (¬entryIn [.primed, .inactive, .active] → faults .badSource)) ∧
    (c.action = .prime → (entryIn [.inactive, .primed] → acts (.prime c.entry)) ∧
      (¬entryIn [.inactive, .primed] → faults .badSource))) ∧
  (∀ (s t : State) (fired : List CueNo), t = s.armChildren fired →
    let armed := fun m : CueNo => s.cues[m].spec.trigger = .after ∧
      (s.cues[m].state = .pending ∨ s.cues[m].state = .armed ∨ s.cues[m].state = .fired) ∧
      ∃ p ∈ fired, s.cues[m].spec.parent = p.val
    let released := fun m : CueNo => s.cues[m].spec.trigger = .after ∧ (armed m ∨ s.cues[m].state = .armed) ∧
      ∃ p : CueNo, s.cues[m].spec.parent = p.val ∧ armed p ∧ s.cues[p].state = .fired
    t = { s with cues := t.cues } ∧
    ∀ m : CueNo,
      (released m → t.cues[m] = { s.cues[m] with state := .pending, countdown := none }) ∧
      (armed m → ¬released m →
        t.cues[m] = { s.cues[m] with state := .armed, countdown := some s.cues[m].spec.delay }) ∧
      (¬armed m → ¬released m → t.cues[m] = s.cues[m])) ∧
  (∀ (s u : State) (i : ScreenNo) (time : ScreenTime) (held arrival : Bool) (dueMarker : Marker → Bool)
      (isDue : CueNo → Bool),
    (arrival = true ↔ ∃ e, s.activeEntry i = some e ∧ s.entries[e].timing = .arrival) →
    (∀ m, dueMarker m = (arrival || decide (-24 ≤ signedDiff time m.pt))) →
    let expires := fun n : CueNo => s.cues[n].state = .armed ∧ ∃ c, s.cues[n].countdown = some c ∧ c ≤ 1
    let judged := fun n : CueNo => held = false ∧ s.cues[n].state = .pending ∧ s.cues[n].spec.trigger = .atTime
    let past := fun n : CueNo => signedDiff time s.cues[n].spec.time
    let missed := fun n : CueNo => judged n ∧ 48 ≤ past n ∧ s.cues[n].spec.catchUp = false ∧ s.cues[n].go = false
    (∀ n, isDue n = true ↔ s.cues[n].spec.screen = i.val ∧
      (expires n ∨ (judged n ∧ 0 ≤ past n ∧ (past n ≤ 47 ∨ s.cues[n].spec.catchUp = true)) ∨
        (s.cues[n].state = .pending ∧ s.cues[n].spec.trigger = .onMarker ∧
          ∃ m ∈ s.screens[i].markers, dueMarker m = true ∧ m.code = s.cues[n].spec.markerCode) ∨
        s.cues[n].go = true)) →
    u = { s with
      screens := s.screens.set i.val
        { s.screens[i] with markers := s.screens[i].markers.filter fun m => !dueMarker m } i.isLt
      cues := u.cues } →
    (∀ n : CueNo,
      (s.cues[n].spec.screen ≠ i.val → u.cues[n] = s.cues[n]) ∧
      (s.cues[n].spec.screen = i.val → missed n → u.cues[n] = { s.cues[n] with state := .missed }) ∧
      (s.cues[n].spec.screen = i.val → ¬missed n → u.cues[n] =
        { s.cues[n] with
          go := false
          countdown :=
            match s.cues[n].state, s.cues[n].countdown with
            | .armed, some c => if c ≤ 1 then none else some (c - 1)
            | _, c => c })) →
    s.cueStage i time held =
      (((List.finRange 256).filter isDue).foldl (fun v n => v.fireCue i n) u).armChildren
        ((List.finRange 256).filter isDue)) ∧
  (∀ (s : State) (i : ScreenNo) (time : ScreenTime) (held : Bool) (x y : Screen), x = s.screens[i] →
    y = (s.cueStage i time held).screens[i] →
    y =
      { x with
        playout := y.playout, render := { x.render with selection := y.render.selection }, level := y.level
        signal := { y.signal with noise := x.signal.noise, tonePhase := x.signal.tonePhase }
        markers := y.markers, noticeLost := y.noticeLost }) ∧
  ∀ (s : State) (i : ScreenNo) (x : Screen), x = s.screens[i] → x.playout.voidedAt ≠ some s.wordClock →
    ∃ (u : State) (held : Bool),
      exec (.blockBoundary i) s = .next (u.cueStage i u.screens[i].clock.base held) ∧
      (held = true ↔ x.records[(9 : RecordNo)].state = .action ∧
        ∃ a, x.records[(9 : RecordNo)].recorded = some { action := .holdCues, amount := a }) ∧
      u.screens[i].markers = x.markers ∧
      (∀ e : EntryNo, { u.entries[e] with tallies := s.entries[e].tallies } = s.entries[e]) ∧
      (¬(x.settings.clockMode = .selfTimed ∧ x.playout.resync = true ∧ x.playout.program ≠ []) → u.cues = s.cues)

/-! ## Lanes -/

/-- R12, R121, R122, for lane 2i + l, lane l of screen i: the record whose last byte has been sent leaves the transmit
queue; a sense record is accepted into the empty slot of its count, counted on LANE_SEQ as a duplicate or as
unexpected, or discarded untallied when its length or check is wrong. -/
def Obligations.LaneRecordsAreSentAndMatched : Prop :=
  (∀ (s : State) (i : ScreenNo) (l : Fin 2) (n : LaneNo), n.val = 2 * i.val + l.val →
    exec (.laneRecordSent n) s =
      .next (s.modScreen i fun x =>
        { x with lanes := x.lanes.set l.val { x.lanes[l] with transmit := x.lanes[l].transmit.tail } l.isLt })) ∧
  ∀ (s : State) (i : ScreenNo) (l : Fin 2) (n : LaneNo) (x : Lane), n.val = 2 * i.val + l.val →
    x = s.screens[i].lanes[l] →
    (∀ record, ¬(∃ body, body.length = 26 ∧ record = withCheck body) →
      exec (.senseRecordArrival n record) s = .next s) ∧
    ∀ (c : BitVec 16) (data : List Byte), data.length = 24 →
      (∀ before after, x.awaiting = before ++ { count := c, slot := none } :: after →
        (∀ a ∈ before, a.count ≠ c) → ∃ v : Vector SenseReturn 8,
          (∀ j : Fin 8, v[j] =
            { peak := 256 * (data.getD (3 * j.val) 0).toNat + (data.getD (3 * j.val + 1) 0).toNat,
              protect := (data.getD (3 * j.val + 2) 0).getLsbD 0,
              thermal := (data.getD (3 * j.val + 2) 0).getLsbD 1 }) ∧
          exec (.senseRecordArrival n (withCheck (twoBytes c ++ data))) s =
            .next (s.modScreen i fun y =>
              { y with
                lanes := y.lanes.set l.val
                  { x with awaiting := before ++ { count := c, slot := some v } :: after } l.isLt })) ∧
      ((∀ a ∈ x.awaiting, a.count ≠ c) ∨
        (∃ before after v, x.awaiting = before ++ { count := c, slot := some v } :: after ∧
          ∀ a ∈ before, a.count ≠ c) →
        exec (.senseRecordArrival n (withCheck (twoBytes c ++ data))) s =
          .next (s.modScreen i fun y =>
            { y with
              lanes := y.lanes.set l.val { x with seqErrors := min (x.seqErrors + 1) 65535 } l.isLt }))

/-! ## Arithmetic -/

/-- R95, R103: the fader code has one slope of 2(f - 70)/3 rounded to the nearest integer from 40 up and one of four steps
a tenth below; a latched gain code 12q + r scales by the mantissa m_r and a shift of 23 - q, rounded half up, the
factor 0 gives 0, and the result of a 32-bit word lies within 2^33. -/
def Obligations.FaderAndGainFollowTheirScales : Prop :=
  (faderCode 0 = none ∧ (∀ f : Nat, 1 ≤ f → f ≤ 39 → faderCode f = some (-20 + 4 * ((f : Int) - 40))) ∧
    ∀ f : Nat, 40 ≤ f → f ≤ 100 → ∃ c : Int, faderCode f = some c ∧
      2 * (3 * c - 2 * ((f : Int) - 70)) < 3 ∧ -3 < 2 * (3 * c - 2 * ((f : Int) - 70))) ∧
  ∀ (y g q : Int) (r : Fin 12) (m : Int), g = 12 * q + r.val → -160 ≤ g → g ≤ 24 →
    m = [8388608, 8887421, 9415894, 9975792, 10568984, 11197448, 11863283, 12568711, 13316085, 14107901, 14946800,
      15835583].getD r.val 0 →
    applyGain none y = 0 ∧
    applyGain (some g) y = (y * m + 2 ^ (22 - q).toNat).fdiv (2 ^ (23 - q).toNat) ∧
    (-2147483648 ≤ y → y ≤ 2147483647 → -8589934592 ≤ applyGain (some g) y ∧ applyGain (some g) y ≤ 8589934592)

/-- R87, R88: a section computes the direct form, rounds half up by 22 bits, saturates, counts the saturation, and
moves its histories; a bank takes its words in order, each from the histories the one before it left. R84, R90: in an
ordinary block the active bank alone runs, with its own histories. R90, R91: a feed whose active bank is not the
requested one runs both banks for one block, the new one from rest, crossfades them, and leaves the old one at rest. -/
def Obligations.BanksRunTheDirectFormAndCrossfade : Prop :=
  ((∀ w : Int, runSections [] w = (w, [], 0)) ∧
    ∀ (e : EqSection) (rest : List EqSection) (w acc y : Int),
      acc = e.coeffs.b0 * w + e.coeffs.b1 * e.x1 + e.coeffs.b2 * e.x2 - e.coeffs.a1 * e.y1 - e.coeffs.a2 * e.y2 →
      y = max (-2147483648) (min 2147483647 ((acc + 2097152).fdiv 4194304)) →
      runSections (e :: rest) w =
        ((runSections rest y).1,
         { coeffs := e.coeffs, x1 := w, x2 := e.x1, y1 := y, y2 := e.y1 } :: (runSections rest y).2.1,
         (if y = (acc + 2097152).fdiv 4194304 then 0 else 1) + (runSections rest y).2.2)) ∧
  (∀ sections : List EqSection,
    runBank sections [] = { outputs := [], sections := sections, saturated := 0 } ∧
    restBank sections = sections.map (fun e => { coeffs := e.coeffs, x1 := 0, x2 := 0, y1 := 0, y2 := 0 }) ∧
    ∀ (w out : Int) (words : List Int) (left : List EqSection) (clipped : Nat) (after : BankRun),
      runSections sections w = (out, left, clipped) → after = runBank left words →
      runBank sections (w :: words) =
        { outputs := out :: after.outputs, sections := after.sections, saturated := clipped + after.saturated }) ∧
  (∀ (f : Feed) (words : List Int) (run : BankRun), f.bank .a = f.bankA ∧ f.bank .b = f.bankB ∧
    (run = runBank (f.bank f.active) words → f.equalise f.active words =
      ({ f with
          bankA := if f.active = .a then run.sections else f.bankA
          bankB := if f.active = .b then run.sections else f.bankB
          eqSat := min (f.eqSat + run.saturated) 65535 }, run.outputs))) ∧
  ∀ (f : Feed) (words : List Int) (requested : Bank) (old new : BankRun), requested ≠ f.active →
    old = runBank (f.bank f.active) words → new = runBank (restBank (f.bank requested)) words →
    (f.equalise requested words).1 =
      { f with
        bankA := if requested = .a then new.sections else restBank f.bankA
        bankB := if requested = .b then new.sections else restBank f.bankB
        active := requested
        eqSat := min (f.eqSat + (old.saturated + new.saturated)) 65535 } ∧
    bankAtRest ((f.equalise requested words).1.bank f.active) ∧
    (f.equalise requested words).2.length = words.length ∧
    ∀ n, n < words.length →
      (f.equalise requested words).2.getD n 0 =
        (old.outputs.getD n 0 * (48 - n) + new.outputs.getD n 0 * n + 24).fdiv 48

/-- R74: a channel's status and input values. R75, R76: a channel below n whose CH_LOSS record (record c for channel c)
is in ACTION with FILL recorded is substituted by its fill entry: itself, 0, or the blend of its donors' values before
substitution, rounded half up by 14 bits and saturated. R77: a feed word is the sum over the channels below n of
coefficient times value, divided by 16384 and rounded half up, and needs no saturation: for coefficients and values in
their ranges it lies within 2^27; without a latched preset every word is 0. -/
def Obligations.RenderNeedsNoSaturation : Prop :=
  (∀ (played : Option Block) (c : ChannelNo),
    (played = none → channelStatus played c = .unplayed ∧ channelInput played c = List.replicate 48 0) ∧
    ∀ b, played = some b →
      (¬(c.val < b.channels ∧ b.present.getLsbD c.val = true) →
        channelStatus played c = .missing ∧ channelInput played c = List.replicate 48 0) ∧
      (c.val < b.channels → b.present.getLsbD c.val = true → channelStatus played c = .present ∧
        ∀ v, b.samples[c.val]? = some v → channelInput played c = v)) ∧
  (∀ (x : Screen) (c : ChannelNo) (k : RecordNo), k.val = c.val →
    (x.filled c = true ↔ x.records[k].state = .action ∧
      ∃ a, x.records[k].recorded = some { action := .fill, amount := a })) ∧
  (∀ (p : Preset) (filled : Vector Bool 8) (inputs : Vector (List Int) 8) (c : ChannelNo) (out : List Int),
    (∀ d : ChannelNo, inputs[d].length = 48) → out = (renderInputs p filled inputs)[c] →
    let substitutes := c.val < p.channels ∧ filled[c] = true
    let blend := fun v : Int => max (-8388608) (min 8388607 ((v + 8192).fdiv 16384))
    out.length = 48 ∧
    (¬substitutes ∨ p.fill[c].mode = .none → out = inputs[c]) ∧
    (substitutes → p.fill[c].mode = .mute → out = List.replicate 48 0) ∧
    (∀ a : ChannelNo, substitutes → p.fill[c].mode = .fill → p.fill[c].donorA = a.val → ∀ n, n < 48 →
      (p.fill[c].donorB = none → out.getD n 0 = blend (p.fill[c].coefA * inputs[a].getD n 0)) ∧
      ∀ (b : ChannelNo) (k : Int), p.fill[c].donorB = some (b.val, k) →
        out.getD n 0 = blend (p.fill[c].coefA * inputs[a].getD n 0 + k * inputs[b].getD n 0))) ∧
  (∀ (filled : Vector Bool 8) (inputs : Vector (List Int) 8) (f : FeedNo),
    (renderWords none filled inputs)[f] = List.replicate 48 0 ∧
    ∀ l : LatchedPreset,
      (renderWords (some l) filled inputs)[f] = renderFeed l.preset (renderInputs l.preset filled inputs) f) ∧
  ∀ (p : Preset) (values : Vector (List Int) 8) (f : FeedNo) (t : Nat), t < 48 →
    (∀ c : ChannelNo, values[c].length = 48) →
    (p.feedSet.getLsbD f.val = false → (renderFeed p values f).getD t 0 = 0) ∧
    (p.feedSet.getLsbD f.val = true →
      (renderFeed p values f).getD t 0 =
        (((List.finRange 8).map fun c : ChannelNo =>
          if c.val < p.channels then p.matrix[f][c] * values[c].getD t 0 else 0).sum + 8192).fdiv 16384 ∧
      ((∀ c : ChannelNo, (-32768 ≤ p.matrix[f][c] ∧ p.matrix[f][c] ≤ 32767) ∧ inSampleRange (values[c].getD t 0)) →
        -134217728 ≤ (renderFeed p values f).getD t 0 ∧ (renderFeed p values f).getD t 0 ≤ 134217728))

/-- R107, R108, R110, R113: the raw tone sample n of a block stands at place p + n modulo 32; a pattern value scales
the raw sample by the level 12q + r as the gain stage does and saturates, and level 0 passes it; in SHOW the feeds of a
latched pattern's mask take the pattern and every other feed the render; in CHECK the feed under test takes the check's
pattern and every other feed 0. R106: one step of the noise register: each bit moves up one place, bit 0 takes bit 22
XOR bit 17, the register stays other than 0, and the raw sample is even and within the sample range; raw sample n of a
block is that of the register after n + 1 steps. -/
def Obligations.NoiseRegisterStepsAndNeverStops : Prop :=
  (∀ r : BitVec 23,
    (noiseStep r).getLsbD 0 = (r.getLsbD 22 != r.getLsbD 17) ∧
    (∀ k, k < 22 → (noiseStep r).getLsbD (k + 1) = r.getLsbD k) ∧
    (r ≠ 0 → noiseStep r ≠ 0 ∧ -8388606 ≤ noiseSample (noiseStep r) ∧ noiseSample (noiseStep r) ≤ 8388606 ∧
      noiseSample (noiseStep r) % 2 = 0 ∧ noiseSample (noiseStep r) = 2 * ((noiseStep r).toNat : Int) - 8388608)) ∧
  (∀ (r : BitVec 23) (n : Nat), n < 48 → (noiseRun 48 r).1.length = 48 ∧
    (noiseRun 48 r).1.getD n 0 = noiseSample ((List.range (n + 1)).foldl (fun q _ => noiseStep q) r)) ∧
  (∀ (tone : Vector Int 32) (p place : Fin 32) (n : Nat), n < 48 → place.val = (p.val + n) % 32 →
    (toneSamples tone p).length = 48 ∧ (toneSamples tone p).getD n 0 = tone[place]) ∧
  (∀ (level raw q : Int) (r : Fin 12) (m : Int), level = 12 * q + r.val → -160 ≤ level → level ≤ 0 →
    m = [8388608, 8887421, 9415894, 9975792, 10568984, 11197448, 11863283, 12568711, 13316085, 14107901, 14946800,
      15835583].getD r.val 0 →
    patternValue level raw =
      max (-8388608) (min 8388607 ((raw * m + 2 ^ (22 - q).toNat).fdiv (2 ^ (23 - q).toNat))) ∧
    (inSampleRange raw → patternValue 0 raw = raw)) ∧
  ∀ (l : Latched) (check : CheckSpec) (noise tone : List Int) (render : Vector (List Int) 16) (k : FeedNo)
      (words : List Int), words = inputWords l check noise tone render k →
    (l.mode = .show → l.pattern = none → words = render[k]) ∧
    (∀ p, l.mode = .show → l.pattern = some p →
      (p.mask.getLsbD k.val = false → words = render[k]) ∧
      (p.mask.getLsbD k.val = true → p.kind = .noise → words = noise.map (patternValue p.level)) ∧
      (p.mask.getLsbD k.val = true → p.kind = .tone → words = tone.map (patternValue p.level))) ∧
    (∀ position, l.mode = .check → l.checkBlock = some (.dwell position k) →
      (check.kind = .noise → words = noise.map (patternValue check.level)) ∧
      (check.kind = .tone → words = tone.map (patternValue check.level))) ∧
    (l.mode = .check → (∀ position, l.checkBlock ≠ some (.dwell position k)) → words = List.replicate 48 0)

/-! ## Encoding -/

/-- R4, R7, R167: the record a READ returns, written back, is read as the record it stands for, with every field at
every value its bytes admit; of a CUE record the 39 bytes of its written fields, and of a STREAM record the first five
fields. A READ and every command are read from their kind code, with their arguments at every value.R167: the flags of
a PRESET and a CUE record read as set, and a fill entry's presence byte as present, at every value but 0. -/
def Obligations.RecordReadBackIsTheRecordWritten : Prop :=
  ∀ index : Nat,
    (∀ p : Preset, p.wf = true → judgeEnvelope 2 2 index (presetBytes p) = .writePreset index p) ∧
    (∀ list : List Section, list.length < 256 → list.all Section.wf = true →
      judgeEnvelope 2 3 index (bankBytes (list.map EqSection.atRest)) = .writeEqbank index list) ∧
    (∀ p : Profile, p.wf = true → judgeEnvelope 2 5 index (profileBytes p) = .writeProfile index p) ∧
    (∀ tone : Vector Int 32, tone.toList.all (fitsInt 3) = true →
      judgeEnvelope 2 6 index (waveBytes tone) = .writeWave index tone) ∧
    (∀ r : ScreenSettings, r.wf = true → judgeEnvelope 2 7 index (settingsBytes r) = .writeScreen index r) ∧
    (∀ trim : Int, fitsInt 1 trim = true → judgeEnvelope 2 8 index (beBytes 1 trim) = .writeFeed index trim) ∧
    (∀ spec : PatternSpec, spec.wf = true → judgeEnvelope 30 0 index (patternBytes spec) = .pattern index spec) ∧
    (∀ spec : CheckSpec, spec.wf = true → judgeEnvelope 31 0 index (checkSpecBytes spec) = .startCheck index spec) ∧
    (∀ w : StreamWrite, w.wf = true →
      judgeEnvelope 2 1 index
        (beNat 2 w.number ++ beNat 1 w.screen ++ beNat 1 w.channels ++
          ([match w.order with | .msbFirst => 0 | .lsbFirst => 1,
            match w.timing with | .timed => 0 | .arrival => 1] : List Byte)) =
        .writeStream index w) ∧
    (∀ c : Cue, c.spec.wf = true → judgeEnvelope 2 4 index ((cueBytes c).take 39) = .writeCue index c.spec) ∧
    (judgeEnvelope 1 1 index [] = .read .stream index ∧ judgeEnvelope 1 2 index [] = .read .preset index ∧
      judgeEnvelope 1 3 index [] = .read .eqbank index ∧ judgeEnvelope 1 4 index [] = .read .cue index ∧
      judgeEnvelope 1 5 index [] = .read .profile index ∧ judgeEnvelope 1 6 index [] = .read .wave index ∧
      judgeEnvelope 1 7 index [] = .read .screen index ∧ judgeEnvelope 1 8 index [] = .read .feed index) ∧
    (judgeEnvelope 16 0 index [] = .screenReset index ∧ judgeEnvelope 17 0 index [] = .mute index ∧
      judgeEnvelope 18 0 index [] = .unmute index ∧ judgeEnvelope 23 0 index [] = .prime index ∧
      judgeEnvelope 24 0 index [] = .activate index ∧ judgeEnvelope 25 0 index [] = .deactivate index ∧
      judgeEnvelope 26 0 index [] = .go index ∧ judgeEnvelope 27 0 index [] = .cancel index ∧
      judgeEnvelope 28 0 index [] = .enable index ∧ judgeEnvelope 29 0 index [] = .ack index ∧
      judgeEnvelope 32 0 index [] = .stopCheck index ∧ judgeEnvelope 33 0 index [] = .readStatus index ∧
      judgeEnvelope 34 0 index [] = .listAlarms index ∧ judgeEnvelope 37 0 index [] = .readCheck index ∧
      judgeEnvelope 38 0 index [] = .readSense index) ∧
    (∀ f : Byte, judgeEnvelope 19 0 index [f] = .setFader index f.toNat) ∧
    (∀ (ft : Byte) (d : BitVec 16), judgeEnvelope 20 0 index (ft :: twoBytes d) = .fade index ft.toNat d.toNat) ∧
    judgeEnvelope 21 0 index [0] = .setPreset index none ∧
    (∀ present p : Byte, present ≠ 0 → judgeEnvelope 21 0 index [present, p] = .setPreset index (some p.toNat)) ∧
    judgeEnvelope 22 0 index [0] = .selectBank index .a ∧ judgeEnvelope 22 0 index [1] = .selectBank index .b ∧
    (∀ flag : Byte,
      judgeEnvelope 35 0 index [0, flag] = .readTally index .port (flag != 0) ∧
      judgeEnvelope 35 0 index [1, flag] = .readTally index .entry (flag != 0) ∧
      judgeEnvelope 35 0 index [2, flag] = .readTally index .screen (flag != 0) ∧
      judgeEnvelope 35 0 index [3, flag] = .readTally index .feed (flag != 0) ∧
      judgeEnvelope 35 0 index [4, flag] = .readTally index .lane (flag != 0) ∧
      judgeEnvelope 36 0 index [flag] = .readMeter index (flag != 0)) ∧
    (∀ (used : Byte) (rest : List Byte),
      judgeEnvelope 2 2 index (used :: rest) = judgeEnvelope 2 2 index (plainFlag used :: rest)) ∧
    (∀ (args : List Byte) (i : Fin 8) (place : Nat), place = 265 + fillsLength i (args.drop 261) →
      args.getD place 0 ≠ 0 → judgeEnvelope 2 2 index (args.set place 1) = judgeEnvelope 2 2 index args) ∧
    (∀ (used catchUp rearm : Byte) (body : List Byte), body.length = 36 →
      judgeEnvelope 2 4 index (used :: (body ++ [catchUp, rearm])) =
        judgeEnvelope 2 4 index (plainFlag used :: (body ++ [plainFlag catchUp, plainFlag rearm])))

end Statements
end

