-- ==== Sys2Proof/Laws/Numbers.lean ====
section
/-! SUPPORT. The arithmetic of Ops, and what the word-clock and gain formulas give. -/

namespace Sys2Proof.Machine

/-! ## Saturation and clamps -/

theorem satAdd_eq (n k : Nat) : satAdd n k = min (n + k) 65535 := rfl

theorem satInc_eq (n : Nat) : satInc n = min (n + 1) 65535 := rfl

theorem satAdd_le (n k : Nat) : satAdd n k ≤ 65535 := by
  simp only [satAdd_eq]; omega

theorem satAdd_zero {n : Nat} (h : n ≤ 65535) : satAdd n 0 = n := by
  simp only [satAdd_eq]; omega

theorem clampNat_le {lo hi : Nat} (n : Nat) (h : lo ≤ hi) : clampNat lo hi n ≤ hi := by
  simp only [clampNat]; omega

theorem le_clampNat (lo hi n : Nat) : lo ≤ clampNat lo hi n := by
  simp only [clampNat]; omega

theorem clampNat_of_mem {lo hi n : Nat} (h1 : lo ≤ n) (h2 : n ≤ hi) : clampNat lo hi n = n := by
  simp only [clampNat]; omega

theorem clampInt_le {lo hi : Int} (v : Int) (h : lo ≤ hi) : clampInt lo hi v ≤ hi := by
  simp only [clampInt]; omega

theorem le_clampInt (lo hi v : Int) : lo ≤ clampInt lo hi v := by
  simp only [clampInt]; omega

theorem clampInt_of_mem {lo hi v : Int} (h1 : lo ≤ v) (h2 : v ≤ hi) : clampInt lo hi v = v := by
  simp only [clampInt]; omega

/-- Every clamped sample lies within the sample range. -/
theorem satSample_mem (v : Int) : -8388608 ≤ satSample v ∧ satSample v ≤ 8388607 := by
  simp only [satSample, clampInt, Config.sampleMin, Config.sampleMax]; omega

/-- Every saturated word lies within the feed word range. -/
theorem satWord_mem (v : Int) : -2147483648 ≤ satWord v ∧ satWord v ≤ 2147483647 := by
  simp only [satWord, clampInt, Config.wordMin, Config.wordMax]; omega

/-- A list whose values lie within the sample range peaks at no more than full scale. -/
theorem peakOf_le {vs : List Int} (h : ∀ v ∈ vs, -8388608 ≤ v ∧ v ≤ 8388608) : peakOf vs ≤ 8388608 := by
  suffices ∀ m, m ≤ 8388608 → vs.foldl (fun m v => max m v.natAbs) m ≤ 8388608 from this 0 (by omega)
  induction vs with
  | nil => intro m hm; exact hm
  | cons v rest ih =>
      intro m hm
      have hv := h v (by simp)
      refine ih (fun u hu => h u (by simp [hu])) (max m v.natAbs) ?_
      omega

/-! ## Screen time -/

/-- A step by the signed difference reaches the time it was taken to. -/
theorem add_signedDiff (a b : ScreenTime) : b + BitVec.ofInt 32 (signedDiff a b) = a := by
  simp only [signedDiff, BitVec.ofInt_toInt]
  rw [BitVec.add_comm, BitVec.sub_add_cancel]

theorem signedDiff_eq_zero (a b : ScreenTime) : signedDiff a b = 0 ↔ a = b := by
  simp only [signedDiff]
  constructor
  · intro h
    have h0 : a - b = 0#32 := BitVec.eq_of_toInt_eq (by simpa using h)
    have := add_signedDiff a b
    simp only [signedDiff, h0] at this
    simpa using this.symm
  · rintro rfl
    simp

theorem signedDiff_range (a b : ScreenTime) : -2147483648 ≤ signedDiff a b ∧ signedDiff a b ≤ 2147483647 := by
  have h1 := BitVec.two_mul_toInt_lt (x := a - b)
  have h2 := BitVec.le_two_mul_toInt (x := a - b)
  simp only [signedDiff]
  omega

/-- R35: the next count congruent to the phase lies 1 to 48 periods ahead. -/
theorem nextCount_spec (now phase : Nat) :
    now < nextCount now phase ∧ nextCount now phase ≤ now + 48 ∧ nextCount now phase % 48 = phase % 48 := by
  simp only [nextCount]
  omega

/-! ## Gain -/

/-- R103: the factor 0 gives 0. -/
@[simp] theorem applyGain_none (y : Int) : applyGain none y = 0 := rfl

/-- A code 12q + r scales by its mantissa and the shift of its octave. -/
theorem scaleByCode_eq (q : Int) (r : Fin 12) (v : Int) :
    scaleByCode (12 * q + r.val) v = roundShift (v * mantissa r.val) (23 - q).toNat := by
  have h1 : (12 * q + (r.val : Int)) % 12 = r.val := by omega
  have h2 : (12 * q + (r.val : Int)) / 12 = q := by omega
  simp [scaleByCode, h1, h2]

/-- Round half up is the floor of the value plus half a unit. -/
theorem roundShift_eq_fdiv (v : Int) (k : Nat) : roundShift v k = (v + 2 ^ (k - 1)).fdiv (2 ^ k) := by
  rw [roundShift, Int.fdiv_eq_ediv_of_nonneg]
  exact Int.le_of_lt (Int.pow_pos (by decide))

end Sys2Proof.Machine
end

