-- ==== Sys2Proof/Laws/Tables.lean ====
section
/-! SUPPORT. What the table operations of Ops give, entry by entry. -/

namespace Sys2Proof.Machine

theorem tabulateFrom_eq {α : Type} {n : Nat} (f : Fin n → α) :
    ∀ (k : Nat) (h : k ≤ n) (acc : List α),
      tabulateFrom f k h acc = (List.ofFn fun j : Fin k => f ⟨j.val, by omega⟩) ++ acc
  | 0, _, _ => by simp [tabulateFrom]
  | k + 1, h, acc => by
      rw [tabulateFrom, tabulateFrom_eq f k, List.ofFn_succ_last]
      simp

theorem tabulateList_eq_ofFn {α : Type} {n : Nat} (f : Fin n → α) : tabulateList f = List.ofFn f := by
  simp [tabulateList, tabulateFrom_eq]

@[simp] theorem tabulate_get {α : Type} {n : Nat} (f : Fin n → α) (i : Fin n) : (tabulate f)[i] = f i := by
  simp [tabulate, tabulateList_eq_ofFn]

@[simp] theorem tabulate_getElem {α : Type} {n : Nat} (f : Fin n → α) (i : Nat) (h : i < n) :
    (tabulate f)[i] = f ⟨i, h⟩ := by
  simp [tabulate, tabulateList_eq_ofFn]

/-- Two tables that agree at every index are equal. -/
theorem table_ext {α : Type} {n : Nat} {v w : Vector α n} (h : ∀ i : Fin n, v[i] = w[i]) : v = w := by
  apply Vector.ext
  intro i hi
  exact h ⟨i, hi⟩

/-- A table built from another's entries, unchanged, is that table. -/
theorem tabulate_self {α : Type} {n : Nat} (v : Vector α n) : (tabulate fun i => v[i]) = v :=
  table_ext fun i => tabulate_get _ i

theorem indexes_eq_finRange (n : Nat) : indexes n = List.finRange n := by
  rw [indexes, tabulateList_eq_ofFn]
  rfl

@[simp] theorem mem_indexes {n : Nat} (i : Fin n) : i ∈ indexes n := by
  rw [indexes_eq_finRange]
  exact List.mem_finRange i

theorem indexes_nodup (n : Nat) : (indexes n).Nodup := by
  rw [indexes_eq_finRange]
  exact List.nodup_finRange n

theorem adjust_eq_set {α : Type} {n : Nat} (v : Vector α n) (i : Fin n) (f : α → α) :
    adjust v i f = v.set i.val (f v[i]) i.isLt := rfl

@[simp] theorem adjust_getElem_same {α : Type} {n : Nat} (v : Vector α n) (i : Fin n) (f : α → α) :
    (adjust v i f)[i.val] = f v[i.val] := by
  simp [adjust]

theorem adjust_getElem {α : Type} {n : Nat} (v : Vector α n) (i : Fin n) (f : α → α) (j : Nat) (hj : j < n) :
    (adjust v i f)[j] = if j = i.val then f v[i.val] else v[j] := by
  simp only [adjust, Vector.getElem_set, Fin.getElem_fin, eq_comm]

@[simp] theorem adjust_same {α : Type} {n : Nat} (v : Vector α n) (i : Fin n) (f : α → α) :
    (adjust v i f)[i] = f v[i] := adjust_getElem_same v i f

/-- Every entry of an adjusted table. -/
theorem adjust_get {α : Type} {n : Nat} (v : Vector α n) (i j : Fin n) (f : α → α) :
    (adjust v i f)[j] = if j = i then f v[i] else v[j] := by
  have h := adjust_getElem v i f j.val j.isLt
  simp only [← Fin.ext_iff] at h
  exact h

theorem adjust_other {α : Type} {n : Nat} (v : Vector α n) (i j : Fin n) (f : α → α) (h : j ≠ i) :
    (adjust v i f)[j] = v[j] := by
  rw [adjust_get, if_neg h]

theorem adjust_adjust {α : Type} {n : Nat} (v : Vector α n) (i : Fin n) (f g : α → α) :
    adjust (adjust v i f) i g = adjust v i (fun x => g (f x)) := by
  apply table_ext
  intro j
  by_cases h : j = i
  · rw [h, adjust_same, adjust_same, adjust_same]
  · rw [adjust_other _ _ _ _ h, adjust_other _ _ _ _ h, adjust_other _ _ _ _ h]

theorem adjust_comm {α : Type} {n : Nat} (v : Vector α n) (i j : Fin n) (f g : α → α) (h : i ≠ j) :
    adjust (adjust v i f) j g = adjust (adjust v j g) i f := by
  apply table_ext
  intro k
  by_cases hi : k = i
  · rw [hi, adjust_same, adjust_other _ _ _ _ h, adjust_other _ _ _ _ h, adjust_same]
  · by_cases hj : k = j
    · rw [hj, adjust_same, adjust_other _ _ _ _ (Ne.symm h), adjust_other _ _ _ _ (Ne.symm h), adjust_same]
    · rw [adjust_other _ _ _ _ hj, adjust_other _ _ _ _ hi, adjust_other _ _ _ _ hi, adjust_other _ _ _ _ hj]

/-- A search over all indexes finds an index with the property, or there is none. -/
theorem find_indexes_some {n : Nat} {p : Fin n → Bool} {i : Fin n} (h : (indexes n).find? p = some i) : p i = true :=
  List.find?_some h

theorem find_indexes_none {n : Nat} {p : Fin n → Bool} : (indexes n).find? p = none ↔ ∀ i, p i = false := by
  simp [List.find?_eq_none]

/-- A search whose property one index alone has finds that index. -/
theorem find_indexes_unique {n : Nat} {p : Fin n → Bool} {i : Fin n} (hp : p i = true)
    (hu : ∀ j, p j = true → j = i) : (indexes n).find? p = some i := by
  cases h : (indexes n).find? p with
  | none => exact absurd hp (by simp [find_indexes_none.mp h i])
  | some j => rw [hu j (find_indexes_some h)]

theorem any_indexes {n : Nat} {p : Fin n → Bool} : (indexes n).any p = true ↔ ∃ i, p i = true := by
  simp

end Sys2Proof.Machine
end

