-- ==== Sys2Proof/Laws/State.lean ====
section
/-! SUPPORT. What each named update of State leaves in each field, so that no proof unfolds a record update. -/

namespace Sys2Proof.Machine

/-! ## The fourteen fields under each update -/

section
variable (i : ScreenNo) (f : Screen → Screen) (s : State)
@[simp] theorem State.modScreen_pending : (s.modScreen i f).pending = s.pending := rfl
@[simp] theorem State.modScreen_wordClock : (s.modScreen i f).wordClock = s.wordClock := rfl
@[simp] theorem State.modScreen_screens : (s.modScreen i f).screens = adjust s.screens i f := rfl
@[simp] theorem State.modScreen_entries : (s.modScreen i f).entries = s.entries := rfl
@[simp] theorem State.modScreen_freeSlots : (s.modScreen i f).freeSlots = s.freeSlots := rfl
@[simp] theorem State.modScreen_portTallies : (s.modScreen i f).portTallies = s.portTallies := rfl
@[simp] theorem State.modScreen_presets : (s.modScreen i f).presets = s.presets := rfl
@[simp] theorem State.modScreen_tone : (s.modScreen i f).tone = s.tone := rfl
@[simp] theorem State.modScreen_cues : (s.modScreen i f).cues = s.cues := rfl
@[simp] theorem State.modScreen_requests : (s.modScreen i f).requests = s.requests := rfl
@[simp] theorem State.modScreen_replySlot : (s.modScreen i f).replySlot = s.replySlot := rfl
@[simp] theorem State.modScreen_reports : (s.modScreen i f).reports = s.reports := rfl
@[simp] theorem State.modScreen_upSeq : (s.modScreen i f).upSeq = s.upSeq := rfl
@[simp] theorem State.modScreen_sendingSeq : (s.modScreen i f).sendingSeq = s.sendingSeq := rfl
end

section
variable (e : EntryNo) (f : StreamEntry → StreamEntry) (s : State)
@[simp] theorem State.modEntry_pending : (s.modEntry e f).pending = s.pending := rfl
@[simp] theorem State.modEntry_wordClock : (s.modEntry e f).wordClock = s.wordClock := rfl
@[simp] theorem State.modEntry_screens : (s.modEntry e f).screens = s.screens := rfl
@[simp] theorem State.modEntry_entries : (s.modEntry e f).entries = adjust s.entries e f := rfl
@[simp] theorem State.modEntry_freeSlots : (s.modEntry e f).freeSlots = s.freeSlots := rfl
@[simp] theorem State.modEntry_portTallies : (s.modEntry e f).portTallies = s.portTallies := rfl
@[simp] theorem State.modEntry_presets : (s.modEntry e f).presets = s.presets := rfl
@[simp] theorem State.modEntry_tone : (s.modEntry e f).tone = s.tone := rfl
@[simp] theorem State.modEntry_cues : (s.modEntry e f).cues = s.cues := rfl
@[simp] theorem State.modEntry_requests : (s.modEntry e f).requests = s.requests := rfl
@[simp] theorem State.modEntry_replySlot : (s.modEntry e f).replySlot = s.replySlot := rfl
@[simp] theorem State.modEntry_reports : (s.modEntry e f).reports = s.reports := rfl
@[simp] theorem State.modEntry_upSeq : (s.modEntry e f).upSeq = s.upSeq := rfl
@[simp] theorem State.modEntry_sendingSeq : (s.modEntry e f).sendingSeq = s.sendingSeq := rfl
end

section
variable (n : CueNo) (f : Cue → Cue) (s : State)
@[simp] theorem State.modCue_pending : (s.modCue n f).pending = s.pending := rfl
@[simp] theorem State.modCue_wordClock : (s.modCue n f).wordClock = s.wordClock := rfl
@[simp] theorem State.modCue_screens : (s.modCue n f).screens = s.screens := rfl
@[simp] theorem State.modCue_entries : (s.modCue n f).entries = s.entries := rfl
@[simp] theorem State.modCue_freeSlots : (s.modCue n f).freeSlots = s.freeSlots := rfl
@[simp] theorem State.modCue_portTallies : (s.modCue n f).portTallies = s.portTallies := rfl
@[simp] theorem State.modCue_presets : (s.modCue n f).presets = s.presets := rfl
@[simp] theorem State.modCue_tone : (s.modCue n f).tone = s.tone := rfl
@[simp] theorem State.modCue_cues : (s.modCue n f).cues = adjust s.cues n f := rfl
@[simp] theorem State.modCue_requests : (s.modCue n f).requests = s.requests := rfl
@[simp] theorem State.modCue_replySlot : (s.modCue n f).replySlot = s.replySlot := rfl
@[simp] theorem State.modCue_reports : (s.modCue n f).reports = s.reports := rfl
@[simp] theorem State.modCue_upSeq : (s.modCue n f).upSeq = s.upSeq := rfl
@[simp] theorem State.modCue_sendingSeq : (s.modCue n f).sendingSeq = s.sendingSeq := rfl
end

section
variable (f : CueNo → Cue → Cue) (s : State)
@[simp] theorem State.mapCues_pending : (s.mapCues f).pending = s.pending := by simp only [State.mapCues]
@[simp] theorem State.mapCues_wordClock : (s.mapCues f).wordClock = s.wordClock := by simp only [State.mapCues]
@[simp] theorem State.mapCues_screens : (s.mapCues f).screens = s.screens := by simp only [State.mapCues]
@[simp] theorem State.mapCues_entries : (s.mapCues f).entries = s.entries := by simp only [State.mapCues]
@[simp] theorem State.mapCues_freeSlots : (s.mapCues f).freeSlots = s.freeSlots := by simp only [State.mapCues]
@[simp] theorem State.mapCues_portTallies : (s.mapCues f).portTallies = s.portTallies := by simp only [State.mapCues]
@[simp] theorem State.mapCues_presets : (s.mapCues f).presets = s.presets := by simp only [State.mapCues]
@[simp] theorem State.mapCues_tone : (s.mapCues f).tone = s.tone := by simp only [State.mapCues]
@[simp] theorem State.mapCues_cues : (s.mapCues f).cues = tabulate fun n => f n s.cues[n] := by simp only [State.mapCues]
@[simp] theorem State.mapCues_requests : (s.mapCues f).requests = s.requests := by simp only [State.mapCues]
@[simp] theorem State.mapCues_replySlot : (s.mapCues f).replySlot = s.replySlot := by simp only [State.mapCues]
@[simp] theorem State.mapCues_reports : (s.mapCues f).reports = s.reports := by simp only [State.mapCues]
@[simp] theorem State.mapCues_upSeq : (s.mapCues f).upSeq = s.upSeq := by simp only [State.mapCues]
@[simp] theorem State.mapCues_sendingSeq : (s.mapCues f).sendingSeq = s.sendingSeq := by simp only [State.mapCues]
end

section
variable (n : Nat) (s : State)
@[simp] theorem State.release_pending : (s.release n).pending = s.pending := rfl
@[simp] theorem State.release_wordClock : (s.release n).wordClock = s.wordClock := rfl
@[simp] theorem State.release_screens : (s.release n).screens = s.screens := rfl
@[simp] theorem State.release_entries : (s.release n).entries = s.entries := rfl
@[simp] theorem State.release_freeSlots : (s.release n).freeSlots = s.freeSlots + n := rfl
@[simp] theorem State.release_portTallies : (s.release n).portTallies = s.portTallies := rfl
@[simp] theorem State.release_presets : (s.release n).presets = s.presets := rfl
@[simp] theorem State.release_tone : (s.release n).tone = s.tone := rfl
@[simp] theorem State.release_cues : (s.release n).cues = s.cues := rfl
@[simp] theorem State.release_requests : (s.release n).requests = s.requests := rfl
@[simp] theorem State.release_replySlot : (s.release n).replySlot = s.replySlot := rfl
@[simp] theorem State.release_reports : (s.release n).reports = s.reports := rfl
@[simp] theorem State.release_upSeq : (s.release n).upSeq = s.upSeq := rfl
@[simp] theorem State.release_sendingSeq : (s.release n).sendingSeq = s.sendingSeq := rfl
end

section
variable (p : PresetNo) (r : Preset) (s : State)
@[simp] theorem State.setPreset_pending : (s.setPreset p r).pending = s.pending := rfl
@[simp] theorem State.setPreset_wordClock : (s.setPreset p r).wordClock = s.wordClock := rfl
@[simp] theorem State.setPreset_screens : (s.setPreset p r).screens = s.screens := rfl
@[simp] theorem State.setPreset_entries : (s.setPreset p r).entries = s.entries := rfl
@[simp] theorem State.setPreset_freeSlots : (s.setPreset p r).freeSlots = s.freeSlots := rfl
@[simp] theorem State.setPreset_portTallies : (s.setPreset p r).portTallies = s.portTallies := rfl
@[simp] theorem State.setPreset_presets : (s.setPreset p r).presets = adjust s.presets p fun _ => r := rfl
@[simp] theorem State.setPreset_tone : (s.setPreset p r).tone = s.tone := rfl
@[simp] theorem State.setPreset_cues : (s.setPreset p r).cues = s.cues := rfl
@[simp] theorem State.setPreset_requests : (s.setPreset p r).requests = s.requests := rfl
@[simp] theorem State.setPreset_replySlot : (s.setPreset p r).replySlot = s.replySlot := rfl
@[simp] theorem State.setPreset_reports : (s.setPreset p r).reports = s.reports := rfl
@[simp] theorem State.setPreset_upSeq : (s.setPreset p r).upSeq = s.upSeq := rfl
@[simp] theorem State.setPreset_sendingSeq : (s.setPreset p r).sendingSeq = s.sendingSeq := rfl
end

section
variable (t : PortTally) (s : State)
@[simp] theorem State.bumpPort_pending : (s.bumpPort t).pending = s.pending := rfl
@[simp] theorem State.bumpPort_wordClock : (s.bumpPort t).wordClock = s.wordClock := rfl
@[simp] theorem State.bumpPort_screens : (s.bumpPort t).screens = s.screens := rfl
@[simp] theorem State.bumpPort_entries : (s.bumpPort t).entries = s.entries := rfl
@[simp] theorem State.bumpPort_freeSlots : (s.bumpPort t).freeSlots = s.freeSlots := rfl
@[simp] theorem State.bumpPort_portTallies : (s.bumpPort t).portTallies = adjust s.portTallies t.place satInc := rfl
@[simp] theorem State.bumpPort_presets : (s.bumpPort t).presets = s.presets := rfl
@[simp] theorem State.bumpPort_tone : (s.bumpPort t).tone = s.tone := rfl
@[simp] theorem State.bumpPort_cues : (s.bumpPort t).cues = s.cues := rfl
@[simp] theorem State.bumpPort_requests : (s.bumpPort t).requests = s.requests := rfl
@[simp] theorem State.bumpPort_replySlot : (s.bumpPort t).replySlot = s.replySlot := rfl
@[simp] theorem State.bumpPort_reports : (s.bumpPort t).reports = s.reports := rfl
@[simp] theorem State.bumpPort_upSeq : (s.bumpPort t).upSeq = s.upSeq := rfl
@[simp] theorem State.bumpPort_sendingSeq : (s.bumpPort t).sendingSeq = s.sendingSeq := rfl
end

section
variable (e : EntryNo) (t : EntryTally) (n : Nat) (s : State)
@[simp] theorem State.bumpEntry_pending : (s.bumpEntry e t n).pending = s.pending := rfl
@[simp] theorem State.bumpEntry_wordClock : (s.bumpEntry e t n).wordClock = s.wordClock := rfl
@[simp] theorem State.bumpEntry_screens : (s.bumpEntry e t n).screens = s.screens := rfl
@[simp] theorem State.bumpEntry_entries : (s.bumpEntry e t n).entries = 
    adjust s.entries e fun x => { x with tallies := adjust x.tallies t.place (satAdd · n) } := rfl
@[simp] theorem State.bumpEntry_freeSlots : (s.bumpEntry e t n).freeSlots = s.freeSlots := rfl
@[simp] theorem State.bumpEntry_portTallies : (s.bumpEntry e t n).portTallies = s.portTallies := rfl
@[simp] theorem State.bumpEntry_presets : (s.bumpEntry e t n).presets = s.presets := rfl
@[simp] theorem State.bumpEntry_tone : (s.bumpEntry e t n).tone = s.tone := rfl
@[simp] theorem State.bumpEntry_cues : (s.bumpEntry e t n).cues = s.cues := rfl
@[simp] theorem State.bumpEntry_requests : (s.bumpEntry e t n).requests = s.requests := rfl
@[simp] theorem State.bumpEntry_replySlot : (s.bumpEntry e t n).replySlot = s.replySlot := rfl
@[simp] theorem State.bumpEntry_reports : (s.bumpEntry e t n).reports = s.reports := rfl
@[simp] theorem State.bumpEntry_upSeq : (s.bumpEntry e t n).upSeq = s.upSeq := rfl
@[simp] theorem State.bumpEntry_sendingSeq : (s.bumpEntry e t n).sendingSeq = s.sendingSeq := rfl
end

section
variable (i : ScreenNo) (t : ScreenTally) (s : State)
@[simp] theorem State.bumpScreen_pending : (s.bumpScreen i t).pending = s.pending := rfl
@[simp] theorem State.bumpScreen_wordClock : (s.bumpScreen i t).wordClock = s.wordClock := rfl
@[simp] theorem State.bumpScreen_screens : (s.bumpScreen i t).screens = adjust s.screens i (Screen.bump t) := rfl
@[simp] theorem State.bumpScreen_entries : (s.bumpScreen i t).entries = s.entries := rfl
@[simp] theorem State.bumpScreen_freeSlots : (s.bumpScreen i t).freeSlots = s.freeSlots := rfl
@[simp] theorem State.bumpScreen_portTallies : (s.bumpScreen i t).portTallies = s.portTallies := rfl
@[simp] theorem State.bumpScreen_presets : (s.bumpScreen i t).presets = s.presets := rfl
@[simp] theorem State.bumpScreen_tone : (s.bumpScreen i t).tone = s.tone := rfl
@[simp] theorem State.bumpScreen_cues : (s.bumpScreen i t).cues = s.cues := rfl
@[simp] theorem State.bumpScreen_requests : (s.bumpScreen i t).requests = s.requests := rfl
@[simp] theorem State.bumpScreen_replySlot : (s.bumpScreen i t).replySlot = s.replySlot := rfl
@[simp] theorem State.bumpScreen_reports : (s.bumpScreen i t).reports = s.reports := rfl
@[simp] theorem State.bumpScreen_upSeq : (s.bumpScreen i t).upSeq = s.upSeq := rfl
@[simp] theorem State.bumpScreen_sendingSeq : (s.bumpScreen i t).sendingSeq = s.sendingSeq := rfl
end

section
variable (i : ScreenNo) (f : Clock → Clock) (s : State)
@[simp] theorem State.modClock_pending : (s.modClock i f).pending = s.pending := rfl
@[simp] theorem State.modClock_wordClock : (s.modClock i f).wordClock = s.wordClock := rfl
@[simp] theorem State.modClock_screens : (s.modClock i f).screens = 
    adjust s.screens i fun x => { x with clock := f x.clock } := rfl
@[simp] theorem State.modClock_entries : (s.modClock i f).entries = s.entries := rfl
@[simp] theorem State.modClock_freeSlots : (s.modClock i f).freeSlots = s.freeSlots := rfl
@[simp] theorem State.modClock_portTallies : (s.modClock i f).portTallies = s.portTallies := rfl
@[simp] theorem State.modClock_presets : (s.modClock i f).presets = s.presets := rfl
@[simp] theorem State.modClock_tone : (s.modClock i f).tone = s.tone := rfl
@[simp] theorem State.modClock_cues : (s.modClock i f).cues = s.cues := rfl
@[simp] theorem State.modClock_requests : (s.modClock i f).requests = s.requests := rfl
@[simp] theorem State.modClock_replySlot : (s.modClock i f).replySlot = s.replySlot := rfl
@[simp] theorem State.modClock_reports : (s.modClock i f).reports = s.reports := rfl
@[simp] theorem State.modClock_upSeq : (s.modClock i f).upSeq = s.upSeq := rfl
@[simp] theorem State.modClock_sendingSeq : (s.modClock i f).sendingSeq = s.sendingSeq := rfl
end

section
variable (i : ScreenNo) (f : Level → Level) (s : State)
@[simp] theorem State.modLevel_pending : (s.modLevel i f).pending = s.pending := rfl
@[simp] theorem State.modLevel_wordClock : (s.modLevel i f).wordClock = s.wordClock := rfl
@[simp] theorem State.modLevel_screens : (s.modLevel i f).screens = 
    adjust s.screens i fun x => { x with level := f x.level } := rfl
@[simp] theorem State.modLevel_entries : (s.modLevel i f).entries = s.entries := rfl
@[simp] theorem State.modLevel_freeSlots : (s.modLevel i f).freeSlots = s.freeSlots := rfl
@[simp] theorem State.modLevel_portTallies : (s.modLevel i f).portTallies = s.portTallies := rfl
@[simp] theorem State.modLevel_presets : (s.modLevel i f).presets = s.presets := rfl
@[simp] theorem State.modLevel_tone : (s.modLevel i f).tone = s.tone := rfl
@[simp] theorem State.modLevel_cues : (s.modLevel i f).cues = s.cues := rfl
@[simp] theorem State.modLevel_requests : (s.modLevel i f).requests = s.requests := rfl
@[simp] theorem State.modLevel_replySlot : (s.modLevel i f).replySlot = s.replySlot := rfl
@[simp] theorem State.modLevel_reports : (s.modLevel i f).reports = s.reports := rfl
@[simp] theorem State.modLevel_upSeq : (s.modLevel i f).upSeq = s.upSeq := rfl
@[simp] theorem State.modLevel_sendingSeq : (s.modLevel i f).sendingSeq = s.sendingSeq := rfl
end

section
variable (i : ScreenNo) (f : Signal → Signal) (s : State)
@[simp] theorem State.modSignal_pending : (s.modSignal i f).pending = s.pending := rfl
@[simp] theorem State.modSignal_wordClock : (s.modSignal i f).wordClock = s.wordClock := rfl
@[simp] theorem State.modSignal_screens : (s.modSignal i f).screens = 
    adjust s.screens i fun x => { x with signal := f x.signal } := rfl
@[simp] theorem State.modSignal_entries : (s.modSignal i f).entries = s.entries := rfl
@[simp] theorem State.modSignal_freeSlots : (s.modSignal i f).freeSlots = s.freeSlots := rfl
@[simp] theorem State.modSignal_portTallies : (s.modSignal i f).portTallies = s.portTallies := rfl
@[simp] theorem State.modSignal_presets : (s.modSignal i f).presets = s.presets := rfl
@[simp] theorem State.modSignal_tone : (s.modSignal i f).tone = s.tone := rfl
@[simp] theorem State.modSignal_cues : (s.modSignal i f).cues = s.cues := rfl
@[simp] theorem State.modSignal_requests : (s.modSignal i f).requests = s.requests := rfl
@[simp] theorem State.modSignal_replySlot : (s.modSignal i f).replySlot = s.replySlot := rfl
@[simp] theorem State.modSignal_reports : (s.modSignal i f).reports = s.reports := rfl
@[simp] theorem State.modSignal_upSeq : (s.modSignal i f).upSeq = s.upSeq := rfl
@[simp] theorem State.modSignal_sendingSeq : (s.modSignal i f).sendingSeq = s.sendingSeq := rfl
end

section
variable (i : ScreenNo) (k : FeedNo) (f : Feed → Feed) (s : State)
@[simp] theorem State.modFeed_pending : (s.modFeed i k f).pending = s.pending := rfl
@[simp] theorem State.modFeed_wordClock : (s.modFeed i k f).wordClock = s.wordClock := rfl
@[simp] theorem State.modFeed_screens : (s.modFeed i k f).screens = 
    adjust s.screens i fun x => { x with feeds := adjust x.feeds k f } := rfl
@[simp] theorem State.modFeed_entries : (s.modFeed i k f).entries = s.entries := rfl
@[simp] theorem State.modFeed_freeSlots : (s.modFeed i k f).freeSlots = s.freeSlots := rfl
@[simp] theorem State.modFeed_portTallies : (s.modFeed i k f).portTallies = s.portTallies := rfl
@[simp] theorem State.modFeed_presets : (s.modFeed i k f).presets = s.presets := rfl
@[simp] theorem State.modFeed_tone : (s.modFeed i k f).tone = s.tone := rfl
@[simp] theorem State.modFeed_cues : (s.modFeed i k f).cues = s.cues := rfl
@[simp] theorem State.modFeed_requests : (s.modFeed i k f).requests = s.requests := rfl
@[simp] theorem State.modFeed_replySlot : (s.modFeed i k f).replySlot = s.replySlot := rfl
@[simp] theorem State.modFeed_reports : (s.modFeed i k f).reports = s.reports := rfl
@[simp] theorem State.modFeed_upSeq : (s.modFeed i k f).upSeq = s.upSeq := rfl
@[simp] theorem State.modFeed_sendingSeq : (s.modFeed i k f).sendingSeq = s.sendingSeq := rfl
end

/-! ## One screen, entry or cue after an update -/

theorem State.modScreen_same (i : ScreenNo) (f : Screen → Screen) (s : State) :
    (s.modScreen i f).screens[i] = f s.screens[i] := adjust_same _ _ _

theorem State.modScreen_other (i j : ScreenNo) (f : Screen → Screen) (s : State) (h : j ≠ i) :
    (s.modScreen i f).screens[j] = s.screens[j] := adjust_other _ _ _ _ h

theorem State.modEntry_same (e : EntryNo) (f : StreamEntry → StreamEntry) (s : State) :
    (s.modEntry e f).entries[e] = f s.entries[e] := adjust_same _ _ _

theorem State.modEntry_other (e o : EntryNo) (f : StreamEntry → StreamEntry) (s : State) (h : o ≠ e) :
    (s.modEntry e f).entries[o] = s.entries[o] := adjust_other _ _ _ _ h

theorem State.modCue_same (n : CueNo) (f : Cue → Cue) (s : State) : (s.modCue n f).cues[n] = f s.cues[n] :=
  adjust_same _ _ _

theorem State.modCue_other (n m : CueNo) (f : Cue → Cue) (s : State) (h : m ≠ n) :
    (s.modCue n f).cues[m] = s.cues[m] := adjust_other _ _ _ _ h

theorem State.mapCues_get (f : CueNo → Cue → Cue) (s : State) (n : CueNo) : (s.mapCues f).cues[n] = f n s.cues[n] :=
  tabulate_get _ n

/-- Two updates of one screen are one. -/
theorem State.modScreen_modScreen (i : ScreenNo) (f g : Screen → Screen) (s : State) :
    (s.modScreen i f).modScreen i g = s.modScreen i fun x => g (f x) := by
  simp only [State.modScreen, adjust_adjust]

/-- A screen updated to itself leaves the state as it was. -/
theorem State.modScreen_id (i : ScreenNo) (s : State) : (s.modScreen i fun x => x) = s := by
  have h : adjust s.screens i (fun x => x) = s.screens := by
    apply table_ext
    intro j
    rw [adjust_get]
    split
    · next h => rw [h]
    · rfl
  simp only [State.modScreen, h]

/-- Entry k of a tally table once tally t of it has been raised by n. -/
theorem State.bumpEntry_tally (e : EntryNo) (t : EntryTally) (n : Nat) (s : State) :
    (s.bumpEntry e t n).entries[e].tallies[t.place] = satAdd s.entries[e].tallies[t.place] n := by
  rw [State.bumpEntry, State.modEntry_same]
  exact adjust_same _ _ _

/-! ## The fields of a screen that its updates keep -/

section
variable (t : ScreenTally) (x : Screen)
@[simp] theorem Screen.bump_settings : (x.bump t).settings = x.settings := rfl
@[simp] theorem Screen.bump_playout : (x.bump t).playout = x.playout := rfl
@[simp] theorem Screen.bump_clock : (x.bump t).clock = x.clock := rfl
@[simp] theorem Screen.bump_render : (x.bump t).render = x.render := rfl
@[simp] theorem Screen.bump_level : (x.bump t).level = x.level := rfl
@[simp] theorem Screen.bump_feeds : (x.bump t).feeds = x.feeds := rfl
@[simp] theorem Screen.bump_signal : (x.bump t).signal = x.signal := rfl
@[simp] theorem Screen.bump_lanes : (x.bump t).lanes = x.lanes := rfl
@[simp] theorem Screen.bump_channelHolds : (x.bump t).channelHolds = x.channelHolds := rfl
@[simp] theorem Screen.bump_meterCount : (x.bump t).meterCount = x.meterCount := rfl
@[simp] theorem Screen.bump_records : (x.bump t).records = x.records := rfl
@[simp] theorem Screen.bump_profiles : (x.bump t).profiles = x.profiles := rfl
@[simp] theorem Screen.bump_markers : (x.bump t).markers = x.markers := rfl
@[simp] theorem Screen.bump_noticeLost : (x.bump t).noticeLost = x.noticeLost := rfl
end

section
variable (m : ScreenMode) (x : Screen)
@[simp] theorem Screen.setMode_settings : (x.setMode m).settings = x.settings := rfl
@[simp] theorem Screen.setMode_tallies : (x.setMode m).tallies = x.tallies := rfl
@[simp] theorem Screen.setMode_clock : (x.setMode m).clock = x.clock := rfl
@[simp] theorem Screen.setMode_render : (x.setMode m).render = x.render := rfl
@[simp] theorem Screen.setMode_level : (x.setMode m).level = x.level := rfl
@[simp] theorem Screen.setMode_feeds : (x.setMode m).feeds = x.feeds := rfl
@[simp] theorem Screen.setMode_signal : (x.setMode m).signal = x.signal := rfl
@[simp] theorem Screen.setMode_lanes : (x.setMode m).lanes = x.lanes := rfl
@[simp] theorem Screen.setMode_channelHolds : (x.setMode m).channelHolds = x.channelHolds := rfl
@[simp] theorem Screen.setMode_meterCount : (x.setMode m).meterCount = x.meterCount := rfl
@[simp] theorem Screen.setMode_records : (x.setMode m).records = x.records := rfl
@[simp] theorem Screen.setMode_profiles : (x.setMode m).profiles = x.profiles := rfl
@[simp] theorem Screen.setMode_markers : (x.setMode m).markers = x.markers := rfl
@[simp] theorem Screen.setMode_noticeLost : (x.setMode m).noticeLost = x.noticeLost := rfl
end

section
variable (x : Screen)
@[simp] theorem Screen.resetRecords_settings : (x.resetRecords).settings = x.settings := rfl
@[simp] theorem Screen.resetRecords_playout : (x.resetRecords).playout = x.playout := rfl
@[simp] theorem Screen.resetRecords_tallies : (x.resetRecords).tallies = x.tallies := rfl
@[simp] theorem Screen.resetRecords_clock : (x.resetRecords).clock = x.clock := rfl
@[simp] theorem Screen.resetRecords_render : (x.resetRecords).render = x.render := rfl
@[simp] theorem Screen.resetRecords_level : (x.resetRecords).level = x.level := rfl
@[simp] theorem Screen.resetRecords_feeds : (x.resetRecords).feeds = x.feeds := rfl
@[simp] theorem Screen.resetRecords_signal : (x.resetRecords).signal = x.signal := rfl
@[simp] theorem Screen.resetRecords_lanes : (x.resetRecords).lanes = x.lanes := rfl
@[simp] theorem Screen.resetRecords_channelHolds : (x.resetRecords).channelHolds = x.channelHolds := rfl
@[simp] theorem Screen.resetRecords_meterCount : (x.resetRecords).meterCount = x.meterCount := rfl
@[simp] theorem Screen.resetRecords_profiles : (x.resetRecords).profiles = x.profiles := rfl
@[simp] theorem Screen.resetRecords_markers : (x.resetRecords).markers = x.markers := rfl
@[simp] theorem Screen.resetRecords_noticeLost : (x.resetRecords).noticeLost = x.noticeLost := rfl
end

section
variable (m : ClockMode) (x : Screen)
@[simp] theorem Screen.changeMode_settings : (x.changeMode m).settings = x.settings := rfl
@[simp] theorem Screen.changeMode_tallies : (x.changeMode m).tallies = x.tallies := rfl
@[simp] theorem Screen.changeMode_render : (x.changeMode m).render = x.render := rfl
@[simp] theorem Screen.changeMode_level : (x.changeMode m).level = x.level := rfl
@[simp] theorem Screen.changeMode_feeds : (x.changeMode m).feeds = x.feeds := rfl
@[simp] theorem Screen.changeMode_signal : (x.changeMode m).signal = x.signal := rfl
@[simp] theorem Screen.changeMode_lanes : (x.changeMode m).lanes = x.lanes := rfl
@[simp] theorem Screen.changeMode_channelHolds : (x.changeMode m).channelHolds = x.channelHolds := rfl
@[simp] theorem Screen.changeMode_meterCount : (x.changeMode m).meterCount = x.meterCount := rfl
@[simp] theorem Screen.changeMode_records : (x.changeMode m).records = x.records := rfl
@[simp] theorem Screen.changeMode_profiles : (x.changeMode m).profiles = x.profiles := rfl
@[simp] theorem Screen.changeMode_markers : (x.changeMode m).markers = x.markers := rfl
@[simp] theorem Screen.changeMode_noticeLost : (x.changeMode m).noticeLost = x.noticeLost := rfl
end

section
variable (now : Nat) (r : ScreenSettings) (x : Screen)
@[simp] theorem Screen.storeSettings_tallies : (x.storeSettings now r).tallies = x.tallies := rfl
@[simp] theorem Screen.storeSettings_clock : (x.storeSettings now r).clock = x.clock := rfl
@[simp] theorem Screen.storeSettings_render : (x.storeSettings now r).render = x.render := rfl
@[simp] theorem Screen.storeSettings_level : (x.storeSettings now r).level = x.level := rfl
@[simp] theorem Screen.storeSettings_feeds : (x.storeSettings now r).feeds = x.feeds := rfl
@[simp] theorem Screen.storeSettings_signal : (x.storeSettings now r).signal = x.signal := rfl
@[simp] theorem Screen.storeSettings_lanes : (x.storeSettings now r).lanes = x.lanes := rfl
@[simp] theorem Screen.storeSettings_channelHolds : (x.storeSettings now r).channelHolds = x.channelHolds := rfl
@[simp] theorem Screen.storeSettings_records : (x.storeSettings now r).records = x.records := rfl
@[simp] theorem Screen.storeSettings_profiles : (x.storeSettings now r).profiles = x.profiles := rfl
@[simp] theorem Screen.storeSettings_markers : (x.storeSettings now r).markers = x.markers := rfl
@[simp] theorem Screen.storeSettings_noticeLost : (x.storeSettings now r).noticeLost = x.noticeLost := rfl
end

end Sys2Proof.Machine
end

