-- ==== Sys2Proof/Laws/Reports.lean ====
section
/-! SUPPORT. What the operations of the Report Queue can do (R168, R174, R175): a frame placed, a notice offered, a
reply offered. -/

namespace Sys2Proof.Machine

theorem State.reportSpace_iff (s : State) : s.reportSpace = true ↔ s.reports.length < 32 := by
  simp [State.reportSpace]

/-- Taking the upstream sequence changes `sendingSeq` and `upSeq` alone. -/
theorem State.startSending_eq (s : State) :
    s.startSending = { s with sendingSeq := s.startSending.sendingSeq, upSeq := s.startSending.upSeq } := by
  simp only [State.startSending]
  split <;> rfl

/-- A frame placed at the tail while a sequence is taken exactly by a head frame. -/
theorem State.place_eq_placed (s : State) (f : UpFrame) (h : s.sendingSeq.isSome ↔ s.reports ≠ []) :
    s.place f = s.placed f := by
  cases hr : s.reports with
  | nil =>
      have hn : s.sendingSeq = none := by
        cases hs : s.sendingSeq with
        | none => rfl
        | some q => exact absurd hr (h.mp (by simp [hs]))
      simp [State.place, State.startSending, State.placed, hr, hn]
  | cons g rest =>
      cases hs : s.sendingSeq with
      | none => exact absurd (h.mpr (by simp [hr])) (by simp [hs])
      | some q => simp [State.place, State.startSending, State.placed, hr, hs]

/-- Placing a frame appends it to the Report Queue and can only take a sequence besides. -/
theorem State.place_eq (s : State) (f : UpFrame) :
    s.place f =
      { s with reports := s.reports ++ [f], sendingSeq := (s.place f).sendingSeq, upSeq := (s.place f).upSeq } := by
  simp only [State.place]
  rw [State.startSending_eq]

/-- R174: a notice with space is placed. -/
theorem State.offerNotice_of_space (s : State) (n : Notice) (h : s.reports.length < 32) :
    s.offerNotice n = s.place (.notice n) := by
  simp [State.offerNotice, (State.reportSpace_iff s).mpr h]

/-- R175: a notice without space is dropped and its screen's notice-lost flag set. -/
theorem State.offerNotice_of_full (s : State) (n : Notice) (h : ¬s.reports.length < 32) :
    s.offerNotice n = s.modScreen n.screen fun x => { x with noticeLost := true } := by
  have : s.reportSpace = false := by simp [State.reportSpace, Nat.not_lt.mp h]
  simp [State.offerNotice, this]

/-- R168: a reply with space is placed. -/
theorem State.offerReply_of_space (s : State) (r : Reply) (h : s.reports.length < 32) :
    s.offerReply r = s.place (.reply r) := by
  simp [State.offerReply, (State.reportSpace_iff s).mpr h]

/-- R168: a reply without space waits in the reply slot. -/
theorem State.offerReply_of_full (s : State) (r : Reply) (h : ¬s.reports.length < 32) :
    s.offerReply r = { s with replySlot := some r } := by
  have : s.reportSpace = false := by simp [State.reportSpace, Nat.not_lt.mp h]
  simp [State.offerReply, this]

/-! ## Fields a frame placed leaves as they were -/

section
variable (f : UpFrame) (s : State)

@[simp] theorem State.place_pending : (s.place f).pending = s.pending := by rw [State.place_eq]
@[simp] theorem State.place_wordClock : (s.place f).wordClock = s.wordClock := by rw [State.place_eq]
@[simp] theorem State.place_entries : (s.place f).entries = s.entries := by rw [State.place_eq]
@[simp] theorem State.place_freeSlots : (s.place f).freeSlots = s.freeSlots := by rw [State.place_eq]
@[simp] theorem State.place_portTallies : (s.place f).portTallies = s.portTallies := by rw [State.place_eq]
@[simp] theorem State.place_presets : (s.place f).presets = s.presets := by rw [State.place_eq]
@[simp] theorem State.place_tone : (s.place f).tone = s.tone := by rw [State.place_eq]
@[simp] theorem State.place_cues : (s.place f).cues = s.cues := by rw [State.place_eq]
@[simp] theorem State.place_requests : (s.place f).requests = s.requests := by rw [State.place_eq]
@[simp] theorem State.place_replySlot : (s.place f).replySlot = s.replySlot := by rw [State.place_eq]
@[simp] theorem State.place_screens : (s.place f).screens = s.screens := by rw [State.place_eq]
@[simp] theorem State.place_reports : (s.place f).reports = s.reports ++ [f] := by rw [State.place_eq]
end

/-! ## Fields a notice leaves as they were -/

section
variable (n : Notice) (s : State)

/-- The notice changes the Report Queue with its sequence, or the notice-lost flag of its screen. -/
theorem State.offerNotice_cases :
    s.offerNotice n = s.place (.notice n) ∨ s.offerNotice n = s.modScreen n.screen fun x => { x with noticeLost := true } := by
  by_cases h : s.reports.length < 32
  · exact .inl (s.offerNotice_of_space n h)
  · exact .inr (s.offerNotice_of_full n h)

@[simp] theorem State.offerNotice_pending : (s.offerNotice n).pending = s.pending := by
  rcases s.offerNotice_cases n with h | h <;> simp [h]
@[simp] theorem State.offerNotice_wordClock : (s.offerNotice n).wordClock = s.wordClock := by
  rcases s.offerNotice_cases n with h | h <;> simp [h]
@[simp] theorem State.offerNotice_entries : (s.offerNotice n).entries = s.entries := by
  rcases s.offerNotice_cases n with h | h <;> simp [h]
@[simp] theorem State.offerNotice_freeSlots : (s.offerNotice n).freeSlots = s.freeSlots := by
  rcases s.offerNotice_cases n with h | h <;> simp [h]
@[simp] theorem State.offerNotice_portTallies : (s.offerNotice n).portTallies = s.portTallies := by
  rcases s.offerNotice_cases n with h | h <;> simp [h]
@[simp] theorem State.offerNotice_presets : (s.offerNotice n).presets = s.presets := by
  rcases s.offerNotice_cases n with h | h <;> simp [h]
@[simp] theorem State.offerNotice_tone : (s.offerNotice n).tone = s.tone := by
  rcases s.offerNotice_cases n with h | h <;> simp [h]
@[simp] theorem State.offerNotice_cues : (s.offerNotice n).cues = s.cues := by
  rcases s.offerNotice_cases n with h | h <;> simp [h]
@[simp] theorem State.offerNotice_requests : (s.offerNotice n).requests = s.requests := by
  rcases s.offerNotice_cases n with h | h <;> simp [h]
@[simp] theorem State.offerNotice_replySlot : (s.offerNotice n).replySlot = s.replySlot := by
  rcases s.offerNotice_cases n with h | h <;> simp [h]

/-- A screen after a notice: its notice-lost flag alone may differ. -/
theorem State.offerNotice_screen (j : ScreenNo) :
    (s.offerNotice n).screens[j] =
      { s.screens[j] with noticeLost := (s.offerNotice n).screens[j].noticeLost } := by
  rcases s.offerNotice_cases n with h | h
  · simp [h]
  · rw [h]
    by_cases hj : j = n.screen
    · subst hj; rw [State.modScreen_same]
    · rw [State.modScreen_other _ _ _ _ hj]

theorem State.offerNotice_screen_settings (j : ScreenNo) : (s.offerNotice n).screens[j].settings = s.screens[j].settings := by
  rw [State.offerNotice_screen]
theorem State.offerNotice_screen_playout (j : ScreenNo) : (s.offerNotice n).screens[j].playout = s.screens[j].playout := by
  rw [State.offerNotice_screen]
theorem State.offerNotice_screen_tallies (j : ScreenNo) : (s.offerNotice n).screens[j].tallies = s.screens[j].tallies := by
  rw [State.offerNotice_screen]
theorem State.offerNotice_screen_clock (j : ScreenNo) : (s.offerNotice n).screens[j].clock = s.screens[j].clock := by
  rw [State.offerNotice_screen]
theorem State.offerNotice_screen_render (j : ScreenNo) : (s.offerNotice n).screens[j].render = s.screens[j].render := by
  rw [State.offerNotice_screen]
theorem State.offerNotice_screen_level (j : ScreenNo) : (s.offerNotice n).screens[j].level = s.screens[j].level := by
  rw [State.offerNotice_screen]
theorem State.offerNotice_screen_feeds (j : ScreenNo) : (s.offerNotice n).screens[j].feeds = s.screens[j].feeds := by
  rw [State.offerNotice_screen]
theorem State.offerNotice_screen_signal (j : ScreenNo) : (s.offerNotice n).screens[j].signal = s.screens[j].signal := by
  rw [State.offerNotice_screen]
theorem State.offerNotice_screen_lanes (j : ScreenNo) : (s.offerNotice n).screens[j].lanes = s.screens[j].lanes := by
  rw [State.offerNotice_screen]
theorem State.offerNotice_screen_channelHolds (j : ScreenNo) : (s.offerNotice n).screens[j].channelHolds = s.screens[j].channelHolds := by
  rw [State.offerNotice_screen]
theorem State.offerNotice_screen_meterCount (j : ScreenNo) : (s.offerNotice n).screens[j].meterCount = s.screens[j].meterCount := by
  rw [State.offerNotice_screen]
theorem State.offerNotice_screen_records (j : ScreenNo) : (s.offerNotice n).screens[j].records = s.screens[j].records := by
  rw [State.offerNotice_screen]
theorem State.offerNotice_screen_profiles (j : ScreenNo) : (s.offerNotice n).screens[j].profiles = s.screens[j].profiles := by
  rw [State.offerNotice_screen]
theorem State.offerNotice_screen_markers (j : ScreenNo) : (s.offerNotice n).screens[j].markers = s.screens[j].markers := by
  rw [State.offerNotice_screen]

/-- A notice of one screen leaves the other screens as they were. -/
theorem State.offerNotice_other (j : ScreenNo) (h : j ≠ n.screen) : (s.offerNotice n).screens[j] = s.screens[j] := by
  rcases s.offerNotice_cases n with hc | hc
  · rw [hc, State.place_screens]
  · rw [hc, State.modScreen_other _ _ _ _ h]

/-- A set notice-lost flag stays set. -/
theorem State.offerNotice_noticeLost (j : ScreenNo) (h : s.screens[j].noticeLost = true) :
    (s.offerNotice n).screens[j].noticeLost = true := by
  rcases s.offerNotice_cases n with hc | hc
  · rw [hc, State.place_screens]; exact h
  · rw [hc]
    by_cases hj : j = n.screen
    · subst hj; rw [State.modScreen_same]
    · rw [State.modScreen_other _ _ _ _ hj]; exact h
end

/-! ## Fields a reply leaves as they were -/

section
variable (r : Reply) (s : State)

/-- The reply changes the Report Queue with its sequence, or the reply slot. -/
theorem State.offerReply_cases :
    s.offerReply r = s.place (.reply r) ∨ s.offerReply r = { s with replySlot := some r } := by
  by_cases h : s.reports.length < 32
  · exact .inl (s.offerReply_of_space r h)
  · exact .inr (s.offerReply_of_full r h)

@[simp] theorem State.offerReply_pending : (s.offerReply r).pending = s.pending := by
  rcases s.offerReply_cases r with h | h <;> simp [h]
@[simp] theorem State.offerReply_wordClock : (s.offerReply r).wordClock = s.wordClock := by
  rcases s.offerReply_cases r with h | h <;> simp [h]
@[simp] theorem State.offerReply_entries : (s.offerReply r).entries = s.entries := by
  rcases s.offerReply_cases r with h | h <;> simp [h]
@[simp] theorem State.offerReply_freeSlots : (s.offerReply r).freeSlots = s.freeSlots := by
  rcases s.offerReply_cases r with h | h <;> simp [h]
@[simp] theorem State.offerReply_portTallies : (s.offerReply r).portTallies = s.portTallies := by
  rcases s.offerReply_cases r with h | h <;> simp [h]
@[simp] theorem State.offerReply_presets : (s.offerReply r).presets = s.presets := by
  rcases s.offerReply_cases r with h | h <;> simp [h]
@[simp] theorem State.offerReply_tone : (s.offerReply r).tone = s.tone := by
  rcases s.offerReply_cases r with h | h <;> simp [h]
@[simp] theorem State.offerReply_cues : (s.offerReply r).cues = s.cues := by
  rcases s.offerReply_cases r with h | h <;> simp [h]
@[simp] theorem State.offerReply_requests : (s.offerReply r).requests = s.requests := by
  rcases s.offerReply_cases r with h | h <;> simp [h]
@[simp] theorem State.offerReply_screens : (s.offerReply r).screens = s.screens := by
  rcases s.offerReply_cases r with h | h <;> simp [h]
end

end Sys2Proof.Machine
end

