-- ==== Sys2Proof/Laws/Clocks.lean ====
section
/-! SUPPORT. What a step of ST, a reference decision and the piece of a boundary at the Screen Clock can do (R49 to
R61, R161). -/

namespace Sys2Proof.Machine

/-! ## Cues released and rearmed -/

/-- R163: a cue once the children of the cues that left FIRED are released. -/
theorem State.releaseChildren_get (left : CueNo → Bool) (s : State) (n : CueNo) :
    (s.releaseChildren left).cues[n] = if s.cues[n].releasedBy left then s.cues[n].toPending else s.cues[n] :=
  State.mapCues_get _ _ _

/-- R163: releasing the children of no cue changes nothing. -/
theorem Cue.releasedBy_none (c : Cue) : c.releasedBy (fun _ => false) = false := by
  simp [Cue.releasedBy]

/-- R161: a rearm changes the cues alone. -/
theorem State.rearmCues_eq (i : ScreenNo) (t : ScreenTime) (s : State) :
    s.rearmCues i t = { s with cues := (s.rearmCues i t).cues } := by
  simp only [State.rearmCues, State.releaseChildren, State.mapCues]

/-- R161: no rearm changes a written field. -/
theorem State.rearmCues_spec (i : ScreenNo) (t : ScreenTime) (s : State) (n : CueNo) :
    (s.rearmCues i t).cues[n].spec = s.cues[n].spec := by
  simp only [State.rearmCues]
  rw [State.releaseChildren_get, State.mapCues_get]
  by_cases h : s.cues[n].rearmedBy i t = true <;> simp only [h, if_true, Bool.false_eq_true, if_false] <;>
    split <;> rfl

/-! ## Steps -/

/-- R51: a step of amount 0 is not made. -/
theorem State.stepClock_zero (i : ScreenNo) (s : State) : s.stepClock i 0 = s := by simp [State.stepClock]

/-- R51, R161: a step touches the screens and the cues alone. -/
theorem State.stepClock_eq (i : ScreenNo) (d : Int) (s : State) :
    s.stepClock i d = { s with screens := (s.stepClock i d).screens, cues := (s.stepClock i d).cues } := by
  unfold State.stepClock
  split
  · rfl
  · dsimp only
    split
    · rw [State.rearmCues_eq]; rfl
    · rfl

/-- R51: the screens after a step by an amount other than 0: B moved and STEP raised on the one screen. -/
theorem State.stepClock_screens (i : ScreenNo) (d : Int) (s : State) (h : d ≠ 0) :
    (s.stepClock i d).screens =
      adjust s.screens i fun x =>
        Screen.bump .step { x with clock := { x.clock with base := x.clock.base + BitVec.ofInt 32 d } } := by
  unfold State.stepClock
  rw [if_neg h]
  dsimp only
  split
  · rw [State.rearmCues_eq]
    simp only [State.bumpScreen_screens, State.modClock_screens, adjust_adjust]
  · simp only [State.bumpScreen_screens, State.modClock_screens, adjust_adjust]

/-- R51: a step leaves the other screens as they were. -/
theorem State.stepClock_other (i j : ScreenNo) (d : Int) (s : State) (h : j ≠ i) :
    (s.stepClock i d).screens[j] = s.screens[j] := by
  by_cases hd : d = 0
  · rw [hd, State.stepClock_zero]
  · simp only [State.stepClock_screens i d s hd]
    exact adjust_other _ _ _ _ h

/-- R161: a forward step changes no cue. -/
theorem State.stepClock_cues_forward (i : ScreenNo) (d : Int) (s : State) (h : 0 ≤ d) :
    (s.stepClock i d).cues = s.cues := by
  unfold State.stepClock
  split
  · rfl
  · dsimp only
    rw [if_neg (by omega)]
    rfl

/-- R161: no step changes a written field of a cue. -/
theorem State.stepClock_spec (i : ScreenNo) (d : Int) (s : State) (n : CueNo) :
    (s.stepClock i d).cues[n].spec = s.cues[n].spec := by
  unfold State.stepClock
  split
  · rfl
  · dsimp only
    split
    · rw [State.rearmCues_spec]; rfl
    · rfl

/-! ## Clocks and notices -/

theorem State.modClock_same (i : ScreenNo) (f : Clock → Clock) (s : State) :
    (s.modClock i f).screens[i].clock = f s.screens[i].clock := by
  unfold State.modClock
  rw [State.modScreen_same]

theorem State.modClock_other (i j : ScreenNo) (f : Clock → Clock) (s : State) (h : j ≠ i) :
    (s.modClock i f).screens[j] = s.screens[j] := State.modScreen_other i j _ s h

/-- R64: a CLOCK notice leaves every clock as it was. -/
theorem State.raiseClock_clock (i j : ScreenNo) (d : Int) (s : State) :
    (s.raiseClock i d).screens[j].clock = s.screens[j].clock := State.offerNotice_screen_clock _ _ _

theorem State.raiseClock_other (i j : ScreenNo) (d : Int) (s : State) (h : j ≠ i) :
    (s.raiseClock i d).screens[j] = s.screens[j] := State.offerNotice_other _ _ _ h

/-- R50: the advance by the sign of slip. -/
theorem Clock.advance_cases (c : Clock) :
    (0 < c.slip ∧ c.advance = 49) ∨ (c.slip < 0 ∧ c.advance = 47) ∨ (c.slip = 0 ∧ c.advance = 48) := by
  unfold Clock.advance
  split
  · exact .inl ⟨‹_›, rfl⟩
  · split
    · exact .inr (.inl ⟨‹_›, rfl⟩)
    · exact .inr (.inr ⟨by omega, rfl⟩)

/-- R50: slip moves one towards 0. -/
theorem Clock.slipAfter_natAbs (c : Clock) : c.slipAfter.natAbs = c.slip.natAbs - 1 := by
  unfold Clock.slipAfter
  split
  · omega
  · split <;> omega

/-- R50: the block advance at the one screen. -/
theorem State.advanceClock_clock (i : ScreenNo) (s : State) :
    (s.advanceClock i).screens[i].clock =
      { s.screens[i].clock with
        base := s.screens[i].clock.base + BitVec.ofNat 32 s.screens[i].clock.advance
        elapsed := 0
        slip := s.screens[i].clock.slipAfter } := by
  unfold State.advanceClock
  dsimp only
  split
  · exact State.modClock_same _ _ _
  · rw [State.bumpScreen, State.modScreen_same]
    exact State.modClock_same _ _ _

theorem State.advanceClock_other (i j : ScreenNo) (s : State) (h : j ≠ i) :
    (s.advanceClock i).screens[j] = s.screens[j] := by
  unfold State.advanceClock
  dsimp only
  split
  · exact State.modClock_other _ _ _ _ h
  · rw [State.bumpScreen, State.modScreen_other _ _ _ _ h]
    exact State.modClock_other _ _ _ _ h

theorem State.countReference_other (i j : ScreenNo) (s : State) (h : j ≠ i) :
    (s.countReference i).screens[j] = s.screens[j] := by
  unfold State.countReference State.timeoutReference
  split
  · rw [State.raiseClock_other _ _ _ _ h, State.modClock_other _ _ _ _ h, State.modClock_other _ _ _ _ h]
  · exact State.modClock_other _ _ _ _ h

theorem State.resync_other (i j : ScreenNo) (s : State) (h : j ≠ i) : (s.resync i).screens[j] = s.screens[j] := by
  unfold State.resync
  split
  · rfl
  · dsimp only
    split
    · exact State.modScreen_other _ _ _ _ h
    · rw [State.raiseClock_other _ _ _ _ h, State.stepClock_other _ _ _ _ h]
      exact State.modScreen_other _ _ _ _ h

/-! ## The cues of a step -/

/-- R161: what a step rearms depends on the cues and on ST_now alone. -/
theorem State.stepClock_cues_congr (i : ScreenNo) (d : Int) {s t : State} (hc : t.cues = s.cues)
    (hn : t.stNow i = s.stNow i) :
    (t.stepClock i d).cues = (s.stepClock i d).cues := by
  unfold State.stepClock
  split
  · exact hc
  · have hb : ∀ v : State,
        ((v.modClock i fun c => { c with base := c.base + BitVec.ofInt 32 d }).bumpScreen i .step).stNow i =
          v.stNow i + BitVec.ofInt 32 d := by
      intro v
      unfold State.stNow Clock.now State.bumpScreen State.modClock
      rw [State.modScreen_same, State.modScreen_same]
      simp only [Screen.bump]
      bv_omega
    dsimp only
    split
    · rw [hb, hb, hn]
      unfold State.rearmCues State.releaseChildren State.mapCues
      have hcc : ∀ v : State,
          ((v.modClock i fun c => { c with base := c.base + BitVec.ofInt 32 d }).bumpScreen i .step).cues = v.cues :=
        fun _ => rfl
      dsimp only
      rw [hcc, hcc, hc]
    · exact hc

/-- R44, R161: a due resync leaves the cues of its step. -/
theorem State.resync_cues (i : ScreenNo) (s : State) (pt : ScreenTime) (h : s.screens[i].resyncTime = some pt) :
    (s.resync i).cues = (s.stepClock i (signedDiff pt (s.stNow i))).cues := by
  unfold State.resync
  rw [h]
  dsimp only
  have hn : ∀ f : Playout → Playout, (s.modScreen i fun x => { x with playout := f x.playout }).stNow i = s.stNow i := by
    intro f
    unfold State.stNow
    rw [State.modScreen_same]
  split
  · next hd => rw [hd, State.stepClock_zero]; rfl
  · unfold State.raiseClock State.raise
    rw [State.offerNotice_cues]
    exact State.stepClock_cues_congr i _ rfl (hn fun p => { p with resync := false })

end Sys2Proof.Machine
end

