-- ==== Sys2Proof/Laws/Boundary.lean ====
section
/-! SUPPORT. A boundary ends in its cue stage, and what the stages before it keep of what that stage reads (R37, R154 to
R157). -/

namespace Sys2Proof.Machine

/-- What the stages of a boundary before the cue stage keep of what it reads: the screen's markers, the entries but for
their tallies, and, unless a resync falls due, the cues. -/
def State.keepsForCues (quiet : Prop) (i : ScreenNo) (s t : State) : Prop :=
  t.screens[i].markers = s.screens[i].markers ∧
    (∀ e : EntryNo, { t.entries[e] with tallies := s.entries[e].tallies } = s.entries[e]) ∧ (quiet → t.cues = s.cues)

variable {q : Prop} {i : ScreenNo}

/-- A state keeps what the cue stage reads of itself. -/
theorem State.keepsForCues.refl (s : State) : s.keepsForCues q i s := ⟨rfl, fun _ => rfl, fun _ => rfl⟩

/-- What two steps keep, they keep one after the other. -/
theorem State.keepsForCues.trans {s t u : State} (h1 : State.keepsForCues q i s t) (h2 : State.keepsForCues q i t u) :
    State.keepsForCues q i s u :=
  ⟨h2.1.trans h1.1, fun e => by
    have a := h1.2.1 e; have b := h2.2.1 e
    rw [← b] at a
    exact a, fun h => (h2.2.2 h).trans (h1.2.2 h)⟩

/-- An update of the screen that leaves its markers keeps what the cue stage reads. -/
theorem State.modScreen_keepsForCues (f : Screen → Screen) (s : State) (h : ∀ x, (f x).markers = x.markers) :
    State.keepsForCues q i s (s.modScreen i f) :=
  ⟨by rw [State.modScreen_same]; exact h _, fun _ => rfl, fun _ => rfl⟩

/-- A notice changes the Report Queue and a notice-lost flag alone (R174, R175). -/
theorem State.offerNotice_keepsForCues (n : Notice) (s : State) : State.keepsForCues q i s (s.offerNotice n) :=
  ⟨State.offerNotice_screen_markers _ _ _, fun e => by rw [State.offerNotice_entries], fun _ => by simp⟩

/-- R9: a notice with the current time. -/
theorem State.raise_keepsForCues (k : NoticeKind) (a b c : Nat) (d : Int) (s : State) :
    State.keepsForCues q i s (s.raise k i a b c d) := State.offerNotice_keepsForCues _ _

/-- R27: a tally of one entry. -/
theorem State.bumpEntry_keepsForCues (e : EntryNo) (t : EntryTally) (n : Nat) (s : State) :
    State.keepsForCues q i s (s.bumpEntry e t n) := by
  refine ⟨rfl, fun e' => ?_, fun _ => rfl⟩
  rw [State.bumpEntry_entries]
  by_cases h : e' = e
  · subst h; rw [adjust_same]
  · rw [adjust_other _ _ _ _ h]

/-- R27: a tally of an entry that may be absent. -/
theorem State.bumpEntry?_keepsForCues (e : Option EntryNo) (t : EntryTally) (n : Nat) (s : State) :
    State.keepsForCues q i s (s.bumpEntry? e t n) := by
  cases e
  · exact State.keepsForCues.refl s
  · exact State.bumpEntry_keepsForCues _ _ _ _

/-- R36: a tally of the screen. -/
theorem State.bumpScreen_keepsForCues (t : ScreenTally) (s : State) :
    State.keepsForCues q i s (s.bumpScreen i t) := State.modScreen_keepsForCues _ _ fun _ => rfl

/-- A change of the clock. -/
theorem State.modClock_keepsForCues (f : Clock → Clock) (s : State) :
    State.keepsForCues q i s (s.modClock i f) := State.modScreen_keepsForCues _ _ fun _ => rfl

/-- R51, R161: only a step of another amount than 0 may rearm cues. -/
theorem State.stepClock_keepsForCues (d : Int) (s : State) (h : q → d = 0) :
    State.keepsForCues q i s (s.stepClock i d) := by
  unfold State.stepClock
  split
  · exact .refl s
  · next hd =>
    have h1 : State.keepsForCues q i s
        ((s.modClock i fun c => { c with base := c.base + BitVec.ofInt 32 d }).bumpScreen i .step) :=
      (State.modClock_keepsForCues _ _).trans (State.bumpScreen_keepsForCues _ _)
    dsimp only
    split
    · rw [State.rearmCues_eq]
      exact ⟨h1.1, h1.2.1, fun hq => absurd (h hq) hd⟩
    · exact h1

/-- R50: the block advance. -/
theorem State.advanceClock_keepsForCues (s : State) : State.keepsForCues q i s (s.advanceClock i) := by
  unfold State.advanceClock
  dsimp only
  split
  · exact State.modClock_keepsForCues _ _
  · exact (State.modClock_keepsForCues _ _).trans (State.bumpScreen_keepsForCues _ _)

/-- R61: the reference count and its timeout. -/
theorem State.countReference_keepsForCues (s : State) : State.keepsForCues q i s (s.countReference i) := by
  unfold State.countReference State.timeoutReference
  split
  · exact ((State.modClock_keepsForCues _ _).trans (State.modClock_keepsForCues _ _)).trans
      (State.raise_keepsForCues _ _ _ _ _ _)
  · exact State.modClock_keepsForCues _ _

/-- R44: a resync that is not due changes nothing. -/
theorem State.resync_keepsForCues (s : State) (h : q → s.screens[i].resyncTime = none) :
    State.keepsForCues q i s (s.resync i) := by
  unfold State.resync
  cases hr : s.screens[i].resyncTime with
  | none => exact .refl s
  | some pt =>
    have hq : ¬q := fun hh => by rw [h hh] at hr; exact absurd hr (by simp)
    have hm : State.keepsForCues q i s 
        (s.modScreen i fun x => { x with playout := { x.playout with resync := false } }) :=
      State.modScreen_keepsForCues _ _ fun _ => rfl
    dsimp only
    split
    · exact hm
    · exact (hm.trans (State.stepClock_keepsForCues _ _ fun hh => absurd hh hq)).trans
        (State.raise_keepsForCues _ _ _ _ _ _)

/-- R36, R41: the tally of the decision. -/
theorem State.countDecision_keepsForCues (a : Option EntryNo) (d : Decision) (s : State) :
    State.keepsForCues q i s (s.countDecision i a d) := by
  unfold State.countDecision
  cases d
  all_goals first
    | exact .refl s
    | exact State.bumpScreen_keepsForCues _ _
    | exact State.bumpEntry?_keepsForCues _ _ _ _
    | (dsimp only; split
       · exact State.bumpScreen_keepsForCues _ _
       · exact .refl s)

/-- R28: slots given back. -/
theorem State.release_keepsForCues (n : Nat) (s : State) : State.keepsForCues q i s (s.release n) :=
  ⟨rfl, fun _ => rfl, fun _ => rfl⟩

/-- R41 to R43: the selection. -/
theorem State.applySelection_keepsForCues (a : Option EntryNo) (r : Selection) (s : State) :
    State.keepsForCues q i s (s.applySelection i a r) := by
  unfold State.applySelection
  dsimp only
  refine .trans ?_ (State.countDecision_keepsForCues _ _ _)
  refine .trans ?_ (State.bumpEntry?_keepsForCues _ _ _ _)
  refine .trans ?_ (State.bumpEntry?_keepsForCues _ _ _ _)
  exact State.keepsForCues.trans (State.release_keepsForCues _ _) (State.modScreen_keepsForCues _ _ fun _ => rfl)

/-- R45: standby pruning. -/
theorem State.pruneStandby_keepsForCues (s : State) : State.keepsForCues q i s (s.pruneStandby i) := by
  unfold State.pruneStandby
  dsimp only
  split
  · exact .refl s
  · refine .trans ?_ (State.bumpEntry?_keepsForCues _ _ _ _)
    refine .trans ?_ (State.modScreen_keepsForCues _ _ fun _ => rfl)
    exact State.release_keepsForCues _ _

/-- A walk through a list, each step of which keeps what the cue stage reads. -/
theorem State.foldl_keepsForCues {α : Type} (f : State → α → State) (h : ∀ s a, State.keepsForCues q i s (f s a))
    (l : List α) (s : State) : State.keepsForCues q i s (l.foldl f s) := by
  induction l generalizing s with
  | nil => exact .refl s
  | cons a l ih => exact (h s a).trans (ih _)

/-- R80: the RETIRED notices. -/
theorem State.raiseRetired_keepsForCues (ks : List RecordNo) (s : State) :
    State.keepsForCues q i s (s.raiseRetired i ks) :=
  State.foldl_keepsForCues _ (fun _ _ => State.raise_keepsForCues _ _ _ _ _ _) _ _

/-- R174: a frame placed. -/
theorem State.place_keepsForCues (f : UpFrame) (s : State) : State.keepsForCues q i s (s.place f) :=
  ⟨by simp, fun e => by simp, fun _ => by simp⟩

/-- R132: a METER frame. -/
theorem State.emitMeter_keepsForCues (s : State) : State.keepsForCues q i s (s.emitMeter i) := by
  unfold State.emitMeter State.offerMeter
  split
  · refine .trans ?_ (State.modScreen_keepsForCues _ _ fun _ => rfl)
    refine .trans ?_ (State.modScreen_keepsForCues _ _ fun _ => rfl)
    exact State.place_keepsForCues _ _
  · exact State.modScreen_keepsForCues _ _ fun _ => rfl

/-- R132: the meter count. -/
theorem State.meterStage_keepsForCues (s : State) : State.keepsForCues q i s (s.meterStage i) := by
  unfold State.meterStage
  split
  · exact State.emitMeter_keepsForCues _
  · exact State.modScreen_keepsForCues _ _ fun _ => rfl

/-- R134, R145: one record. -/
theorem State.evaluateRecord_keepsForCues (b : BlockReport) (k : RecordNo) (s : State) :
    State.keepsForCues q i s (s.evaluateRecord i b k) := by
  unfold State.evaluateRecord
  dsimp only
  split
  · refine .trans ?_ (State.raise_keepsForCues _ _ _ _ _ _)
    exact State.modScreen_keepsForCues _ _ fun _ => rfl
  · exact State.modScreen_keepsForCues _ _ fun _ => rfl

/-- R134: every record in use. -/
theorem State.evaluateAlarms_keepsForCues (b : BlockReport) (s : State) :
    State.keepsForCues q i s (s.evaluateAlarms i b) :=
  State.foldl_keepsForCues _ (fun s k => by
    split
    · exact State.evaluateRecord_keepsForCues _ _ _
    · exact .refl s) _ _

/-- R114, R115: the speaker check. -/
theorem State.checkStage_keepsForCues (handed : Vector Handed 2) (s : State) :
    State.keepsForCues q i s (s.checkStage i handed) := by
  unfold State.checkStage
  dsimp only
  split
  · have h : ∀ s : State, State.keepsForCues q i s (s.modSignal i fun g => g.judgeCheck ‹Nat› handed) :=
      fun s => State.modScreen_keepsForCues _ _ fun _ => rfl
    split
    · unfold State.completeCheck State.raiseCheckDone
      refine .trans ?_ (State.raise_keepsForCues _ _ _ _ _ _)
      refine .trans ?_ (State.modScreen_keepsForCues _ _ fun _ => rfl)
      refine .trans (h s) (State.modScreen_keepsForCues _ _ fun _ => rfl)
    · exact h s
  · exact .refl s

/-- R44: neither the block advance nor the reference count touches what decides a resync. -/
theorem State.stageTime_resyncTime (s : State) :
    ((s.advanceClock i).countReference i).screens[i].resyncTime = s.screens[i].resyncTime := by
  have h1 : (s.advanceClock i).screens[i].playout = s.screens[i].playout ∧
      (s.advanceClock i).screens[i].settings = s.screens[i].settings := by
    unfold State.advanceClock
    dsimp only
    split
    · constructor <;> (unfold State.modClock; rw [State.modScreen_same])
    · constructor <;> (unfold State.modClock State.bumpScreen; rw [State.modScreen_same, State.modScreen_same]; rfl)
  have h2 : ∀ u : State, (u.countReference i).screens[i].playout = u.screens[i].playout ∧
      (u.countReference i).screens[i].settings = u.screens[i].settings := by
    intro u
    unfold State.countReference State.timeoutReference
    split
    · constructor
      · unfold State.raiseClock State.raise
        rw [State.offerNotice_screen_playout]
        unfold State.modClock
        rw [State.modScreen_same, State.modScreen_same]
      · unfold State.raiseClock State.raise
        rw [State.offerNotice_screen_settings]
        unfold State.modClock
        rw [State.modScreen_same, State.modScreen_same]
    · constructor <;> (unfold State.modClock; rw [State.modScreen_same])
  unfold Screen.resyncTime Screen.untied
  rw [(h2 _).1, (h2 _).2, h1.1, h1.2]

/-- R37 stage 6 ends in the cue stage. -/
theorem State.stageSix_cueStage (l : Latched) (b : BlockReport) (blocks : Vector FeedBlock 16) (s : State) :
    ∃ u : State, s.stageSix i l b blocks = u.cueStage i u.screens[i].clock.base l.held ∧
      State.keepsForCues q i s u := by
  refine ⟨((((s.modScreen i Screen.handLanes).evaluateAlarms i b).checkStage i b.handed).modScreen i fun x =>
    x.shiftPeaks blocks), by simp only [State.stageSix], ?_⟩
  refine .trans ?_ (State.modScreen_keepsForCues _ _ fun _ => rfl)
  refine .trans ?_ (State.checkStage_keepsForCues _ _)
  refine .trans ?_ (State.evaluateAlarms_keepsForCues _ _)
  exact State.modScreen_keepsForCues _ _ fun _ => rfl

/-- R37 stages 3 to 6 end in the cue stage. -/
theorem State.computeBlock_cueStage (l : Latched) (p : Selected) (s : State) : ∃ u : State,
    s.computeBlock i l p = u.cueStage i u.screens[i].clock.base l.held ∧ State.keepsForCues q i s u := by
  unfold State.computeBlock
  dsimp only
  obtain ⟨u, h1, h2⟩ := State.stageSix_cueStage (q := q) (i := i) l _ _ _
  refine ⟨u, h1, .trans ?_ h2⟩
  refine .trans ?_ (State.meterStage_keepsForCues _)
  refine .trans ?_ (State.modScreen_keepsForCues _ _ fun _ => rfl)
  exact State.modScreen_keepsForCues _ _ fun _ => rfl

/-- R39: stage 2. -/
theorem State.stageTwo_keepsForCues (s : State) (h : q → s.screens[i].resyncTime = none) :
    State.keepsForCues q i s (s.stageTwo i).state := by
  unfold State.stageTwo
  dsimp only
  refine .trans ?_ (State.pruneStandby_keepsForCues _)
  refine .trans ?_ (State.applySelection_keepsForCues _ _ _)
  unfold State.stageTime
  refine .trans ?_ (State.resync_keepsForCues _ fun hq => ?_)
  · exact .trans (State.advanceClock_keepsForCues _) (State.countReference_keepsForCues _)
  · rw [State.stageTime_resyncTime]
    exact h hq

/-- R79, R148: the latch retires no REF_LOST record, so the hold is that of before the boundary. -/
theorem Screen.stageOne_cuesHeld (x : Screen) (now : Nat) (new : Option LatchedPreset) :
    ((x.scheduleNext now).stageOne new).cuesHeld = x.cuesHeld := by
  unfold Screen.cuesHeld Screen.stageOne Screen.latch Screen.scheduleNext
  dsimp only
  rw [tabulate_get]
  have : leavesUse x.render.latched new refLostRecord = false := by
    unfold leavesUse recordInUse
    rw [show recordKind refLostRecord = .refLost by decide]
    rfl
  simp only [this, Bool.false_eq_true, if_false]

/-- Stage 1 leaves the markers. -/
theorem Screen.stageOne_markers (x : Screen) (now : Nat) (new : Option LatchedPreset) :
    ((x.scheduleNext now).stageOne new).markers = x.markers := by
  unfold Screen.stageOne Screen.latch Screen.scheduleNext
  rfl

/-- R37, R148: a boundary ends in the cue stage at its T, with the hold latched from the REF_LOST record, on a state
that keeps the markers, the entries but for their tallies, and, when no resync is due, the cues. -/
theorem State.boundary_cueStage (s : State) : ∃ (u : State) (held : Bool),
    s.boundary i = u.cueStage i u.screens[i].clock.base held ∧ held = s.screens[i].cuesHeld ∧
    State.keepsForCues (s.screens[i].resyncTime = none) i s u := by
  unfold State.boundary
  dsimp only
  obtain ⟨u, h1, h2⟩ := State.computeBlock_cueStage (q := s.screens[i].resyncTime = none) (i := i) _ _ _
  refine ⟨u, _, h1, ?_, .trans ?_ h2⟩
  · show (State.screens _)[i].cuesHeld = _
    rw [State.modScreen_same]
    exact Screen.stageOne_cuesHeld _ _ _
  · refine .trans ?_ (State.raiseRetired_keepsForCues _ _)
    refine .trans ?_ (State.stageTwo_keepsForCues _ fun h => ?_)
    · exact State.modScreen_keepsForCues (fun x => (x.scheduleNext s.wordClock).stageOne (s.toLatch i)) s
        fun x => Screen.stageOne_markers x _ _
    · rw [State.modScreen_same]
      exact h

end Sys2Proof.Machine
end

