-- ==== Sys2Proof/Laws/Streams.lean ====
section
/-! SUPPORT. What the source changes of the Stream Table can do (R21 to R25, R47). -/

namespace Sys2Proof.Machine

/-! ## Searches -/

/-- R21: the ACTIVE entry found is ACTIVE on the screen. -/
theorem State.activeEntry_some {i : ScreenNo} {s : State} {e : EntryNo} (h : s.activeEntry i = some e) :
    s.entries[e].state = .active ∧ s.entries[e].screen = i := by
  simpa using find_indexes_some h

theorem State.activeEntry_none {i : ScreenNo} {s : State} (h : s.activeEntry i = none) (e : EntryNo) :
    ¬(s.entries[e].state = .active ∧ s.entries[e].screen = i) := by
  simpa using find_indexes_none.mp h e

/-- R21: the PRIMED entry found is PRIMED on the screen. -/
theorem State.primedEntry_some {i : ScreenNo} {s : State} {e : EntryNo} (h : s.primedEntry i = some e) :
    s.entries[e].state = .primed ∧ s.entries[e].screen = i := by
  simpa using find_indexes_some h

theorem State.primedEntry_none {i : ScreenNo} {s : State} (h : s.primedEntry i = none) (e : EntryNo) :
    ¬(s.entries[e].state = .primed ∧ s.entries[e].screen = i) := by
  simpa using find_indexes_none.mp h e

/-- R13: the entry found holds the number and is in use. -/
theorem State.findStream_some {number : Nat} {s : State} {e : EntryNo} (h : s.findStream number = some e) :
    s.entries[e].state ≠ .unused ∧ s.entries[e].number = number := by
  simpa using find_indexes_some h

theorem State.findStream_none {number : Nat} {s : State} (h : s.findStream number = none) (e : EntryNo) :
    ¬(s.entries[e].state ≠ .unused ∧ s.entries[e].number = number) := by
  simpa using find_indexes_none.mp h e

/-! ## Frames: a source change touches its screen, the entries and the free list alone -/

/-- The state outside the screens, the entries and the free list. -/
def State.sameOutsideStreams (s t : State) : Prop :=
  t = { s with entries := t.entries, screens := t.screens, freeSlots := t.freeSlots }

theorem State.sameOutsideStreams.trans {s t u : State} (h1 : s.sameOutsideStreams t) (h2 : t.sameOutsideStreams u) :
    s.sameOutsideStreams u := by
  unfold State.sameOutsideStreams at *
  rw [h2, h1]

theorem State.freeProgram_same (i : ScreenNo) (s : State) : s.sameOutsideStreams (s.freeProgram i) := rfl

theorem State.freeStandby_same (i : ScreenNo) (s : State) : s.sameOutsideStreams (s.freeStandby i) := rfl

theorem State.swapQueues_same (i : ScreenNo) (s : State) : s.sameOutsideStreams (s.swapQueues i) := rfl

theorem State.setEntryState_same (e : EntryNo) (st : EntryState) (s : State) :
    s.sameOutsideStreams (s.setEntryState e st) := rfl

theorem State.displacePrimed_same (i : ScreenNo) (s : State) : s.sameOutsideStreams (s.displacePrimed i) := by
  unfold State.displacePrimed
  split <;> rfl

theorem State.retireActive_same (i : ScreenNo) (s : State) : s.sameOutsideStreams (s.retireActive i) := by
  unfold State.retireActive
  split <;> rfl

theorem State.primeInactive_same (e : EntryNo) (s : State) : s.sameOutsideStreams (s.primeInactive e) :=
  (s.displacePrimed_same _).trans rfl

theorem State.activatePrimed_same (e : EntryNo) (s : State) : s.sameOutsideStreams (s.activatePrimed e) :=
  State.sameOutsideStreams.trans (t := (s.freeProgram s.entries[e].screen).swapQueues s.entries[e].screen) rfl
    ((State.retireActive_same _ _).trans rfl)

theorem State.activateInactive_same (e : EntryNo) (s : State) : s.sameOutsideStreams (s.activateInactive e) :=
  State.sameOutsideStreams.trans (t := s.freeProgram s.entries[e].screen) rfl
    ((State.retireActive_same _ _).trans rfl)

/-- R23: PRIME touches nothing outside the streams. -/
theorem State.primeEntry_same (e : EntryNo) (s : State) : s.sameOutsideStreams (s.primeEntry e).1 := by
  unfold State.primeEntry
  split
  · exact s.primeInactive_same e
  all_goals rfl

/-- R24: ACTIVATE touches nothing outside the streams. -/
theorem State.activateEntry_same (e : EntryNo) (s : State) : s.sameOutsideStreams (s.activateEntry e).1 := by
  unfold State.activateEntry
  split
  · exact s.activatePrimed_same e
  · exact s.activateInactive_same e
  all_goals rfl

/-- R25: DEACTIVATE touches nothing outside the streams. -/
theorem State.deactivateEntry_same (e : EntryNo) (s : State) : s.sameOutsideStreams (s.deactivateEntry e).1 := by
  unfold State.deactivateEntry
  split <;> rfl

/-! ## Screens -/

theorem State.freeProgram_other (i j : ScreenNo) (s : State) (h : j ≠ i) : (s.freeProgram i).screens[j] = s.screens[j] :=
  State.modScreen_other i j _ (s.release _) h

theorem State.freeStandby_other (i j : ScreenNo) (s : State) (h : j ≠ i) : (s.freeStandby i).screens[j] = s.screens[j] :=
  State.modScreen_other i j _ (s.release _) h

theorem State.swapQueues_other (i j : ScreenNo) (s : State) (h : j ≠ i) : (s.swapQueues i).screens[j] = s.screens[j] :=
  State.modScreen_other i j _ s h

theorem State.retireActive_screens (i : ScreenNo) (s : State) : (s.retireActive i).screens = s.screens := by
  unfold State.retireActive
  split <;> rfl

theorem State.displacePrimed_other (i j : ScreenNo) (s : State) (h : j ≠ i) :
    (s.displacePrimed i).screens[j] = s.screens[j] := by
  unfold State.displacePrimed
  split
  · exact State.freeStandby_other i j _ h
  · rfl

/-- R23: PRIME leaves every screen but the entry's own as it was. -/
theorem State.primeEntry_other (e : EntryNo) (j : ScreenNo) (s : State) (h : j ≠ s.entries[e].screen) :
    (s.primeEntry e).1.screens[j] = s.screens[j] := by
  unfold State.primeEntry
  split
  · exact State.displacePrimed_other _ j s h
  all_goals rfl

/-- R24: ACTIVATE leaves every screen but the entry's own as it was. -/
theorem State.activateEntry_other (e : EntryNo) (j : ScreenNo) (s : State) (h : j ≠ s.entries[e].screen) :
    (s.activateEntry e).1.screens[j] = s.screens[j] := by
  unfold State.activateEntry
  split
  · simp only [State.activatePrimed, State.setEntryState, State.modEntry_screens, State.retireActive_screens]
    rw [State.swapQueues_other _ _ _ h, State.freeProgram_other _ _ _ h]
  · simp only [State.activateInactive, State.setEntryState, State.forgetSequence, State.modEntry_screens,
      State.retireActive_screens]
    rw [State.freeProgram_other _ _ _ h]
  all_goals rfl

/-- R25: DEACTIVATE leaves every screen but the entry's own as it was. -/
theorem State.deactivateEntry_other (e : EntryNo) (j : ScreenNo) (s : State) (h : j ≠ s.entries[e].screen) :
    (s.deactivateEntry e).1.screens[j] = s.screens[j] := by
  unfold State.deactivateEntry
  split
  · exact State.freeProgram_other _ _ _ h
  · exact State.freeStandby_other _ _ _ h
  all_goals rfl

end Sys2Proof.Machine
end

