-- ==== Sys2Proof/Laws/Cues.lean ====
section
/-! SUPPORT. What the actions of the Cue Engine, a cue's firing and the arming of children can do (R157 to R159,
R163), and what the alarm evaluation and the check's notices leave alone. -/

namespace Sys2Proof.Machine

/-! ## Signals -/

theorem State.raiseCheckDone_other (i j : ScreenNo) (cause : Nat) (s : State) (h : j ≠ i) :
    (s.raiseCheckDone i cause).screens[j] = s.screens[j] := State.offerNotice_other _ _ _ h

/-- R112: a check started on one screen leaves the others as they were. -/
theorem State.beginCheck_other (i j : ScreenNo) (spec : CheckSpec) (s : State) (h : j ≠ i) :
    (s.beginCheck i spec).screens[j] = s.screens[j] := by
  unfold State.beginCheck
  dsimp only
  split
  · rw [State.raiseCheckDone_other _ _ _ _ h]
    exact State.modScreen_other _ _ _ _ h
  · rw [State.modScreen_other _ _ _ _ h]
    exact State.modScreen_other _ _ _ _ h

/-- R117: a check stopped on one screen leaves the others as they were. -/
theorem State.endCheck_other (i j : ScreenNo) (s : State) (h : j ≠ i) : (s.endCheck i).screens[j] = s.screens[j] := by
  unfold State.endCheck
  rw [State.raiseCheckDone_other _ _ _ _ h, State.modScreen_other _ _ _ _ h]
  exact State.modScreen_other _ _ _ _ h

@[simp] theorem State.raiseCheckDone_cues (i : ScreenNo) (cause : Nat) (s : State) :
    (s.raiseCheckDone i cause).cues = s.cues := State.offerNotice_cues _ _

@[simp] theorem State.beginCheck_cues (i : ScreenNo) (spec : CheckSpec) (s : State) :
    (s.beginCheck i spec).cues = s.cues := by
  unfold State.beginCheck
  dsimp only
  split <;> simp

@[simp] theorem State.endCheck_cues (i : ScreenNo) (s : State) : (s.endCheck i).cues = s.cues := by
  unfold State.endCheck
  simp

/-! ## Actions -/

/-- R158, R159: an action touches the cue's own screen alone. -/
theorem State.fireAction_other (i j : ScreenNo) (n : CueNo) (c : CueSpec) (s : State) (h : j ≠ i) :
    (s.fireAction i n c).1.screens[j] = s.screens[j] := by
  unfold State.fireAction
  split
  · unfold State.firePreset
    split
    · split
      · exact State.modScreen_other _ _ _ _ h
      · rfl
    · rfl
  · exact State.modScreen_other _ _ _ _ h
  · exact State.modScreen_other _ _ _ _ h
  · exact State.modScreen_other _ _ _ _ h
  · unfold State.fireSource
    split
    · dsimp only
      split
      · rfl
      · next hs =>
          have hs' : s.entries[(⟨c.entry, by assumption⟩ : EntryNo)].screen = i := Decidable.not_not.mp hs
          split
          · rfl
          all_goals exact State.activateEntry_other _ _ _ (hs' ▸ h)
    · rfl
  · unfold State.firePrime
    split
    · dsimp only
      split
      · rfl
      · next hs =>
          have hs' : s.entries[(⟨c.entry, by assumption⟩ : EntryNo)].screen = i := Decidable.not_not.mp hs
          split
          · rfl
          · rfl
          all_goals exact State.primeEntry_other _ _ _ (hs' ▸ h)
    · rfl
  · exact State.modScreen_other _ _ _ _ h
  · exact State.modScreen_other _ _ _ _ h
  · unfold State.fireCheck
    split
    · rfl
    · exact State.beginCheck_other _ _ _ _ h
  · unfold State.fireStopCheck
    split
    · exact State.endCheck_other _ _ _ h
    · rfl
  · exact State.offerNotice_other _ _ _ h

theorem State.sameOutsideStreams.cues {s t : State} (h : s.sameOutsideStreams t) : t.cues = s.cues := by
  unfold State.sameOutsideStreams at h
  rw [h]

/-- R158, R159: an action changes no cue. -/
@[simp] theorem State.fireAction_cues (i : ScreenNo) (n : CueNo) (c : CueSpec) (s : State) :
    (s.fireAction i n c).1.cues = s.cues := by
  unfold State.fireAction
  split
  · unfold State.firePreset
    split
    · split <;> rfl
    · rfl
  · rfl
  · rfl
  · rfl
  · unfold State.fireSource
    split
    · dsimp only
      split
      · rfl
      · split
        · rfl
        all_goals exact (State.activateEntry_same _ _).cues
    · rfl
  · unfold State.firePrime
    split
    · dsimp only
      split
      · rfl
      · split
        · rfl
        · rfl
        all_goals exact (State.primeEntry_same _ _).cues
    · rfl
  · rfl
  · rfl
  · unfold State.fireCheck
    split
    · rfl
    · exact State.beginCheck_cues _ _ _
  · unfold State.fireStopCheck
    split
    · exact State.endCheck_cues _ _
    · rfl
  · exact State.offerNotice_cues _ _

/-! ## Firing and arming -/

theorem State.raiseCueFault_other (i j : ScreenNo) (n : CueNo) (f : CueFault) (s : State) (h : j ≠ i) :
    (s.raiseCueFault i n f).screens[j] = s.screens[j] := by
  unfold State.raiseCueFault
  split
  · rfl
  · exact State.offerNotice_other _ _ _ h

@[simp] theorem State.raiseCueFault_cues (i : ScreenNo) (n : CueNo) (f : CueFault) (s : State) :
    (s.raiseCueFault i n f).cues = s.cues := by
  unfold State.raiseCueFault
  split
  · rfl
  · exact State.offerNotice_cues _ _

/-- R157: the cues after one cue fires: that cue alone, FIRED with its countdown absent and its fault recorded. -/
theorem State.fireCue_cues (i : ScreenNo) (n : CueNo) (s : State) :
    (s.fireCue i n).cues =
      adjust s.cues n fun c =>
        { c with state := .fired, countdown := none, lastFault := some (s.fireAction i n s.cues[n].spec).2 } := by
  unfold State.fireCue
  simp only [State.modCue_cues, State.raiseCueFault_cues, State.fireAction_cues]

/-- R157: one cue's firing touches its own screen alone. -/
theorem State.fireCue_other (i j : ScreenNo) (n : CueNo) (s : State) (h : j ≠ i) :
    (s.fireCue i n).screens[j] = s.screens[j] := by
  unfold State.fireCue
  simp only [State.modCue_screens]
  rw [State.raiseCueFault_other _ _ _ _ _ h, State.fireAction_other _ _ _ _ _ h]

/-- R157: a cue after its own firing. -/
theorem State.fireCue_same (i : ScreenNo) (n : CueNo) (s : State) :
    (s.fireCue i n).cues[n].state = .fired ∧ (s.fireCue i n).cues[n].countdown = none ∧
      (s.fireCue i n).cues[n].lastFault ≠ none ∧ (s.fireCue i n).cues[n].spec = s.cues[n].spec := by
  rw [State.fireCue_cues]
  simp only [adjust_same]
  exact ⟨trivial, trivial, by simp, trivial⟩

/-- R157: a firing changes no written field of a cue. -/
theorem State.fireCue_spec (i : ScreenNo) (n m : CueNo) (s : State) : (s.fireCue i n).cues[m].spec = s.cues[m].spec := by
  rw [State.fireCue_cues, adjust_get]
  split
  · next h => subst h; rfl
  · rfl

/-- R157: the arming of children changes the cues alone. -/
theorem State.armChildren_screens (fired : List CueNo) (s : State) : (s.armChildren fired).screens = s.screens := by
  simp only [State.armChildren, State.releaseChildren, State.mapCues_screens]

/-- R157: the arming of children changes no written field. -/
theorem State.armChildren_spec (fired : List CueNo) (s : State) (n : CueNo) :
    (s.armChildren fired).cues[n].spec = s.cues[n].spec := by
  simp only [State.armChildren]
  rw [State.releaseChildren_get, State.mapCues_get]
  by_cases h : s.cues[n].armedBy fired = true <;> simp only [h, if_true, Bool.false_eq_true, if_false] <;>
    split <;> rfl

/-- The due cues fired one by one leave the other screens as they were. -/
theorem State.fireEach_other (i j : ScreenNo) (due : List CueNo) (s : State) (h : j ≠ i) :
    (due.foldl (fun s n => s.fireCue i n) s).screens[j] = s.screens[j] := by
  induction due generalizing s with
  | nil => rfl
  | cons n rest ih => exact (ih (s.fireCue i n)).trans (State.fireCue_other _ _ _ _ h)

/-- R157: the firing of due cues touches their screen alone. -/
theorem State.fireCues_other (i j : ScreenNo) (due : List CueNo) (s : State) (h : j ≠ i) :
    (s.fireCues i due).screens[j] = s.screens[j] :=
  (congrArg (fun v : Vector Screen 6 => v[j]) (State.armChildren_screens due _)).trans
    (State.fireEach_other i j due s h)

/-- R157: the firing of due cues changes no written field. -/
theorem State.fireCues_spec (i : ScreenNo) (due : List CueNo) (s : State) (n : CueNo) :
    (s.fireCues i due).cues[n].spec = s.cues[n].spec := by
  simp only [State.fireCues, State.armChildren_spec]
  induction due generalizing s with
  | nil => rfl
  | cons m rest ih => rw [List.foldl_cons, ih, State.fireCue_spec]

end Sys2Proof.Machine
end

