-- ==== Sys2Proof/Laws/CueStage.lean ====
section
/-! SUPPORT. What the cue stage of a boundary leaves of a screen (R154 to R159): its settings, clock, latched preset,
feeds, noise and tone, lanes, holds, records, profiles and tallies. -/

namespace Sys2Proof.Machine

/-! ## What a cue leaves of a screen -/

/-- A change of screen j that a cue may make: its queues and mode, its stored preset selection, its fader, fade, mute and
requested bank, its pattern and check, its markers and its notice-lost flag. -/
def State.keepsFromCues (j : ScreenNo) (s t : State) : Prop :=
  t.screens[j] =
    { s.screens[j] with
      playout := t.screens[j].playout
      render := { s.screens[j].render with selection := t.screens[j].render.selection }
      level := t.screens[j].level
      signal := { t.screens[j].signal with
        noise := s.screens[j].signal.noise, tonePhase := s.screens[j].signal.tonePhase }
      markers := t.screens[j].markers
      noticeLost := t.screens[j].noticeLost }

variable {j : ScreenNo}

theorem State.keepsFromCues.of_screen {s t : State} (h : t.screens[j] = s.screens[j]) : State.keepsFromCues j s t := by
  unfold State.keepsFromCues
  rw [h]

theorem State.keepsFromCues.trans {s t u : State} (h1 : State.keepsFromCues j s t) (h2 : State.keepsFromCues j t u) :
    State.keepsFromCues j s u := by
  unfold State.keepsFromCues at *
  rw [h1] at h2
  exact h2

/-- An update of one screen. -/
theorem State.modScreen_keepsFromCues (i : ScreenNo) (f : Screen → Screen) (s : State)
    (h : ∀ x, f x =
      { x with
        playout := (f x).playout, render := { x.render with selection := (f x).render.selection }
        level := (f x).level
        signal := { (f x).signal with noise := x.signal.noise, tonePhase := x.signal.tonePhase }
        markers := (f x).markers, noticeLost := (f x).noticeLost }) :
    State.keepsFromCues j s (s.modScreen i f) := by
  by_cases hj : j = i
  · subst hj
    unfold State.keepsFromCues
    rw [State.modScreen_same]
    exact h _
  · exact .of_screen (State.modScreen_other _ _ _ _ hj)

/-- A notice. -/
theorem State.offerNotice_keepsFromCues (n : Notice) (s : State) : State.keepsFromCues j s (s.offerNotice n) := by
  have h := State.offerNotice_screen n s j
  unfold State.keepsFromCues
  rw [h]

/-- R21, R47: a source change. -/
theorem State.retireActive_keepsFromCues (i : ScreenNo) (s : State) : State.keepsFromCues j s (s.retireActive i) := by
  unfold State.retireActive
  split <;> exact .of_screen rfl

/-- R24: ACTIVATE. -/
theorem State.activateEntry_keepsFromCues (e : EntryNo) (s : State) :
    State.keepsFromCues j s (s.activateEntry e).1 := by
  have hf : ∀ i, State.keepsFromCues j s (s.freeProgram i) := fun i => by
    unfold State.freeProgram
    exact State.keepsFromCues.trans (t := s.release _) (.of_screen rfl)
      (State.modScreen_keepsFromCues _ _ _ fun _ => rfl)
  unfold State.activateEntry
  split
  · refine .trans ?_ (.of_screen rfl)
    refine .trans ?_ (State.retireActive_keepsFromCues _ _)
    exact (hf _).trans (State.modScreen_keepsFromCues _ _ _ fun _ => rfl)
  · refine .trans ?_ (.of_screen rfl)
    exact (hf _).trans (State.retireActive_keepsFromCues _ _)
  · exact .of_screen rfl
  · exact .of_screen rfl

/-- R23: PRIME. -/
theorem State.primeEntry_keepsFromCues (e : EntryNo) (s : State) :
    State.keepsFromCues j s (s.primeEntry e).1 := by
  unfold State.primeEntry
  split
  · refine State.keepsFromCues.trans (t := s.displacePrimed s.entries[e].screen) ?_ (.of_screen rfl)
    unfold State.displacePrimed
    split
    · unfold State.freeStandby
      exact State.keepsFromCues.trans (t := (s.setEntryState _ _).release _) (.of_screen rfl)
        (State.modScreen_keepsFromCues _ _ _ fun _ => rfl)
    · exact .of_screen rfl
  all_goals exact .of_screen rfl

/-- R112: the start of a check. -/
theorem State.beginCheck_keepsFromCues (i : ScreenNo) (spec : CheckSpec) (s : State) :
    State.keepsFromCues j s (s.beginCheck i spec) := by
  unfold State.beginCheck State.raiseCheckDone
  dsimp only
  split
  · exact (State.modScreen_keepsFromCues _ _ _ fun _ => rfl).trans (State.offerNotice_keepsFromCues _ _)
  · exact (State.modScreen_keepsFromCues _ _ _ fun _ => rfl).trans (State.modScreen_keepsFromCues _ _ _ fun _ => rfl)

/-- R117: the stop of a check. -/
theorem State.endCheck_keepsFromCues (i : ScreenNo) (s : State) : State.keepsFromCues j s (s.endCheck i) := by
  unfold State.endCheck State.raiseCheckDone
  refine .trans ?_ (State.offerNotice_keepsFromCues _ _)
  exact (State.modScreen_keepsFromCues _ _ _ fun _ => rfl).trans (State.modScreen_keepsFromCues _ _ _ fun _ => rfl)

/-- R158, R159: the action of a cue. -/
theorem State.fireAction_keepsFromCues (i : ScreenNo) (n : CueNo) (c : CueSpec) (s : State) :
    State.keepsFromCues j s (s.fireAction i n c).1 := by
  unfold State.fireAction
  split
  · unfold State.firePreset
    split
    · split
      · exact State.modScreen_keepsFromCues _ _ _ fun _ => rfl
      · exact .of_screen rfl
    · exact .of_screen rfl
  · exact State.modScreen_keepsFromCues _ _ _ fun _ => rfl
  · exact State.modScreen_keepsFromCues _ _ _ fun _ => rfl
  · exact State.modScreen_keepsFromCues _ _ _ fun _ => rfl
  · unfold State.fireSource
    split
    · dsimp only
      split
      · exact .of_screen rfl
      · split
        · exact .of_screen rfl
        all_goals exact State.activateEntry_keepsFromCues _ _
    · exact .of_screen rfl
  · unfold State.firePrime
    split
    · dsimp only
      split
      · exact .of_screen rfl
      · split
        · exact .of_screen rfl
        · exact .of_screen rfl
        all_goals exact State.primeEntry_keepsFromCues _ _
    · exact .of_screen rfl
  · exact State.modScreen_keepsFromCues _ _ _ fun _ => rfl
  · exact State.modScreen_keepsFromCues _ _ _ fun _ => rfl
  · unfold State.fireCheck
    split
    · exact .of_screen rfl
    · exact State.beginCheck_keepsFromCues _ _ _
  · unfold State.fireStopCheck
    split
    · exact State.endCheck_keepsFromCues _ _
    · exact .of_screen rfl
  · exact State.offerNotice_keepsFromCues _ _

/-- R157: one cue fires. -/
theorem State.fireCue_keepsFromCues (i : ScreenNo) (n : CueNo) (s : State) :
    State.keepsFromCues j s (s.fireCue i n) := by
  unfold State.fireCue State.raiseCueFault
  dsimp only
  refine .trans (State.fireAction_keepsFromCues i n s.cues[n].spec s) ?_
  split
  · exact .of_screen rfl
  · exact (State.offerNotice_keepsFromCues _ _).trans (.of_screen rfl)

/-- R157: the due cues, one after another. -/
theorem State.fireEach_keepsFromCues (i : ScreenNo) (due : List CueNo) (s : State) :
    State.keepsFromCues j s (due.foldl (fun s n => s.fireCue i n) s) := by
  induction due generalizing s with
  | nil => exact .of_screen rfl
  | cons n rest ih => exact (State.fireCue_keepsFromCues i n s).trans (ih _)

/-- R154 to R157: the cue stage. -/
theorem State.cueStage_keepsFromCues (i : ScreenNo) (time : ScreenTime) (held : Bool) (s : State) :
    State.keepsFromCues j s (s.cueStage i time held) := by
  unfold State.cueStage State.fireCues
  refine .trans ?_ (.of_screen (by rw [State.armChildren_screens]))
  refine .trans ?_ (State.fireEach_keepsFromCues _ _ _)
  unfold State.judgeCues
  refine .trans (t := s.removeMarkers i time) ?_ (.of_screen rfl)
  exact State.modScreen_keepsFromCues _ _ _ fun _ => rfl

end Sys2Proof.Machine
end

