-- ==== Sys2Proof/Laws/Samples.lean ====
section
/-! SUPPORT. What the lanes' queues, the equaliser and the render do with a block (R77, R87 to R91, R121, R122). -/

namespace Sys2Proof.Machine

/-! ## Lanes -/

/-- R121: a transmit queue holds at most two records. -/
theorem queueRecord_length (queue : List LaneRecord) (r : LaneRecord) : (queueRecord queue r).length ≤ 2 := by
  simp only [queueRecord, Config.transmitDepth, List.length_append, List.length_drop, List.length_cons, List.length_nil]
  omega

/-- R121: the record just placed stands at the tail. -/
theorem queueRecord_getLast (queue : List LaneRecord) (r : LaneRecord) : (queueRecord queue r).getLast? = some r := by
  simp [queueRecord]

/-- A record in the queue after one is placed is that one or was there. -/
theorem mem_queueRecord (queue : List LaneRecord) (r q : LaneRecord) (h : q ∈ queueRecord queue r) : q = r ∨ q ∈ queue := by
  simp only [queueRecord, List.mem_append, List.mem_singleton] at h
  rcases h with h | h
  · exact .inr (List.mem_of_mem_drop h)
  · exact .inl h

/-- R122: a stored sense record changes no count of the awaiting list. -/
theorem storeSense_counts (c : BitVec 16) (r : Vector SenseReturn 8) (list new : List Awaiting)
    (h : storeSense c r list = some new) : new.map Awaiting.count = list.map Awaiting.count := by
  induction list generalizing new with
  | nil => simp [storeSense] at h
  | cons a rest ih =>
      simp only [storeSense] at h
      split at h
      · split at h
        · simp only [Option.some.injEq] at h
          rw [← h]; rfl
        · exact absurd h (by simp)
      · split at h
        · next rest' hr =>
            simp only [Option.some.injEq] at h
            rw [← h, List.map_cons, List.map_cons, ih rest' hr]
        · exact absurd h (by simp)

/-- R122: a sense record leaves the counts, the transmit queue and the views of its lane as they were. -/
theorem Lane.arrive_keeps (l : Lane) (record : List Byte) :
    (l.arrive record).nextCount = l.nextCount ∧ (l.arrive record).transmit = l.transmit ∧
      (l.arrive record).miss = l.miss ∧ (l.arrive record).views = l.views ∧
      (l.arrive record).awaiting.map Awaiting.count = l.awaiting.map Awaiting.count := by
  unfold Lane.arrive
  split
  · unfold Lane.receive
    split
    · next list hl => exact ⟨rfl, rfl, rfl, rfl, storeSense_counts _ _ _ _ hl⟩
    · exact ⟨rfl, rfl, rfl, rfl, rfl⟩
  · exact ⟨rfl, rfl, rfl, rfl, rfl⟩

/-! ## The equaliser -/

theorem runSections_length (sections : List EqSection) (x : Int) :
    (runSections sections x).2.1.length = sections.length := by
  induction sections generalizing x with
  | nil => rfl
  | cons e es ih => simp [runSections, ih]

theorem runBank_length (sections : List EqSection) (words : List Int) :
    (runBank sections words).sections.length = sections.length ∧
      (runBank sections words).outputs.length = words.length := by
  induction words generalizing sections with
  | nil => exact ⟨rfl, rfl⟩
  | cons x xs ih =>
      have h := ih (runSections sections x).2.1
      simp only [runBank, List.length_cons, h.1, h.2, runSections_length, and_self]

theorem crossfadeFrom_length (n : Nat) (us vs : List Int) (h : us.length = vs.length) :
    (crossfadeFrom n us vs).length = us.length := by
  induction us generalizing n vs with
  | nil => simp [crossfadeFrom]
  | cons u us ih =>
      cases vs with
      | nil => simp at h
      | cons v vs =>
          simp only [List.length_cons, Nat.add_right_cancel_iff] at h
          simp [crossfadeFrom, ih (n + 1) vs h]

/-- R91: sample k of a switch block from sample n on. -/
theorem crossfadeFrom_getD (n k : Nat) (us vs : List Int) (h : us.length = vs.length) (hk : k < us.length) :
    (crossfadeFrom n us vs).getD k 0 = crossfade (n + k) (us.getD k 0) (vs.getD k 0) := by
  induction us generalizing n k vs with
  | nil => simp at hk
  | cons u us ih =>
      cases vs with
      | nil => simp at h
      | cons v vs =>
          simp only [List.length_cons, Nat.add_right_cancel_iff] at h
          cases k with
          | zero => simp [crossfadeFrom]
          | succ k =>
              simp only [List.length_cons, Nat.add_lt_add_iff_right] at hk
              simp only [crossfadeFrom, List.getD_cons_succ]
              rw [ih (n + 1) k vs h hk, Nat.add_assoc, Nat.add_comm 1 k]

/-- R84: a feed hands on as many words as it takes. -/
theorem Feed.equalise_length (f : Feed) (requested : Bank) (words : List Int) :
    (f.equalise requested words).2.length = words.length := by
  unfold Feed.equalise
  split
  · exact (runBank_length _ _).2
  · simp only [Feed.equaliseSwitch]
    rw [crossfadeFrom_length _ _ _ (by rw [(runBank_length _ _).2, (runBank_length _ _).2])]
    exact (runBank_length _ _).2

/-- R90: after every block the active bank is the requested one. -/
theorem Feed.equalise_active (f : Feed) (requested : Bank) (words : List Int) :
    (f.equalise requested words).1.active = requested := by
  unfold Feed.equalise
  split
  · next h =>
      rw [h]
      unfold Feed.equalisePlain Feed.setBank
      cases f.active <;> rfl
  · rfl

/-- R104: every output sample lies within the sample range. -/
theorem Feed.process_out_mem (f : Feed) (requested : Bank) (gain : Option Int) (words : List Int) (v : Int)
    (h : v ∈ (f.process requested gain words).out) : -8388608 ≤ v ∧ v ≤ 8388607 := by
  simp only [Feed.process, List.mem_map] at h
  obtain ⟨w, -, rfl⟩ := h
  exact satSample_mem w

/-- R101: with the factor 0 every sample a feed hands on is 0. -/
theorem Feed.process_none (f : Feed) (requested : Bank) (words : List Int) (v : Int)
    (h : v ∈ (f.process requested none words).out) : v = 0 := by
  simp only [Feed.process, List.mem_map] at h
  obtain ⟨w, ⟨y, -, rfl⟩, rfl⟩ := h
  rfl

end Sys2Proof.Machine
end

