-- ==== Sys2Proof/Laws/Signals.lean ====
section
/-! SUPPORT. What the latched gain of a feed, the patterns, the input values of a channel and the judgement of a check
can be (R74 to R76, R101, R107 to R115, R147). -/

namespace Sys2Proof.Machine

/-! ## Latched gains -/

/-- R147: a record acts by an action exactly when it is in ACTION with that action recorded. -/
theorem AlarmRecord.acting_iff (r : AlarmRecord) (a : AlarmAction) :
    r.acting a = true ↔ r.state = .action ∧ ∃ n, r.recorded = some { action := a, amount := n } := by
  unfold AlarmRecord.acting
  cases hr : r.recorded with
  | none => simp
  | some v =>
      cases v with
      | mk b n => simp

/-- R101: record 42 + k mutes feed k. -/
theorem Screen.feedMuted_iff (x : Screen) (k : FeedNo) (fault : RecordNo) (h : fault.val = 42 + k.val) :
    x.feedMuted k = true ↔ x.records[fault].state = .action ∧
      ∃ a, x.records[fault].recorded = some { action := .muteFeed, amount := a } := by
  have : fault = ampFaultRecord k := Fin.ext h
  subst this
  exact AlarmRecord.acting_iff _ _

/-- R101: record 10 + k reduces feed k. -/
theorem Screen.reduction_eq (x : Screen) (k : FeedNo) (overload : RecordNo) (h : overload.val = 10 + k.val)
    (reduction : Nat)
    (hs : ∀ a, x.records[overload].state = .action →
      x.records[overload].recorded = some { action := .reduce, amount := a } → reduction = a)
    (hn : ¬(x.records[overload].state = .action ∧
      ∃ a, x.records[overload].recorded = some { action := .reduce, amount := a }) → reduction = 0) :
    x.reduction k = reduction := by
  have : overload = overloadRecord k := Fin.ext h
  subst this
  unfold Screen.reduction
  split
  · next ha =>
      obtain ⟨h1, a, h2⟩ := (AlarmRecord.acting_iff _ _).mp ha
      rw [hs a h1 h2, h2]
  · next ha => rw [hn (fun hc => ha ((AlarmRecord.acting_iff _ _).mpr hc))]

/-- R101, R102: the latched gain of a feed, by the screen mode. -/
theorem Screen.latchGain_spec :
    ∀ (x : Screen) (k : FeedNo) (overload fault : RecordNo) (g : Int) (reduction : Nat), overload.val = 10 + k.val →
    fault.val = 42 + k.val →
    (∀ a, x.records[overload].state = .action → x.records[overload].recorded = some { action := .reduce, amount := a } →
      reduction = a) →
    (¬(x.records[overload].state = .action ∧
      ∃ a, x.records[overload].recorded = some { action := .reduce, amount := a }) → reduction = 0) →
    let feedMuted := x.records[fault].state = .action ∧
      ∃ a, x.records[fault].recorded = some { action := .muteFeed, amount := a }
    (x.playout.mode = .show → x.level.muted = true ∨ x.level.fader = 0 ∨ feedMuted → x.latchGain k = none) ∧
    (∀ code, x.playout.mode = .show → x.level.muted = false → ¬feedMuted → faderCode x.level.fader = some code →
      g = x.feeds[k].trim + code - reduction → x.latchGain k = if g < -160 then none else some (min 24 g)) ∧
    (∀ position, x.playout.mode = .check → x.signal.checkBlock = some (.dwell position k) →
      (feedMuted → x.latchGain k = none) ∧
      (¬feedMuted → x.latchGain k = some (x.feeds[k].trim - reduction))) ∧
    (x.playout.mode = .check → (∀ position, x.signal.checkBlock ≠ some (.dwell position k)) →
      x.latchGain k = none) := by
  intro x k o f g red ho hf h1 h2
  simp only [← Screen.feedMuted_iff x k f hf]
  have hr := Screen.reduction_eq x k o ho red h1 h2
  refine ⟨?_, ?_, ?_, ?_⟩
  · intro hm hc
    unfold Screen.latchGain Screen.showGain
    rw [hm]
    rcases hc with hc | hc | hc
    · simp [hc]
    · simp [hc, faderCode]
    · simp [hc]
  · intro code hm hmu hfm hcode hg
    unfold Screen.latchGain Screen.showGain limitCode
    rw [hm]
    simp only [hmu, Bool.not_eq_true _ ▸ hfm, hcode, hr, ← hg, Bool.or_self, Bool.false_eq_true, if_false]
    split
    · rfl
    · rw [Int.min_comm]
  · intro pos hm hb
    unfold Screen.latchGain Screen.testGain
    rw [hm, hb]
    simp only [hr, if_true]
    exact ⟨fun h => by simp [h], fun h => by simp [h]⟩
  · intro hm hb
    unfold Screen.latchGain
    rw [hm]
    cases hc : x.signal.checkBlock with
    | none => rfl
    | some b =>
        cases b with
        | gap => rfl
        | closing => rfl
        | dwell p t =>
            have : k ≠ t := fun h => hb p (by rw [hc, h])
            simp [this]


/-! ## Patterns -/

/-- R107: the raw tone samples of a block. -/
theorem toneSamples_getD (tone : Vector Int 32) (p place : Fin 32) (n : Nat) (hn : n < 48)
    (hp : place.val = (p.val + n) % 32) :
    (toneSamples tone p).length = 48 ∧ (toneSamples tone p).getD n 0 = tone[place] := by
  have e : (⟨(p.val + n) % 32, by omega⟩ : Fin 32) = place := Fin.ext hp.symm
  refine ⟨by simp [toneSamples, Config.blockLength], ?_⟩
  simp only [toneSamples, Config.blockLength, List.getD_eq_getElem?_getD, List.getElem?_map,
    List.getElem?_range hn, Option.map_some, Option.getD_some, e]

/-- R108: level 0 passes a raw sample. -/
theorem patternValue_zero (raw : Int) (h : -8388608 ≤ raw ∧ raw ≤ 8388607) : patternValue 0 raw = raw := by
  unfold patternValue scaleByCode
  simp only [Int.zero_emod, Int.toNat_zero, Int.zero_ediv, Int.sub_zero, show mantissa 0 = 8388608 from rfl]
  have : roundShift (raw * 8388608) (Int.toNat 23) = raw := by
    unfold roundShift
    simp only [show Int.toNat 23 = 23 from rfl]
    omega
  rw [this]
  exact clampInt_of_mem h.1 h.2

/-- R110, R113: the input words of a feed, by the latched mode, pattern and check block. -/
theorem inputWords_spec (l : Latched) (check : CheckSpec) (noise tone : List Int) (render : Vector (List Int) 16)
    (k : FeedNo) (words : List Int) (hw : words = inputWords l check noise tone render k) :
    (l.mode = .show → l.pattern = none → words = render[k]) ∧
    (∀ p, l.mode = .show → l.pattern = some p →
      (p.mask.getLsbD k.val = false → words = render[k]) ∧
      (p.mask.getLsbD k.val = true → p.kind = .noise → words = noise.map (patternValue p.level)) ∧
      (p.mask.getLsbD k.val = true → p.kind = .tone → words = tone.map (patternValue p.level))) ∧
    (∀ position, l.mode = .check → l.checkBlock = some (.dwell position k) →
      (check.kind = .noise → words = noise.map (patternValue check.level)) ∧
      (check.kind = .tone → words = tone.map (patternValue check.level))) ∧
    (l.mode = .check → (∀ position, l.checkBlock ≠ some (.dwell position k)) → words = List.replicate 48 0) := by
  subst hw
  unfold inputWords
  refine ⟨?_, ?_, ?_, ?_⟩
  · intro h1 h2; rw [h1, h2]
  · intro p h1 h2
    rw [h1, h2]
    refine ⟨fun h => by simp only [h, Bool.false_eq_true, if_false],
      fun h hk => by simp only [h, hk, if_true, patternWords],
      fun h hk => by simp only [h, hk, if_true, patternWords]⟩
  · intro pos h1 h2
    rw [h1, h2]
    refine ⟨fun h => by simp [h, patternWords], fun h => by simp [h, patternWords]⟩
  · intro h1 h2
    rw [h1]
    cases hc : l.checkBlock with
    | none => rfl
    | some b =>
        cases b with
        | gap => rfl
        | closing => rfl
        | dwell p t =>
            have : k ≠ t := fun h => h2 p (by rw [hc, h])
            simp only [this, if_false]; rfl

/-! ## Input values -/

/-- R74: status and input values of a channel. -/
theorem channelInput_spec (played : Option Block) (c : ChannelNo) :
    (played = none → channelStatus played c = .unplayed ∧ channelInput played c = List.replicate 48 0) ∧
    ∀ b, played = some b →
      (¬(c.val < b.channels ∧ b.present.getLsbD c.val = true) →
        channelStatus played c = .missing ∧ channelInput played c = List.replicate 48 0) ∧
      (c.val < b.channels → b.present.getLsbD c.val = true → channelStatus played c = .present ∧
        ∀ v, b.samples[c.val]? = some v → channelInput played c = v) := by
  refine ⟨fun h => by subst h; exact ⟨rfl, rfl⟩, fun b h => ?_⟩
  subst h
  have hc : b.carries c = true ↔ c.val < b.channels ∧ b.present.getLsbD c.val = true := by
    simp only [Block.carries, Bool.and_eq_true, decide_eq_true_eq]
  refine ⟨fun h => ?_, fun h1 h2 => ?_⟩
  · have : b.carries c = false := Bool.eq_false_iff.mpr fun hh => h (hc.mp hh)
    simp only [channelStatus, channelInput, this, Bool.false_eq_true, if_false]
    exact ⟨trivial, rfl⟩
  · have := hc.mpr ⟨h1, h2⟩
    simp only [channelStatus, channelInput, this, if_true]
    exact ⟨trivial, fun v hv => by rw [List.getD_eq_getElem?_getD, hv]; rfl⟩

/-- R76: the blend, saturated. -/
theorem fillBlend_eq (ca xa cb xb : Int) :
    fillBlend ca xa cb xb = max (-8388608) (min 8388607 ((ca * xa + cb * xb + 8192).fdiv 16384)) := by
  unfold fillBlend
  rw [roundShift_eq_fdiv]
  rfl

/-- R75: a donor's values before substitution. -/
theorem donorValues_eq (inputs : Vector (List Int) 8) (a : ChannelNo) : donorValues inputs a.val = inputs[a] := by
  simp only [donorValues, a.isLt, dite_true]; rfl

/-- R75: a substituted channel has a block of values. -/
theorem substituted_length (inputs : Vector (List Int) 8) (c : ChannelNo) (e : FillEntry)
    (h : ∀ d : ChannelNo, inputs[d].length = 48) : (substituted inputs c e).length = 48 := by
  have hd : ∀ d, (donorValues inputs d).length = 48 := by
    intro d
    unfold donorValues
    split
    · next hd => exact h ⟨d, hd⟩
    · rfl
  unfold substituted
  split
  · exact h c
  · rfl
  · split
    · rw [List.length_map]; exact hd _
    · rw [List.length_zipWith, hd, hd]; rfl

/-- R75, R76: the input values of a channel after substitution. -/
theorem renderInputs_spec (p : Preset) (filled : Vector Bool 8) (inputs : Vector (List Int) 8) (c : ChannelNo)
    (out : List Int)
    (hlen : ∀ d : ChannelNo, inputs[d].length = 48) (hout : out = (renderInputs p filled inputs)[c]) :
    let substitutes := c.val < p.channels ∧ filled[c] = true
    let blend := fun v : Int => max (-8388608) (min 8388607 ((v + 8192).fdiv 16384))
    out.length = 48 ∧
    (¬substitutes ∨ p.fill[c].mode = .none → out = inputs[c]) ∧
    (substitutes → p.fill[c].mode = .mute → out = List.replicate 48 0) ∧
    (∀ a : ChannelNo, substitutes → p.fill[c].mode = .fill → p.fill[c].donorA = a.val → ∀ n, n < 48 →
      (p.fill[c].donorB = none → out.getD n 0 = blend (p.fill[c].coefA * inputs[a].getD n 0)) ∧
      ∀ (b : ChannelNo) (k : Int), p.fill[c].donorB = some (b.val, k) →
        out.getD n 0 = blend (p.fill[c].coefA * inputs[a].getD n 0 + k * inputs[b].getD n 0)) := by
  intro subs blend
  have he : out = if subs then substituted inputs c p.fill[c] else inputs[c] := by
    rw [hout]
    unfold renderInputs
    rw [tabulate_get]
    by_cases h : subs
    · rw [if_pos h, if_pos (by rw [Bool.and_eq_true, decide_eq_true_eq]; exact h)]
    · rw [if_neg h, if_neg (by rw [Bool.and_eq_true, decide_eq_true_eq]; exact h)]
  clear hout
  refine ⟨?_, ?_, ?_, ?_⟩
  · rw [he]; split
    · exact substituted_length _ _ _ hlen
    · exact hlen c
  · intro h
    rw [he]
    split
    · next hs =>
        rcases h with h | h
        · exact absurd hs h
        · simp only [substituted, h]
    · rfl
  · intro hs hm
    rw [he, if_pos hs]
    simp only [substituted, hm]; rfl
  · intro a hs hm ha n hn
    rw [he, if_pos hs]
    have la : n < inputs[a].length := by rw [hlen]; exact hn
    constructor
    · intro hb
      simp only [substituted, hm, hb, ha, donorValues_eq, List.getD_eq_getElem?_getD, List.getElem?_map,
        List.getElem?_eq_getElem la, Option.map_some, Option.getD_some, fillBlend_eq, Int.zero_mul, Int.add_zero, blend]
    · intro b k hb
      have lb : n < inputs[b].length := by rw [hlen]; exact hn
      simp only [substituted, hm, hb, ha, donorValues_eq, List.getD_eq_getElem?_getD, List.getElem?_zipWith,
        List.getElem?_eq_getElem la, List.getElem?_eq_getElem lb, Option.getD_some, fillBlend_eq, blend]


/-! ## The check -/

/-- R112: where a check block stands in the feed list. -/
theorem CheckRecord.blockAt_spec (c : CheckRecord) (n span : Nat) (hspan : span = c.spec.dwell + 1) :
    (∀ k, n < c.feeds.length * span → n % span < c.spec.dwell → c.feeds[n / span]? = some k →
      c.blockAt n = .dwell (n / span) k) ∧
    (n < c.feeds.length * span → n % span = c.spec.dwell → c.blockAt n = .gap) ∧
    (c.feeds.length * span ≤ n → c.blockAt n = .closing) := by
  subst hspan
  unfold CheckRecord.blockAt CheckRecord.closingCount CheckRecord.span
  refine ⟨fun k h1 h2 h3 => by rw [if_pos h1, if_pos h2, h3], fun h1 h2 => by rw [if_pos h1, if_neg (by omega)],
    fun h => by rw [if_neg (by omega)]⟩

/-- R113: stage 1 of a boundary counts the check block and marks the feed at its first dwell block. -/
theorem Signal.countCheck_spec (g : Signal) (n : Nat)
    (hn : n = (match g.check.count with | none => 0 | some m => m + 1)) :
    (g.check.running = false → g.countCheck = g) ∧
    (g.check.running = true → ∃ results : Vector ResultEntry 16,
      g.countCheck = { g with check := { g.check with count := some n }, results := results } ∧
      ∀ k : FeedNo,
        (∀ position, g.check.blockAt n = .dwell position k → n % (g.check.spec.dwell + 1) = 0 →
          results[k] = { g.results[k] with state := .running }) ∧
        (¬(n % (g.check.spec.dwell + 1) = 0 ∧ ∃ position, g.check.blockAt n = .dwell position k) →
          results[k] = g.results[k])) := by
  have hn' : g.check.nextCount = n := by rw [hn]; rfl
  unfold Signal.countCheck
  rw [hn']
  refine ⟨fun h => by rw [h]; rfl, fun h => ?_⟩
  rw [if_pos h]
  dsimp only
  cases hb : g.check.blockAt n with
  | gap => exact ⟨g.results, rfl, fun k => ⟨fun p hp => (by cases hp), fun _ => rfl⟩⟩
  | closing => exact ⟨g.results, rfl, fun k => ⟨fun p hp => (by cases hp), fun _ => rfl⟩⟩
  | dwell p f =>
      by_cases hm : n % g.check.span = 0
      · refine ⟨adjust g.results f fun r => { r with state := .running }, by dsimp only; rw [if_pos hm]; rfl,
          fun k => ⟨?_, ?_⟩⟩
        · intro q hq _
          cases hq
          rw [adjust_same]
        · intro hne
          rw [adjust_other]
          intro he
          subst he
          exact hne ⟨hm, p, rfl⟩
      · exact ⟨g.results, by dsimp only; rw [if_neg hm], fun k => ⟨fun _ _ h0 => absurd h0 hm, fun _ => rfl⟩⟩

/-- R114: the return of the dwell block two before block n. -/
theorem Signal.judgeReturn_results (g : Signal) (n : Nat) (handed : Vector Handed 2) :
    ∃ counted : Vector ResultEntry 16, g.judgeReturn n handed = { g with results := counted } ∧
      ∀ k : FeedNo,
          (∀ position v, 2 ≤ n → g.check.blockAt (n - 2) = .dwell position k → feedReturn handed k = .received v →
            counted[k] =
              { g.results[k] with
                hits := g.results[k].hits +
                  (if g.check.spec.returnFloor ≤ v.peak ∧ v.protect = false ∧ v.thermal = false then 1 else 0)
                maxPeak := max g.results[k].maxPeak v.peak }) ∧
          (¬(2 ≤ n ∧ (∃ position, g.check.blockAt (n - 2) = .dwell position k) ∧
              ∃ v, feedReturn handed k = .received v) → counted[k] = g.results[k]) := by
  unfold Signal.judgeReturn
  by_cases h2 : 2 ≤ n
  · rw [if_pos h2]
    cases hb : g.check.blockAt (n - 2) with
    | gap => exact ⟨g.results, rfl, fun k => ⟨fun p v _ hp => (by cases hp), fun _ => rfl⟩⟩
    | closing => exact ⟨g.results, rfl, fun k => ⟨fun p v _ hp => (by cases hp), fun _ => rfl⟩⟩
    | dwell p f =>
        refine ⟨_, rfl, fun k => ⟨?_, ?_⟩⟩
        · intro q v _ hq hv
          cases hq
          rw [adjust_same]
          unfold ResultEntry.judge
          rw [hv]
          dsimp only
          cases hp : v.protect <;> cases ht : v.thermal <;>
            by_cases hf : g.check.spec.returnFloor ≤ v.peak <;> simp [hf]
        · intro hne
          by_cases he : k = f
          · subst he
            rw [adjust_same]
            unfold ResultEntry.judge
            cases hv : feedReturn handed k with
            | none => rfl
            | lost => rfl
            | received v => exact absurd ⟨h2, ⟨p, rfl⟩, v, hv⟩ hne
          · rw [adjust_other _ _ _ _ he]
  · rw [if_neg h2]
    exact ⟨g.results, rfl, fun k => ⟨fun _ _ h => absurd h h2, fun _ => rfl⟩⟩

/-- R115: the result decided at block n. -/
theorem Signal.decideAt_results (g : Signal) (n : Nat) :
    ∃ results : Vector ResultEntry 16, g.decideAt n = { g with results := results } ∧
      ∀ k : FeedNo, results[k] =
            if 0 < n ∧ n % (g.check.spec.dwell + 1) = 0 ∧
                g.check.feeds[n / (g.check.spec.dwell + 1) - 1]? = some k then
              { g.results[k] with state := if g.check.spec.passCount ≤ g.results[k].hits then .pass else .fail }
            else g.results[k] := by
  unfold Signal.decideAt CheckRecord.span
  by_cases h : 0 < n ∧ n % (g.check.spec.dwell + 1) = 0
  · rw [if_pos h]
    unfold Signal.decideFeed
    cases hf : g.check.feeds[n / (g.check.spec.dwell + 1) - 1]? with
    | none => exact ⟨g.results, rfl, fun k => by simp⟩
    | some f =>
        refine ⟨_, rfl, fun k => ?_⟩
        rw [adjust_get]
        by_cases he : k = f
        · subst he
          rw [if_pos rfl, if_pos ⟨h.1, h.2, rfl⟩]; rfl
        · rw [if_neg he, if_neg (fun hh => he (Option.some.inj hh.2.2).symm)]
  · rw [if_neg h]
    exact ⟨g.results, rfl, fun k => by rw [if_neg (fun hh => h ⟨hh.1, hh.2.1⟩)]⟩

/-- R114, R115: stage 6 of a boundary at the check. -/
theorem State.checkStage_spec (s : State) (i : ScreenNo) (handed : Vector Handed 2) (g : Signal)
    (hg : g = s.screens[i].signal) :
    (g.check.running = false ∨ g.check.count = none → s.checkStage i handed = s) ∧
    ∀ n, g.check.running = true → g.check.count = some n →
      ∃ counted results : Vector ResultEntry 16,
        (∀ k : FeedNo,
          (∀ position v, 2 ≤ n → g.check.blockAt (n - 2) = .dwell position k → feedReturn handed k = .received v →
            counted[k] =
              { g.results[k] with
                hits := g.results[k].hits +
                  (if g.check.spec.returnFloor ≤ v.peak ∧ v.protect = false ∧ v.thermal = false then 1 else 0)
                maxPeak := max g.results[k].maxPeak v.peak }) ∧
          (¬(2 ≤ n ∧ (∃ position, g.check.blockAt (n - 2) = .dwell position k) ∧
              ∃ v, feedReturn handed k = .received v) → counted[k] = g.results[k]) ∧
          results[k] =
            if 0 < n ∧ n % (g.check.spec.dwell + 1) = 0 ∧
                g.check.feeds[n / (g.check.spec.dwell + 1) - 1]? = some k then
              { counted[k] with state := if g.check.spec.passCount ≤ counted[k].hits then .pass else .fail }
            else counted[k]) ∧
        (n ≠ g.check.feeds.length * (g.check.spec.dwell + 1) →
          s.checkStage i handed = s.modScreen i fun x => { x with signal := { g with results := results } }) ∧
        (n = g.check.feeds.length * (g.check.spec.dwell + 1) →
          s.checkStage i handed = (s.modScreen i fun x =>
            { x with
              playout := { x.playout with mode := .show }
              signal :=
                { g with check := { g.check with running := false, count := none }, results := results } }).offerNotice
            { kind := .checkDone, screen := i, subject := 0, state := 0
              valueA := ((List.finRange 16).filter fun k => results[k].state = .pass).length
              valueB := ((List.finRange 16).filter fun k => results[k].state = .fail).length
              st := s.stNow i }) := by
  constructor
  · intro h
    unfold State.checkStage
    rw [← hg]
    dsimp only
    rcases h with h | h
    · rw [h]
    · rw [h]
      cases g.check.running <;> rfl
  · intro n hr hc
    obtain ⟨counted, hj, hcount⟩ := g.judgeReturn_results n handed
    obtain ⟨results, hd, hres⟩ := Signal.decideAt_results (g.judgeReturn n handed) n
    rw [hj] at hd hres
    have hjc : g.judgeCheck n handed = { g with results := results } := by
      unfold Signal.judgeCheck
      rw [hj, hd]
    refine ⟨counted, results, fun k => ⟨(hcount k).1, (hcount k).2, hres k⟩, ?_, ?_⟩
    · intro hne
      unfold State.checkStage
      rw [← hg]
      dsimp only
      rw [hr, hc]
      dsimp only
      rw [if_neg (show ¬n = g.check.closingCount from hne)]
      unfold State.modSignal State.modScreen
      simp only [adjust_eq_set, ← hg, hjc]
    · intro he
      unfold State.checkStage
      rw [← hg]
      dsimp only
      rw [hr, hc]
      dsimp only
      rw [if_pos (show n = g.check.closingCount from he)]
      unfold State.completeCheck State.raiseCheckDone State.raise State.stNow
      have key : ((((s.modSignal i fun g => g.judgeCheck n handed).modSignal i fun g =>
          { g with check := g.check.idle }).modScreen i fun x => x.setMode .show)) =
          (s.modScreen i fun x =>
            { x with
              playout := { x.playout with mode := .show }
              signal :=
                { g with check := { g.check with running := false, count := none }, results := results } }) := by
        unfold State.modSignal State.modScreen Screen.setMode CheckRecord.idle
        simp only [adjust_adjust]
        have : ∀ f1 f2 : Screen → Screen, f1 s.screens[i] = f2 s.screens[i] →
            adjust s.screens i f1 = adjust s.screens i f2 := by
          intro f1 f2 h; rw [adjust_eq_set, adjust_eq_set, h]
        rw [this _ _ ?_]
        simp only [← hg, hjc]
      rw [key]
      unfold Signal.countResults
      simp only [State.modScreen_screens, adjust_same, indexes_eq_finRange]


end Sys2Proof.Machine
end

