-- ==== Sys2Proof/Laws/Stages.lean ====
section
/-! SUPPORT. What each stage of a boundary leaves of its screen, and which frames it offers (R37 to R45, R61, R80, R121,
R129 to R134, R145). -/

namespace Sys2Proof.Machine

/-! ## Frames offered -/

/-- R174, R175: the frames `fs` offered one after another by screen i: as many as fit are placed, and a notice among the
rest sets the notice-lost flag. -/
def State.offers (i : ScreenNo) (fs : List UpFrame) (s t : State) : Prop :=
  t.reports = s.reports ++ fs.take (32 - s.reports.length) ∧
    (t.screens[i].noticeLost = true ↔
      s.screens[i].noticeLost = true ∨ ∃ n, UpFrame.notice n ∈ fs.drop (32 - s.reports.length))

/-- Nothing is offered where neither the Report Queue nor the flag changes. -/
theorem State.offers.none {i : ScreenNo} {s t : State} (hr : t.reports = s.reports)
    (hn : t.screens[i].noticeLost = s.screens[i].noticeLost) : State.offers i [] s t := by
  refine ⟨by simp [hr], ?_⟩
  rw [hn]
  simp

/-- Offers made one after the other. -/
theorem State.offers.trans {i : ScreenNo} {fs gs : List UpFrame} {s t u : State} (h1 : State.offers i fs s t)
    (h2 : State.offers i gs t u) : State.offers i (fs ++ gs) s u := by
  have hl : 32 - t.reports.length = 32 - s.reports.length - fs.length := by
    rw [h1.1, List.length_append, List.length_take]; omega
  refine ⟨?_, ?_⟩
  · rw [h2.1, List.take_append, ← List.append_assoc, ← h1.1, hl]
  · rw [h2.2, h1.2, List.drop_append, hl]
    simp only [List.mem_append, exists_or, or_assoc]

/-- R174, R175: one notice of screen i offered. -/
theorem State.offerNotice_offers (i : ScreenNo) (n : Notice) (s : State) (h : n.screen = i) :
    State.offers i [.notice n] s (s.offerNotice n) := by
  by_cases hl : s.reports.length < 32
  · obtain ⟨k, hk⟩ : ∃ k, 32 - s.reports.length = k + 1 := ⟨31 - s.reports.length, by omega⟩
    rw [State.offerNotice_of_space _ _ hl]
    simp [State.offers, hk]
  · rw [State.offerNotice_of_full _ _ hl]
    have hk : 32 - s.reports.length = 0 := by omega
    refine ⟨by simp [hk], ?_⟩
    subst h
    rw [State.modScreen_same, hk]
    simp

/-! ## What a stage leaves -/

/-- A stage of screen i that leaves the screen `y` but for its notice-lost flag, offers the frames `fs`, and leaves the
entries, the slots, the presets and the tone table as they were. -/
def State.leaves (i : ScreenNo) (y : Screen) (fs : List UpFrame) (s t : State) : Prop :=
  { t.screens[i] with noticeLost := y.noticeLost } = y ∧ State.offers i fs s t ∧ t.entries = s.entries ∧
    t.freeSlots = s.freeSlots ∧ t.presets = s.presets ∧ t.tone = s.tone

/-- What is left, as an equation of the screen. -/
theorem State.leaves.screen {i : ScreenNo} {y : Screen} {fs : List UpFrame} {s t : State}
    (h : State.leaves i y fs s t) :
    t.screens[i] = { y with noticeLost := t.screens[i].noticeLost } := by
  rw [← h.1]

/-- An update of the screen that leaves its notice-lost flag. -/
theorem State.modScreen_leaves (i : ScreenNo) (f : Screen → Screen) (s : State)
    (h : (f s.screens[i]).noticeLost = s.screens[i].noticeLost) :
    State.leaves i (f s.screens[i]) [] s (s.modScreen i f) :=
  ⟨by rw [State.modScreen_same], .none rfl (by rw [State.modScreen_same, h]), rfl, rfl, rfl, rfl⟩

/-- A notice. -/
theorem State.offerNotice_leaves (i : ScreenNo) (n : Notice) (s : State) (h : n.screen = i) :
    State.leaves i s.screens[i] [.notice n] s (s.offerNotice n) :=
  ⟨by rw [State.offerNotice_screen], State.offerNotice_offers i n s h, by simp, by simp, by simp, by simp⟩

/-- R9: a notice with the screen's current time. -/
theorem State.raise_leaves (i : ScreenNo) (k : NoticeKind) (a b c : Nat) (d : Int) (s : State) :
    State.leaves i s.screens[i]
      [.notice { kind := k, screen := i, subject := a, state := b, valueA := c, valueB := d, st := s.stNow i }] s
      (s.raise k i a b c d) :=
  State.offerNotice_leaves i _ s rfl

/-- Two stages, the second of which treats the flag as it found it. -/
theorem State.leaves.trans {i : ScreenNo} {y : Screen} {f : Screen → Screen} {fs gs : List UpFrame} {s t u : State}
    (h1 : State.leaves i y fs s t) (h2 : State.leaves i (f t.screens[i]) gs t u)
    (hf : ∀ b : Bool, { f { y with noticeLost := b } with noticeLost := (f y).noticeLost } = f y) :
    State.leaves i (f y) (fs ++ gs) s u := by
  refine ⟨?_, h1.2.1.trans h2.2.1, h2.2.2.1.trans h1.2.2.1, h2.2.2.2.1.trans h1.2.2.2.1,
    h2.2.2.2.2.1.trans h1.2.2.2.2.1, h2.2.2.2.2.2.trans h1.2.2.2.2.2⟩
  rw [h2.screen, h1.screen]
  exact hf _

/-- An update of the screen after a stage. -/
theorem State.leaves.modScreen {i : ScreenNo} {y : Screen} {fs : List UpFrame} {s t : State}
    (h : State.leaves i y fs s t) (f : Screen → Screen) (hn : (f t.screens[i]).noticeLost = t.screens[i].noticeLost)
    (hf : ∀ b : Bool, { f { y with noticeLost := b } with noticeLost := (f y).noticeLost } = f y) :
    State.leaves i (f y) fs s (t.modScreen i f) := by
  have := h.trans (f := f) (State.modScreen_leaves i f t hn) hf
  rw [List.append_nil] at this
  exact this

/-! ## Stage 2: time -/

/-- A tally of the screen. -/
theorem State.bumpScreen_leaves (i : ScreenNo) (t : ScreenTally) (s : State) :
    State.leaves i (Screen.bump t s.screens[i]) [] s (s.bumpScreen i t) :=
  State.modScreen_leaves i _ s rfl

/-- A change of the clock. -/
theorem State.modClock_leaves (i : ScreenNo) (f : Clock → Clock) (s : State) :
    State.leaves i { s.screens[i] with clock := f s.screens[i].clock } [] s (s.modClock i f) :=
  State.modScreen_leaves i (fun x => { x with clock := f x.clock }) s rfl

/-- R50: the clock after the block advance. -/
def Clock.advanced (c : Clock) : Clock :=
  { c with base := c.base + BitVec.ofNat 32 c.advance, elapsed := 0, slip := c.slipAfter }

/-- R50: the advance and its tally. -/
theorem State.advanceClock_leaves (i : ScreenNo) (s : State) :
    State.leaves i
      { s.screens[i] with
        clock := s.screens[i].clock.advanced
        tallies :=
          if s.screens[i].clock.slip = 0 then s.screens[i].tallies
          else (Screen.bump .slip s.screens[i]).tallies } [] s (s.advanceClock i) := by
  have h := State.modClock_leaves i Clock.advanced s
  unfold State.advanceClock
  dsimp only
  split
  · exact h
  · exact h.trans (f := Screen.bump .slip) (State.bumpScreen_leaves i .slip _) fun _ => rfl

/-- R61: the clock of a boundary once its count has risen and the timeout has been judged. -/
def Clock.counted (c : Clock) (timeout : Nat) : Clock :=
  if c.state = .locked ∧ timeout ≤ c.countBlock.sinceReference then c.countBlock.toHoldover else c.countBlock

/-- R61: the count leaves e. -/
theorem Clock.counted_elapsed (c : Clock) (timeout : Nat) : (c.counted timeout).elapsed = c.elapsed := by
  unfold Clock.counted
  split <;> rfl

/-- R61, R64: the CLOCK notice of a timeout. -/
def Clock.timeoutFrames (i : ScreenNo) (c : Clock) (timeout : Nat) : List UpFrame :=
  if c.state = .locked ∧ timeout ≤ c.countBlock.sinceReference then
    [.notice { kind := .clock, screen := i, subject := 0, state := 3, valueA := 0, valueB := 0, st := c.now }]
  else []

/-- R61: the count, the timeout and its notice. -/
theorem State.countReference_leaves (i : ScreenNo) (s : State) :
    State.leaves i
      { s.screens[i] with clock := s.screens[i].clock.counted s.screens[i].settings.referenceTimeout }
      (s.screens[i].clock.timeoutFrames i s.screens[i].settings.referenceTimeout) s (s.countReference i) := by
  have h := State.modClock_leaves i Clock.countBlock s
  have hl : (s.modClock i Clock.countBlock).screens[i].referenceLost =
      decide (s.screens[i].clock.state = .locked ∧
        s.screens[i].settings.referenceTimeout ≤ s.screens[i].clock.countBlock.sinceReference) := by
    rw [h.screen]
    unfold Screen.referenceLost
    simp [Clock.countBlock]
  unfold State.countReference State.timeoutReference Clock.counted Clock.timeoutFrames
  rw [hl]
  simp only [decide_eq_true_eq]
  split
  · have h2 := h.trans (f := fun x => { x with clock := Clock.toHoldover x.clock })
      (State.modClock_leaves i Clock.toHoldover _) fun _ => rfl
    have h3 := h2.trans (f := fun x => x) (State.raise_leaves i .clock 0 3 0 0 _) fun _ => rfl
    have hs : ((s.modClock i Clock.countBlock).modClock i Clock.toHoldover).screens[i].clock.state.code = 3 := by
      rw [h2.screen]; rfl
    have ht : ((s.modClock i Clock.countBlock).modClock i Clock.toHoldover).stNow i = s.screens[i].clock.now := by
      unfold State.stNow; rw [h2.screen]; rfl
    unfold State.raiseClock
    rw [hs, ← ht]
    exact h3
  · exact h

/-- R51: a step of ST; one of amount 0 is not made. -/
theorem State.stepClock_leaves (i : ScreenNo) (d : Int) (s : State) :
    State.leaves i
      { s.screens[i] with
        clock := { s.screens[i].clock with base := s.screens[i].clock.base + BitVec.ofInt 32 d }
        tallies := if d = 0 then s.screens[i].tallies else (Screen.bump .step s.screens[i]).tallies } [] s
      (s.stepClock i d) := by
  by_cases hd : d = 0
  · subst hd
    rw [State.stepClock_zero]
    exact ⟨by simp, .none rfl rfl, rfl, rfl, rfl, rfl⟩
  · have hs := State.stepClock_screens i d s hd
    have he : (s.stepClock i d).screens[i] = Screen.bump .step
        { s.screens[i] with
          clock := { s.screens[i].clock with base := s.screens[i].clock.base + BitVec.ofInt 32 d } } := by
      simp only [hs]
      exact adjust_same _ _ _
    rw [State.stepClock_eq]
    refine ⟨?_, .none rfl ?_, rfl, rfl, rfl, rfl⟩
    · show ({ (s.stepClock i d).screens[i] with noticeLost := _ } : Screen) = _
      rw [he, if_neg hd]
      rfl
    · show (s.stepClock i d).screens[i].noticeLost = _
      rw [he]
      rfl

/-- R44, R64: the CLOCK notice of a resync, none where it is no step. -/
def Clock.resyncFrames (i : ScreenNo) (c : Clock) (pt : Option ScreenTime) : List UpFrame :=
  match pt with
  | none => []
  | some t =>
      if t = c.base then []
      else
        [.notice { kind := .clock, screen := i, subject := 0, state := c.state.code, valueA := 0,
                   valueB := signedDiff t c.base, st := t }]

/-- R44: the clock after a resync. -/
def Clock.resynced (c : Clock) (pt : Option ScreenTime) : Clock := { c with base := pt.getD c.base }

/-- R44, R51, R64: a resync at an elapsed count of 0. -/
theorem State.resync_leaves (i : ScreenNo) (s : State) (h : s.screens[i].clock.elapsed = 0) :
    State.leaves i
      { s.screens[i] with
        clock := s.screens[i].clock.resynced s.screens[i].resyncTime
        playout := { s.screens[i].playout with
          resync := s.screens[i].playout.resync && s.screens[i].resyncTime.isNone }
        tallies :=
          if (s.screens[i].clock.resyncFrames i s.screens[i].resyncTime).isEmpty then s.screens[i].tallies
          else (Screen.bump .step s.screens[i]).tallies }
      (s.screens[i].clock.resyncFrames i s.screens[i].resyncTime) s (s.resync i) := by
  have hn : s.stNow i = s.screens[i].clock.base := by
    unfold State.stNow Clock.now
    rw [h]
    simp
  unfold State.resync
  cases hr : s.screens[i].resyncTime with
  | none =>
    refine ⟨?_, .none rfl rfl, rfl, rfl, rfl, rfl⟩
    simp [Clock.resynced, Clock.resyncFrames]
  | some pt =>
    dsimp only
    rw [hn]
    have h1 := State.modScreen_leaves i (fun x => { x with playout := { x.playout with resync := false } }) s rfl
    by_cases hd : pt = s.screens[i].clock.base
    · rw [if_pos ((signedDiff_eq_zero _ _).mpr hd)]
      have hf : s.screens[i].clock.resyncFrames i (some pt) = [] := by
        unfold Clock.resyncFrames
        dsimp only
        rw [if_pos hd]
      rw [hf]
      refine ⟨?_, h1.2⟩
      rw [h1.screen]
      subst hd
      simp [Clock.resynced]
    · rw [if_neg (fun hc => hd ((signedDiff_eq_zero _ _).mp hc))]
      have h2 := h1.trans (f := fun x => { x with
        clock := { x.clock with base := x.clock.base + BitVec.ofInt 32 (signedDiff pt s.screens[i].clock.base) }
        tallies := if signedDiff pt s.screens[i].clock.base = 0 then x.tallies else (Screen.bump .step x).tallies })
        (State.stepClock_leaves i _ _) fun _ => rfl
      have h3 := h2.trans (f := fun x => x) (State.raise_leaves i .clock 0 s.screens[i].clock.state.code 0
        (signedDiff pt s.screens[i].clock.base) _) fun _ => rfl
      have hc : (((s.modScreen i fun x => { x with playout := { x.playout with resync := false } }).stepClock i
          (signedDiff pt s.screens[i].clock.base)).screens[i]).clock =
          { s.screens[i].clock with base := pt } := by
        rw [h2.screen]
        simp [add_signedDiff]
      have hf : s.screens[i].clock.resyncFrames i (some pt) = _ := if_neg hd
      have hd' : ¬signedDiff pt s.screens[i].clock.base = 0 := fun hc => hd ((signedDiff_eq_zero _ _).mp hc)
      unfold State.raiseClock
      rw [hc]
      unfold State.stNow Clock.now at h3
      rw [hc, h] at h3
      rw [if_neg hd', add_signedDiff] at h3
      rw [hf]
      refine ⟨?_, by simpa using h3.2.1, h3.2.2⟩
      rw [h3.screen]
      simp [Clock.resynced, Screen.bump]

/-! ## Stage 2: selection and pruning -/

/-- Operations on the pool: they change the program queue, the standby queue, the resync flag and the tallies of the
screen, and the slots and the entries' tallies besides. -/
def State.keepsAllButPool (i : ScreenNo) (s t : State) : Prop :=
  t.screens[i] =
      { s.screens[i] with
        playout := { s.screens[i].playout with
          program := t.screens[i].playout.program
          standby := t.screens[i].playout.standby
          resync := t.screens[i].playout.resync }
        tallies := t.screens[i].tallies } ∧
    t.reports = s.reports ∧ t.presets = s.presets ∧ t.tone = s.tone

theorem State.keepsAllButPool.refl {i : ScreenNo} (s : State) : State.keepsAllButPool i s s := ⟨rfl, rfl, rfl, rfl⟩

theorem State.keepsAllButPool.trans {i : ScreenNo} {s t u : State} (h1 : State.keepsAllButPool i s t)
    (h2 : State.keepsAllButPool i t u) : State.keepsAllButPool i s u := by
  refine ⟨?_, h2.2.1.trans h1.2.1, h2.2.2.1.trans h1.2.2.1, h2.2.2.2.trans h1.2.2.2⟩
  have a := h2.1
  rw [h1.1] at a
  exact a

/-- A tally of an entry that may be absent. -/
theorem State.bumpEntry?_keepsAllButPool (i : ScreenNo) (e : Option EntryNo) (t : EntryTally) (n : Nat) (s : State) :
    State.keepsAllButPool i s (s.bumpEntry? e t n) := by
  cases e <;> exact ⟨rfl, rfl, rfl, rfl⟩

/-- R36: a tally of the screen. -/
theorem State.bumpScreen_keepsAllButPool (i : ScreenNo) (t : ScreenTally) (s : State) :
    State.keepsAllButPool i s (s.bumpScreen i t) := by
  refine ⟨?_, rfl, rfl, rfl⟩
  unfold State.bumpScreen
  rw [State.modScreen_same]
  rfl

/-- Slots given back and the queues replaced. -/
theorem State.release_modScreen_keepsAllButPool (i : ScreenNo) (n : Nat) (s : State) (f : Screen → Screen)
    (h : ∀ x, f x = { x with playout := { x.playout with
      program := (f x).playout.program, standby := (f x).playout.standby, resync := (f x).playout.resync } }) :
    State.keepsAllButPool i s ((s.release n).modScreen i f) := by
  refine ⟨?_, rfl, rfl, rfl⟩
  rw [State.modScreen_same]
  rw [h]
  rfl

/-- R36, R41: the tally of the decision. -/
theorem State.countDecision_keepsAllButPool (i : ScreenNo) (a : Option EntryNo) (d : Decision) (s : State) :
    State.keepsAllButPool i s (s.countDecision i a d) := by
  unfold State.countDecision
  cases d
  all_goals first
    | exact .refl s
    | exact State.bumpScreen_keepsAllButPool _ _ _
    | exact State.bumpEntry?_keepsAllButPool _ _ _ _ _
    | (dsimp only; split
       · exact State.bumpScreen_keepsAllButPool _ _ _
       · exact .refl s)

/-- R41 to R43: a selection. -/
theorem State.applySelection_keepsAllButPool (i : ScreenNo) (a : Option EntryNo) (r : Selection) (s : State) :
    State.keepsAllButPool i s (s.applySelection i a r) := by
  unfold State.applySelection
  dsimp only
  refine .trans ?_ (State.countDecision_keepsAllButPool _ _ _ _)
  refine .trans ?_ (State.bumpEntry?_keepsAllButPool _ _ _ _ _)
  refine .trans ?_ (State.bumpEntry?_keepsAllButPool _ _ _ _ _)
  exact State.release_modScreen_keepsAllButPool _ _ _ _ fun _ => rfl

/-- R45: standby pruning. -/
theorem State.pruneStandby_keepsAllButPool (i : ScreenNo) (s : State) :
    State.keepsAllButPool i s (s.pruneStandby i) := by
  unfold State.pruneStandby
  dsimp only
  split
  · exact .refl s
  · refine .trans ?_ (State.bumpEntry?_keepsAllButPool _ _ _ _ _)
    exact State.release_modScreen_keepsAllButPool _ _ _ _ fun _ => rfl

/-! ## Retirement, the meter, evaluation and the check -/

/-- R80: the RETIRED notice of record k of a screen at time t. -/
def retiredFrame (i : ScreenNo) (t : ScreenTime) (k : RecordNo) : UpFrame :=
  .notice { kind := .alarm, screen := i, subject := 58 * i.val + k.val, state := 0, valueA := 3, valueB := 0, st := t }

/-- R80: the RETIRED notices, in the order of the records. -/
theorem State.raiseRetired_leaves (i : ScreenNo) (ks : List RecordNo) (s : State) :
    State.leaves i s.screens[i] (ks.map (retiredFrame i (s.stNow i))) s (s.raiseRetired i ks) := by
  induction ks generalizing s with
  | nil => exact ⟨rfl, .none rfl rfl, rfl, rfl, rfl, rfl⟩
  | cons k ks ih =>
    have h1 := State.raise_leaves i .alarm (58 * i.val + k.val) 0 3 0 s
    have h2 := h1.trans (f := fun x => x) (ih _) fun _ => rfl
    have ht : (s.raiseAlarm i k .normal 3).stNow i = s.stNow i := by
      unfold State.stNow
      rw [show (s.raiseAlarm i k .normal 3).screens[i] = _ from h1.screen]
    refine ⟨h2.1, ?_, h2.2.2⟩
    have h3 := h2.2.1
    rw [show (s.raise .alarm i (58 * i.val + k.val) 0 3 0).stNow i = s.stNow i from ht] at h3
    exact h3

/-- R174: a METER frame offered by its screen. -/
theorem State.place_offers (i : ScreenNo) (m : MeterFrame) (s : State) (h : s.reports.length < 32) :
    State.offers i [.meter m] s (s.place (.meter m)) := by
  obtain ⟨k, hk⟩ : ∃ k, 32 - s.reports.length = k + 1 := ⟨31 - s.reports.length, by omega⟩
  simp [State.offers, hk]

/-- R132: a screen after its meter stage, in a Report Queue that has room for the frame or has none. -/
def Screen.metered (x : Screen) (room : Bool) : Screen :=
  if x.meterFalls then if room then { x.clearHolds with meterCount := 0 } else { x with meterCount := 0 }
  else { x with meterCount := if x.settings.meterInterval = 0 then 0 else x.meterCount + 1 }

/-- R132: the meter stage changes the holds and the meter count alone. -/
theorem Screen.metered_eq (x : Screen) (room : Bool) :
    x.metered room =
      { x with
        feeds := (x.metered room).feeds
        channelHolds := (x.metered room).channelHolds
        meterCount := (x.metered room).meterCount } := by
  unfold Screen.metered
  split
  · split <;> rfl
  · rfl

/-- R132, R174: the meter stage: the frame of a screen that falls due, placed or dropped. -/
theorem State.meterStage_leaves (i : ScreenNo) (s : State) :
    State.leaves i (s.screens[i].metered (decide (s.reports.length < 32)))
      (if s.screens[i].meterFalls then [.meter (s.meterFrame i)] else []) s (s.meterStage i) := by
  unfold State.meterStage Screen.metered
  split
  · unfold State.emitMeter State.offerMeter
    simp only [State.reportSpace_iff, decide_eq_true_eq]
    split
    · next h =>
      have h1 : State.leaves i s.screens[i] [.meter (s.meterFrame i)] s (s.place (.meter (s.meterFrame i))) :=
        ⟨by simp, State.place_offers i _ s h, by simp, by simp, by simp, by simp⟩
      have h2 := h1.trans (State.modScreen_leaves i Screen.clearHolds _ rfl) fun _ => rfl
      exact h2.trans (f := fun x => { x with meterCount := 0 }) (State.modScreen_leaves i _ _ rfl) fun _ => rfl
    · next h =>
      have h1 := State.modScreen_leaves i (fun x => { x with meterCount := 0 }) s rfl
      refine ⟨h1.1, ⟨?_, ?_⟩, h1.2.2⟩
      · simp [show 32 - s.reports.length = 0 by omega]
      · rw [State.modScreen_same, show 32 - s.reports.length = 0 by omega]
        simp
  · exact State.modScreen_leaves i (fun x =>
      { x with meterCount := if x.settings.meterInterval = 0 then 0 else x.meterCount + 1 }) s rfl

/-- R134, R143: record k of a screen after its evaluation, and the cause of its notice. -/
def Screen.evaluated (x : Screen) (b : BlockReport) (k : RecordNo) : AlarmRecord × Option Nat :=
  x.records[k].evaluate x.profiles[(recordKind k).profileIndex] x.clock.now (x.judge b k)

/-- R145: the notice of a transition of record k, none where there is none. -/
def Screen.alarmFrame (i : ScreenNo) (x : Screen) (b : BlockReport) (k : RecordNo) : Option UpFrame :=
  if recordInUse x.render.latched k then
    (x.evaluated b k).2.map fun cause => .notice
      { kind := .alarm, screen := i, subject := 58 * i.val + k.val, state := (x.evaluated b k).1.state.code,
        valueA := cause, valueB := 0, st := x.clock.now }
  else none

/-- R134, R145: one record in use. -/
theorem State.evaluateRecord_leaves (i : ScreenNo) (b : BlockReport) (k : RecordNo) (s : State)
    (h : recordInUse s.screens[i].render.latched k = true) :
    State.leaves i
      { s.screens[i] with
        records := adjust s.screens[i].records k fun _ => (s.screens[i].evaluated b k).1 }
      (s.screens[i].alarmFrame i b k).toList s (s.evaluateRecord i b k) := by
  have h1 := State.modScreen_leaves i (fun x =>
    { x with records := adjust x.records k fun _ => (s.screens[i].evaluated b k).1 }) s rfl
  unfold Screen.alarmFrame State.evaluateRecord
  rw [if_pos h]
  dsimp only
  cases hc : (s.screens[i].evaluated b k).2 with
  | none =>
    unfold Screen.evaluated at hc
    rw [hc]
    exact h1
  | some cause =>
    have hc' := hc
    unfold Screen.evaluated at hc'
    rw [hc']
    have h2 := h1.trans (f := fun x => x) (State.raise_leaves i .alarm (58 * i.val + k.val)
      (s.screens[i].evaluated b k).1.state.code cause 0 _) fun _ => rfl
    unfold State.stNow at h2
    rw [h1.screen] at h2
    exact h2

/-- The records of a screen once those of a list that are in use have been evaluated. -/
def Screen.evaluatedRecords (x : Screen) (b : BlockReport) (ks : List RecordNo) : Vector AlarmRecord 58 :=
  tabulate fun k => if k ∈ ks ∧ recordInUse x.render.latched k = true then (x.evaluated b k).1 else x.records[k]

/-- R134: the evaluation of one record depends on no other record and on no flag. -/
theorem Screen.evaluated_congr (x : Screen) (b : BlockReport) (k : RecordNo) (rs : Vector AlarmRecord 58) (lost : Bool)
    (h : rs[k] = x.records[k]) :
    Screen.evaluated { x with records := rs, noticeLost := lost } b k = x.evaluated b k := by
  unfold Screen.evaluated
  dsimp only
  rw [h]
  rfl

/-- Two walks through a list agree where their functions agree on its members. -/
theorem filterMap_eq_of_mem {α β : Type} {f g : α → Option β} (l : List α) (h : ∀ a ∈ l, f a = g a) :
    l.filterMap f = l.filterMap g := by
  induction l with
  | nil => rfl
  | cons a l ih =>
    rw [List.filterMap_cons, List.filterMap_cons, h a List.mem_cons_self,
      ih fun b hb => h b (List.mem_cons_of_mem _ hb)]

/-- R134, R145: the records of a list, one after another. -/
theorem State.foldl_evaluateRecord_leaves (i : ScreenNo) (b : BlockReport) (ks : List RecordNo) (s : State)
    (h : ks.Nodup) :
    State.leaves i { s.screens[i] with records := s.screens[i].evaluatedRecords b ks }
      (ks.filterMap (s.screens[i].alarmFrame i b)) s
      (ks.foldl (fun s k => if recordInUse s.screens[i].render.latched k then s.evaluateRecord i b k else s) s) := by
  induction ks generalizing s with
  | nil =>
    refine ⟨?_, .none rfl rfl, rfl, rfl, rfl, rfl⟩
    simp only [Screen.evaluatedRecords, List.not_mem_nil, false_and, if_false, tabulate_self, List.foldl_nil]
  | cons k ks ih =>
    obtain ⟨hk, hks⟩ := List.nodup_cons.mp h
    rw [List.foldl_cons, List.filterMap_cons]
    by_cases hu : recordInUse s.screens[i].render.latched k = true
    · rw [if_pos hu]
      have h1 := State.evaluateRecord_leaves i b k s hu
      have h2 := ih (s.evaluateRecord i b k) hks
      have he : ∀ m ∈ ks, (s.evaluateRecord i b k).screens[i].evaluated b m = s.screens[i].evaluated b m := by
        intro m hm
        rw [h1.screen]
        exact Screen.evaluated_congr _ b m _ _ (adjust_other _ _ _ _ fun hc => hk (by rw [← hc]; exact hm))
      have hl : (s.evaluateRecord i b k).screens[i].render = s.screens[i].render := by rw [h1.screen]
      have hc : (s.evaluateRecord i b k).screens[i].clock = s.screens[i].clock := by rw [h1.screen]
      have hf : ks.filterMap ((s.evaluateRecord i b k).screens[i].alarmFrame i b) =
          ks.filterMap (s.screens[i].alarmFrame i b) := by
        have ha : ∀ m ∈ ks, (s.evaluateRecord i b k).screens[i].alarmFrame i b m = s.screens[i].alarmFrame i b m := by
          intro m hm
          unfold Screen.alarmFrame
          rw [he m hm, hl, hc]
        exact filterMap_eq_of_mem ks ha
      have hr : (s.evaluateRecord i b k).screens[i].evaluatedRecords b ks =
          s.screens[i].evaluatedRecords b (k :: ks) := by
        unfold Screen.evaluatedRecords
        refine Vector.ext fun m hm => ?_
        rw [tabulate_getElem, tabulate_getElem, hl]
        by_cases hmk : (⟨m, hm⟩ : RecordNo) ∈ ks
        · rw [he _ hmk]
          simp only [hmk, true_and, List.mem_cons, or_true]
          split
          · rfl
          · rw [h1.screen]
            exact adjust_other _ _ _ _ fun hc => hk (by rw [← hc]; exact hmk)
        · by_cases hme : (⟨m, hm⟩ : RecordNo) = k
          · subst hme
            rw [if_neg (fun hc => hmk hc.1), if_pos ⟨List.mem_cons_self, hu⟩]
            rw [h1.screen]
            exact adjust_same _ _ _
          · rw [if_neg (fun hc => hmk hc.1), if_neg (fun hc => by
              rcases List.mem_cons.mp hc.1 with hc | hc
              · exact hme hc
              · exact hmk hc)]
            rw [h1.screen]
            exact adjust_other _ _ _ _ hme
      have h3 := h1.trans (f := fun x => { x with records := s.screens[i].evaluatedRecords b (k :: ks) })
        (gs := ks.filterMap (s.screens[i].alarmFrame i b)) (by rw [← hf, ← hr]; exact h2) fun _ => rfl
      refine ⟨h3.1, ?_, h3.2.2⟩
      have h4 := h3.2.1
      cases ha : s.screens[i].alarmFrame i b k with
      | none => rw [ha] at h4; exact h4
      | some f => rw [ha] at h4; exact h4
    · rw [if_neg hu]
      have h2 := ih s hks
      have ha : s.screens[i].alarmFrame i b k = none := by
        unfold Screen.alarmFrame
        rw [if_neg hu]
      have hr : s.screens[i].evaluatedRecords b ks = s.screens[i].evaluatedRecords b (k :: ks) := by
        unfold Screen.evaluatedRecords
        refine Vector.ext fun m hm => ?_
        rw [tabulate_getElem, tabulate_getElem]
        by_cases hme : (⟨m, hm⟩ : RecordNo) = k
        · subst hme
          rw [if_neg (fun hc => hu hc.2), if_neg (fun hc => hu hc.2)]
        · simp only [List.mem_cons, hme, false_or]
      rw [ha, ← hr]
      exact h2

/-- R134, R145: the evaluation of a block: every record in use, and its notices in ascending order of the records. -/
theorem State.evaluateAlarms_leaves (i : ScreenNo) (b : BlockReport) (s : State) :
    State.leaves i
      { s.screens[i] with
        records := tabulate fun k =>
          if recordInUse s.screens[i].render.latched k then (s.screens[i].evaluated b k).1
          else s.screens[i].records[k] }
      ((List.finRange 58).filterMap (s.screens[i].alarmFrame i b)) s (s.evaluateAlarms i b) := by
  have h := State.foldl_evaluateRecord_leaves i b (indexes 58) s (indexes_nodup 58)
  unfold Screen.evaluatedRecords at h
  simp only [indexes_eq_finRange, List.mem_finRange, true_and] at h
  unfold State.evaluateAlarms
  rw [indexes_eq_finRange]
  exact h

/-- R114, R115: the check's stage 6: it changes the signal state and the mode, and offers CHECK_DONE or nothing. -/
theorem State.checkStage_leaves (i : ScreenNo) (handed : Vector Handed 2) (s : State) :
    ∃ done : List UpFrame, (done.length ≤ 1 ∧ ∀ f ∈ done, ∃ n, f = .notice n ∧ n.kind = .checkDone) ∧
      State.leaves i
        { s.screens[i] with
          playout := { s.screens[i].playout with mode := (s.checkStage i handed).screens[i].playout.mode }
          signal := (s.checkStage i handed).screens[i].signal } done s (s.checkStage i handed) := by
  have of_leaves : ∀ (u : State) (y : Screen) (done : List UpFrame),
      y = { s.screens[i] with playout := { s.screens[i].playout with mode := y.playout.mode }, signal := y.signal } →
      State.leaves i y done s u →
      State.leaves i
        { s.screens[i] with
          playout := { s.screens[i].playout with mode := u.screens[i].playout.mode }
          signal := u.screens[i].signal } done s u := by
    intro u y done hy h
    refine ⟨?_, h.2⟩
    rw [h.screen, hy]
  unfold State.checkStage
  dsimp only
  split
  · next n _ _ =>
    have h1 := State.modScreen_leaves i (fun x => { x with signal := x.signal.judgeCheck n handed }) s rfl
    split
    · have h2 := h1.trans (f := fun x => { x with signal := { x.signal with check := x.signal.check.idle } })
        (State.modScreen_leaves i (fun x => { x with signal := { x.signal with check := x.signal.check.idle } }) _ rfl)
        fun _ => rfl
      have h3 := h2.trans (f := fun x => x.setMode .show) (State.modScreen_leaves i (fun x => x.setMode .show) _ rfl)
        fun _ => rfl
      have h4 := fun p q => h3.trans (f := fun x => x) (State.raise_leaves i .checkDone 0 0 p q _) fun _ => rfl
      refine ⟨_, ⟨?_, ?_⟩, of_leaves _ _ _ ?_ (h4 _ _)⟩
      · simp
      · simp
      · rfl
    · exact ⟨[], by simp, of_leaves _ _ _ rfl h1⟩
  · exact ⟨[], by simp, ⟨rfl, .none rfl rfl, rfl, rfl, rfl, rfl⟩⟩

/-- R130: what stage 6 does after the alarms and before the cues: the check's judgement and the sent peaks. -/
theorem State.checkStage_shiftPeaks_leaves (i : ScreenNo) (handed : Vector Handed 2) (blocks : Vector FeedBlock 16)
    (v u : State) (hu : u = (v.checkStage i handed).modScreen i fun x => x.shiftPeaks blocks) :
    ∃ done : List UpFrame, (done.length ≤ 1 ∧ ∀ f ∈ done, ∃ n, f = .notice n ∧ n.kind = .checkDone) ∧
      State.leaves i
        { v.screens[i] with
          playout := { v.screens[i].playout with mode := u.screens[i].playout.mode }
          signal := u.screens[i].signal
          feeds := u.screens[i].feeds } done v u ∧
      ∀ k : FeedNo, u.screens[i].feeds[k] =
        { v.screens[i].feeds[k] with
          sentTwo := v.screens[i].feeds[k].sentOne, sentOne := peakOf blocks[k].out } := by
  obtain ⟨done, hk, hc⟩ := State.checkStage_leaves i handed v
  have h := hc.modScreen (fun x => x.shiftPeaks blocks) rfl fun _ => rfl
  rw [← hu] at h
  have hs := h.screen
  have hm : u.screens[i].playout.mode = (v.checkStage i handed).screens[i].playout.mode := by rw [hs]; rfl
  have hg : u.screens[i].signal = (v.checkStage i handed).screens[i].signal := by rw [hs]; rfl
  refine ⟨done, hk, ⟨?_, h.2⟩, fun k => ?_⟩
  · rw [hm, hg]
    rw [hs]
    rfl
  · rw [hs]
    exact tabulate_get _ _

/-! ## Decisions at the clock -/

/-- R64, R175: a decision that ends with a CLOCK notice. -/
theorem State.raiseClock_outcome (i : ScreenNo) (d : Int) (s v : State) (c : Clock) (hr : v.reports = s.reports)
    (hn : v.screens[i].noticeLost = s.screens[i].noticeLost) (hc : v.screens[i].clock = c) :
    State.clockOutcome i s (v.raiseClock i d) c (some d) := by
  obtain ⟨-, ⟨h1, h2⟩, -⟩ := State.raise_leaves i .clock 0 v.screens[i].clock.state.code 0 d v
  rw [hr, hn] at h2
  rw [hr] at h1
  refine ⟨by rw [State.raiseClock_clock, hc], ?_, fun h => ?_, fun h => ?_⟩
  · rw [Bool.eq_iff_iff]
    refine h2.trans ?_
    by_cases hl : 32 ≤ s.reports.length
    · have : 32 - s.reports.length = 0 := by omega
      simp [hl, this]
    · obtain ⟨k, hk⟩ : ∃ k, 32 - s.reports.length = k + 1 := ⟨31 - s.reports.length, by omega⟩
      simp [hl, hk]
  · have : 32 - s.reports.length = 0 := by omega
    rw [this] at h1
    exact h1.trans (by simp)
  · obtain ⟨k, hk⟩ : ∃ k, 32 - s.reports.length = k + 1 := ⟨31 - s.reports.length, by omega⟩
    rw [hk] at h1
    refine h1.trans ?_
    simp only [State.stNow, hc]
    simp

/-- A decision that ends without one. -/
theorem State.clockOutcome_none (i : ScreenNo) (s v : State) (c : Clock) (hr : v.reports = s.reports)
    (hn : v.screens[i].noticeLost = s.screens[i].noticeLost) (hc : v.screens[i].clock = c) :
    State.clockOutcome i s v c none := by
  refine ⟨hc, ?_, fun _ => hr, fun _ => by simp [hr]⟩
  rw [hn]; simp

end Sys2Proof.Machine
end

