-- ==== Sys2Proof/Laws/BoundaryStages.lean ====
section
/-! SUPPORT. The stages of a boundary in their order (R37): the states between them, the frames offered up to its cue
stage, and the words, peaks, lanes and noise they rest on. -/

namespace Sys2Proof.Machine

/-! ## Stages in their order -/

/-- R39: the clock of stage 2 once it has advanced, counted and taken a due resync. -/
def Screen.timed (x : Screen) : Clock :=
  (x.clock.advanced.counted x.settings.referenceTimeout).resynced x.resyncTime

/-- R61, R44, R64: the CLOCK notices of stage 2. -/
def Screen.clockFrames (i : ScreenNo) (x : Screen) : List UpFrame :=
  x.clock.advanced.timeoutFrames i x.settings.referenceTimeout ++
    (x.clock.advanced.counted x.settings.referenceTimeout).resyncFrames i x.resyncTime

/-- R39, R44, R50, R61: the time of stage 2. -/
theorem State.stageTime_leaves (i : ScreenNo) (s : State) :
    State.leaves i
      { s.screens[i] with
        clock := s.screens[i].timed
        playout := { s.screens[i].playout with
          resync := s.screens[i].playout.resync && s.screens[i].resyncTime.isNone }
        tallies := (s.stageTime i).screens[i].tallies } (s.screens[i].clockFrames i) s (s.stageTime i) ∧
    ∀ n : Fin 7, n ≠ 2 → n ≠ 3 → (s.stageTime i).screens[i].tallies[n] = s.screens[i].tallies[n] := by
  have h1 := State.advanceClock_leaves i s
  have h2 := h1.trans (f := fun x => { x with clock := x.clock.counted x.settings.referenceTimeout })
    (State.countReference_leaves i _) fun _ => rfl
  have he : ((s.advanceClock i).countReference i).screens[i].clock.elapsed = 0 := by
    rw [h2.screen]
    exact Clock.counted_elapsed _ _
  have h3 := State.resync_leaves i _ he
  rw [State.stageTime_resyncTime] at h3
  have hc : ((s.advanceClock i).countReference i).screens[i].clock =
      s.screens[i].clock.advanced.counted s.screens[i].settings.referenceTimeout := by rw [h2.screen]
  have hs : (s.advanceClock i).screens[i].settings = s.screens[i].settings := by rw [h1.screen]
  have hk : (s.advanceClock i).screens[i].clock = s.screens[i].clock.advanced := by rw [h1.screen]
  rw [hc] at h3
  have h4 := h2.trans (f := fun x => { x with
      clock := s.screens[i].timed
      playout := { x.playout with resync := x.playout.resync && s.screens[i].resyncTime.isNone }
      tallies :=
        if ((s.screens[i].clock.advanced.counted s.screens[i].settings.referenceTimeout).resyncFrames i
          s.screens[i].resyncTime).isEmpty then x.tallies else (Screen.bump .step x).tallies }) h3 fun _ => rfl
  rw [hs, hk] at h4
  constructor
  · unfold State.stageTime
    refine ⟨?_, h4.2⟩
    rw [h4.screen]
  · intro n h2n h3n
    unfold State.stageTime
    rw [h4.screen]
    have hb : ∀ (t : ScreenTally) (x : Screen), t.place ≠ n → (Screen.bump t x).tallies[n] = x.tallies[n] :=
      fun t x h => adjust_other _ _ _ _ (Ne.symm h)
    have hslip : ∀ x : Screen, (Screen.bump .slip x).tallies[n] = x.tallies[n] :=
      fun x => hb .slip x (Ne.symm h3n)
    have hstep : ∀ x : Screen, (Screen.bump .step x).tallies[n] = x.tallies[n] :=
      fun x => hb .step x (Ne.symm h2n)
    dsimp only
    split
    · split
      · rfl
      · exact hslip _
    · rw [hstep]
      dsimp only
      split
      · rfl
      · exact hslip _

/-- R37 stages 3 to 5: the screen once its feeds have been processed and sent and its holds raised. -/
def Screen.measured (x : Screen) (played : Option Block) (blocks : Vector FeedBlock 16) : Screen :=
  ((x.stageThree blocks).sendLanes (outputsOf blocks)).raiseHolds played blocks

/-- R37 stages 3 to 6 in their order: the state `v` that the check judges, with its screen and the frames offered up to
it, and the state `u` whose cue stage ends the block. -/
theorem State.computeBlock_leaves (i : ScreenNo) (l : Latched) (p : Selected) (s : State) (m x : Screen)
    (blocks : Vector FeedBlock 16) (b : BlockReport) (hb : blocks = s.screens[i].processFeeds l s.tone p.played)
    (hm : m = s.screens[i].measured p.played blocks) (hx : x = m.metered (decide (s.reports.length < 32)))
    (hr : b = blockReport l p.decision p.hadActive p.played blocks x.handedLanes) :
    ∃ v u : State,
      s.computeBlock i l p = u.cueStage i u.screens[i].clock.base l.held ∧
      u = (v.checkStage i b.handed).modScreen i (fun y => y.shiftPeaks blocks) ∧
      State.leaves i
        { x.handLanes with
          records := tabulate fun k =>
            if recordInUse x.render.latched k then (x.handLanes.evaluated b k).1 else x.records[k] }
        ((if m.meterFalls then
            [.meter { screen := i, st := m.clock.now, clock := m.clock.state, feeds := m.feedHolds,
                      channels := m.channelHolds }] else []) ++
          (List.finRange 58).filterMap (x.handLanes.alarmFrame i b)) s v := by
  have h1 := State.modScreen_leaves i (fun x => (x.stageThree blocks).sendLanes (outputsOf blocks)) s rfl
  have h2 := h1.modScreen (fun x => x.raiseHolds p.played blocks) rfl fun _ => rfl
  generalize hq : ((s.modScreen i fun x => (x.stageThree blocks).sendLanes (outputsOf blocks)).modScreen i fun x =>
      x.raiseHolds p.played blocks) = q at h2
  change State.leaves i (s.screens[i].measured p.played blocks) [] s q at h2
  rw [← hm] at h2
  have hlen : q.reports.length = s.reports.length := by
    rw [h2.2.1.1]; simp
  have hfall : q.screens[i].meterFalls = m.meterFalls := by rw [h2.screen]; rfl
  have hframe : q.meterFrame i =
      { screen := i, st := m.clock.now, clock := m.clock.state, feeds := m.feedHolds
        channels := m.channelHolds } := by
    unfold State.meterFrame
    rw [h2.screen]
    rfl
  have h3 := State.meterStage_leaves i q
  rw [hfall, hframe, hlen] at h3
  have hmet : ∀ lost : Bool,
      ({ Screen.metered { m with noticeLost := lost } (decide (s.reports.length < 32)) with
        noticeLost := (m.metered (decide (s.reports.length < 32))).noticeLost } : Screen) =
      m.metered (decide (s.reports.length < 32)) := by
    intro lost
    unfold Screen.metered
    rw [show ({ m with noticeLost := lost } : Screen).meterFalls = m.meterFalls from rfl]
    split
    · split <;> rfl
    · rfl
  have h4 := h2.trans (f := fun y => y.metered (decide (s.reports.length < 32))) h3 hmet
  rw [← hx, List.nil_append] at h4
  have hhand : (q.meterStage i).screens[i].handedLanes = x.handedLanes := by rw [h4.screen]; rfl
  have h5 := h4.modScreen Screen.handLanes rfl fun _ => rfl
  have h6 := State.evaluateAlarms_leaves i b ((q.meterStage i).modScreen i Screen.handLanes)
  refine ⟨((q.meterStage i).modScreen i Screen.handLanes).evaluateAlarms i b, _, ?_, rfl, ?_⟩
  · unfold State.computeBlock
    dsimp only
    rw [← hb, hq, hhand, ← hr]
    simp only [State.stageSix]
  · have hev : ∀ k, ((q.meterStage i).modScreen i Screen.handLanes).screens[i].evaluated b k =
        x.handLanes.evaluated b k := fun k => by
      rw [h5.screen]; exact Screen.evaluated_congr _ b k _ _ rfl
    have hal : ((q.meterStage i).modScreen i Screen.handLanes).screens[i].alarmFrame i b =
        x.handLanes.alarmFrame i b := by
      funext k
      unfold Screen.alarmFrame
      rw [hev k, h5.screen]
    have hre : ((q.meterStage i).modScreen i Screen.handLanes).screens[i].render.latched =
        x.render.latched := by rw [h5.screen]; rfl
    have hrc : ((q.meterStage i).modScreen i Screen.handLanes).screens[i].records = x.records := by rw [h5.screen]; rfl
    simp only [hev, hal, hre, hrc] at h6
    exact h5.trans (f := fun y =>
      { y with
        records := tabulate fun k =>
          if recordInUse x.render.latched k then (x.handLanes.evaluated b k).1 else x.records[k] }) h6 fun _ => rfl

/-! ## The whole boundary -/

/-- R72: what `State.latchedScreen` takes is what stage 1 latches. -/
theorem State.stageOne_eq (i : ScreenNo) (s : State) :
    (s.screens[i].scheduleNext s.wordClock).stageOne (s.toLatch i) =
      { s.latchedScreen i with playout := (s.screens[i].scheduleNext s.wordClock).playout } := by
  have h : s.toLatch i =
      s.screens[i].render.selection.map fun p => { index := p, preset := s.presets[p] : LatchedPreset } := by
    unfold State.toLatch
    cases s.screens[i].render.selection <;> rfl
  rw [h]
  unfold State.latchedScreen Screen.stageOne Screen.latch
  rfl

/-- R21: the ACTIVE entry is read from the entries alone. -/
theorem State.activeEntry_congr (i : ScreenNo) {s t : State} (h : t.entries = s.entries) :
    t.activeEntry i = s.activeEntry i := by
  unfold State.activeEntry
  rw [h]

/-- R84: the feeds of a boundary of screen i that plays `played`, from what stage 1 latched. -/
def State.feedBlocks (i : ScreenNo) (played : Option Block) (s : State) : Vector FeedBlock 16 :=
  let x := s.screens[i]
  let y := s.latchedScreen i
  tabulate fun k =>
    x.feeds[k].process x.level.requested (y.latchGain k)
      (inputWords y.latchSettings x.signal.check.spec (noiseRun Config.blockLength x.signal.noise).1
        (toneSamples s.tone x.signal.tonePhase)
        (renderWords y.render.latched (tabulate y.filled) (blockInputs played)) k)

/-- R113: the count of a check leaves its parameters and the generators. -/
theorem Signal.countCheck_keeps (g : Signal) :
    g.countCheck.check.spec = g.check.spec ∧ g.countCheck.noise = g.noise ∧ g.countCheck.tonePhase = g.tonePhase := by
  unfold Signal.countCheck
  split
  · dsimp only
    split
    · split <;> exact ⟨rfl, rfl, rfl⟩
    · exact ⟨rfl, rfl, rfl⟩
    · exact ⟨rfl, rfl, rfl⟩
  · exact ⟨rfl, rfl, rfl⟩

/-- R97, R98: the advance of a fade leaves the requested bank and the mute. -/
theorem Level.advanceFade_keeps (l : Level) :
    l.advanceFade.requested = l.requested ∧ l.advanceFade.muted = l.muted := by
  unfold Level.advanceFade
  split
  · exact ⟨rfl, rfl⟩
  · split <;> exact ⟨rfl, rfl⟩

/-- R84: stage 3 processes the feeds of `State.feedBlocks`. -/
theorem State.feedBlocks_eq (i : ScreenNo) (played : Option Block) (s : State) (y : Screen) (hy : y = s.latchedScreen i)
    (po : Playout) (ta : Vector Nat 7) (c : Clock) (lost : Bool) :
    s.feedBlocks i played =
      Screen.processFeeds { y with playout := po, tallies := ta, clock := c, noticeLost := lost } y.latchSettings s.tone
        played := by
  have hf : y.feeds = s.screens[i].feeds := by rw [hy]; rfl
  have hlv : y.level = s.screens[i].level.advanceFade := by rw [hy]; rfl
  have hsg : y.signal = s.screens[i].signal.countCheck := by rw [hy]; rfl
  have hfl : y.latchSettings.filled = tabulate y.filled := rfl
  unfold State.feedBlocks Screen.processFeeds
  refine Vector.ext fun n hn => ?_
  have hg : y.latchSettings.gains[(⟨n, hn⟩ : FeedNo)] = y.latchGain ⟨n, hn⟩ := tabulate_get _ _
  rw [tabulate_getElem, tabulate_getElem]
  simp only [hg, hf, hlv, hsg, hfl, (Level.advanceFade_keeps _).1, (Signal.countCheck_keeps _).1,
    (Signal.countCheck_keeps _).2.1, (Signal.countCheck_keeps _).2.2]
  rw [← hy]

/-- R80: the records a boundary retires with a notice. -/
def State.retiredAt (i : ScreenNo) (s : State) : List RecordNo := s.screens[i].retiredRaised (s.toLatch i)

/-- R37: the frames of a boundary before its meter: the CLOCK notices, then the RETIRED ones. -/
def State.earlyFrames (i : ScreenNo) (s : State) : List UpFrame :=
  s.screens[i].clockFrames i ++ (s.retiredAt i).map (retiredFrame i s.screens[i].timed.base)

/-- R39: stage 2 in its order, from a state whose screen has latched. -/
theorem State.stageTwo_eq (i : ScreenNo) (s : State) : s.stageTwo i =
    { state := ((s.stageTime i).applySelection i ((s.stageTime i).activeEntry i)
        ((s.stageTime i).selection i)).pruneStandby i
      hadActive := ((s.stageTime i).activeEntry i).isSome
      decision := ((s.stageTime i).selection i).decision
      played := ((s.stageTime i).selection i).played } := rfl

/-- R37: the stages of a boundary in their order: `a` is the state the selection is applied to, `p` the one it and the
pruning leave, `v` the one the check judges, and `u` the one whose cue stage ends the block; `m` is the screen once its
holds are raised, and `z` once its meter has been judged. -/
theorem State.boundary_stages (i : ScreenNo) (s : State) (x y : Screen) (r : Selection) (blocks : Vector FeedBlock 16)
    (hx : x = s.screens[i]) (hy : y = s.latchedScreen i) (hr : r = s.selectionAt i x.timed.base)
    (hb : blocks = s.feedBlocks i r.played) :
    ∃ (a p v u : State) (m z : Screen) (b : BlockReport),
      s.boundary i = u.cueStage i u.screens[i].clock.base y.cuesHeld ∧
      a.screens[i] =
        { y with
          clock := x.timed
          playout := { (x.scheduleNext s.wordClock).playout with resync := x.playout.resync && x.resyncTime.isNone }
          tallies := a.screens[i].tallies
          noticeLost := a.screens[i].noticeLost } ∧
      (∀ n : Fin 7, n ≠ 2 → n ≠ 3 → a.screens[i].tallies[n] = x.tallies[n]) ∧
      a.entries = s.entries ∧ a.freeSlots = s.freeSlots ∧
      p = (a.applySelection i (s.activeEntry i) r).pruneStandby i ∧ State.keepsAllButPool i a p ∧
      (∃ lost : Bool, m = Screen.measured { p.screens[i] with noticeLost := lost } r.played blocks) ∧
      z = m.metered (decide (s.reports.length + (s.earlyFrames i).length < 32)) ∧
      b = blockReport y.latchSettings r.decision (s.activeEntry i).isSome r.played blocks z.handedLanes ∧
      v.entries = p.entries ∧ v.freeSlots = p.freeSlots ∧
      v.screens[i] =
        { z.handLanes with
          records := tabulate fun k =>
            if recordInUse z.render.latched k then (z.handLanes.evaluated b k).1 else z.records[k]
          noticeLost := v.screens[i].noticeLost } ∧
      State.offers i
        (s.earlyFrames i ++
          ((if m.meterFalls then
            [.meter { screen := i, st := m.clock.now, clock := m.clock.state, feeds := m.feedHolds,
                      channels := m.channelHolds }] else []) ++
            (List.finRange 58).filterMap (z.handLanes.alarmFrame i b))) s v ∧
      u = (v.checkStage i b.handed).modScreen i (fun x => x.shiftPeaks blocks) := by
  have h1 := State.modScreen_leaves i (fun x => (x.scheduleNext s.wordClock).stageOne (s.toLatch i)) s rfl
  generalize hs1 : (s.modScreen i fun x => (x.scheduleNext s.wordClock).stageOne (s.toLatch i)) = s1 at h1
  rw [State.stageOne_eq, ← hy, ← hx] at h1
  obtain ⟨h2, h2t⟩ := State.stageTime_leaves i s1
  generalize ha : s1.stageTime i = a at h2 h2t
  have htimed : s1.screens[i].timed = x.timed := by rw [h1.screen, hy, hx]; rfl
  have hrt : s1.screens[i].resyncTime = x.resyncTime := by rw [h1.screen, hy, hx]; rfl
  have hcf : s1.screens[i].clockFrames i = x.clockFrames i := by rw [h1.screen, hy, hx]; rfl
  rw [htimed, hrt, hcf] at h2
  have hl : s1.screens[i].latchSettings = y.latchSettings := by
    rw [h1.screen, hy, hx]
    rfl
  have hac : a.activeEntry i = s.activeEntry i :=
    (State.activeEntry_congr i h2.2.2.1).trans (State.activeEntry_congr i h1.2.2.1)
  have hsel : a.selection i = r := by
    rw [hr]
    unfold State.selection State.selectionAt State.modeOf
    rw [hac, h2.2.2.1, h1.2.2.1, h2.screen, h1.screen, hy, ← hx]
    unfold State.latchedScreen Screen.scheduleNext
    rw [← hx]
  have has : a.screens[i] =
      { y with
        clock := x.timed
        playout := { (x.scheduleNext s.wordClock).playout with resync := x.playout.resync && x.resyncTime.isNone }
        tallies := a.screens[i].tallies
        noticeLost := a.screens[i].noticeLost } := by
    have h := h2.screen
    rw [h1.screen] at h
    exact h
  have hat : ∀ n : Fin 7, n ≠ 2 → n ≠ 3 → a.screens[i].tallies[n] = x.tallies[n] := by
    intro n hn2 hn3
    rw [h2t n hn2 hn3, h1.screen, hy, hx]
    rfl
  have hae : a.entries = s.entries := h2.2.2.1.trans h1.2.2.1
  have haf : a.freeSlots = s.freeSlots := h2.2.2.2.1.trans h1.2.2.2.1
  obtain ⟨p, hp⟩ : ∃ p, p = (a.applySelection i (s.activeEntry i) r).pruneStandby i := ⟨_, rfl⟩
  have hkp : State.keepsAllButPool i a p := by
    rw [hp]
    exact (State.applySelection_keepsAllButPool _ _ _ _).trans (State.pruneStandby_keepsAllButPool _ _)
  have hpo : State.offers i (x.clockFrames i) s p := by
    have := (h1.2.1.trans h2.2.1).trans (State.offers.none (t := p) hkp.2.1 (by rw [hkp.1]))
    simpa using this
  have hpc : p.screens[i].clock = x.timed := by rw [hkp.1, h2.screen]
  have h3 := State.raiseRetired_leaves i (s.retiredAt i) p
  have hst : p.stNow i = x.timed.base := by
    unfold State.stNow Clock.now
    rw [hpc]
    have : x.timed.elapsed = 0 := Clock.counted_elapsed _ _
    rw [this]
    simp
  rw [hst] at h3
  generalize hq : p.raiseRetired i (s.retiredAt i) = q at h3
  have hqo : State.offers i (s.earlyFrames i) s q := by
    unfold State.earlyFrames
    rw [← hx]
    exact hpo.trans h3.2.1
  have hroom : decide (q.reports.length < 32) = decide (s.reports.length + (s.earlyFrames i).length < 32) := by
    rw [hqo.1, List.length_append, List.length_take]
    congr 1
    exact propext ⟨fun h => by omega, fun h => by omega⟩
  obtain ⟨po, ta, lo, hqs⟩ : ∃ po ta lo, q.screens[i] =
      { y with playout := po, tallies := ta, clock := x.timed, noticeLost := lo } :=
    ⟨_, _, _, by rw [h3.screen, hkp.1, h2.screen, h1.screen]⟩
  have hblocks : blocks = q.screens[i].processFeeds y.latchSettings q.tone r.played := by
    have htone : q.tone = s.tone :=
      ((h3.2.2.2.2.2.trans hkp.2.2.2).trans h2.2.2.2.2.2).trans h1.2.2.2.2.2
    rw [hb, htone, hqs]
    exact State.feedBlocks_eq i r.played s y hy _ _ _ _
  obtain ⟨m, hm⟩ : ∃ m, m = q.screens[i].measured r.played blocks := ⟨_, rfl⟩
  obtain ⟨z, hz⟩ : ∃ z, z = m.metered (decide (q.reports.length < 32)) := ⟨_, rfl⟩
  obtain ⟨b, hbr⟩ : ∃ b, b = blockReport y.latchSettings r.decision (s.activeEntry i).isSome r.played blocks
    z.handedLanes := ⟨_, rfl⟩
  obtain ⟨v, u, hu, huv, hv⟩ := State.computeBlock_leaves i y.latchSettings
    { state := p, hadActive := (s.activeEntry i).isSome, decision := r.decision, played := r.played } q m z blocks b
    hblocks hm hz hbr
  refine ⟨a, p, v, u, m, z, b, ?_, has, hat, hae, haf, hp, hkp, ?_, by rw [hz, hroom], ?_, ?_, ?_, ?_, ?_, huv⟩
  · unfold State.boundary
    dsimp only
    rw [hs1, State.stageTwo_eq, ha, hac, hsel, ← hp, hl]
    show (p.raiseRetired i (s.retiredAt i)).computeBlock i _ _ = _
    rw [hq, hu]
    rfl
  · exact ⟨_, by rw [hm, h3.screen]⟩
  · exact hbr
  · rw [hv.2.2.1, h3.2.2.1]
  · rw [hv.2.2.2.1, h3.2.2.2.1]
  · rw [hv.screen]
  · exact hqo.trans hv.2.1

/-- R39, R50, R61: the clock a boundary ends with. -/
theorem State.boundary_clock (i : ScreenNo) (s : State) : (s.boundary i).screens[i].clock = s.screens[i].timed := by
  obtain ⟨a, p, v, u, m, z, b, hbd, has, -, -, -, -, hkp, ⟨lost, hm⟩, hz, -, -, -, hvs, -, hu⟩ :=
    State.boundary_stages i s _ _ _ _ rfl rfl rfl rfl
  obtain ⟨done, -, hck, -⟩ := State.checkStage_shiftPeaks_leaves i b.handed _ v u hu
  have h := State.cueStage_keepsFromCues (j := i) i u.screens[i].clock.base (s.latchedScreen i).cuesHeld u
  have h1 : (s.boundary i).screens[i].clock = u.screens[i].clock := by rw [hbd, h]
  have h2 : u.screens[i].clock = v.screens[i].clock := by rw [hck.screen]
  have h3 : v.screens[i].clock = z.clock := by rw [hvs]; rfl
  have h4 : z.clock = m.clock := by rw [hz, Screen.metered_eq]
  have h5 : m.clock = p.screens[i].clock := by rw [hm]; rfl
  have h6 : p.screens[i].clock = a.screens[i].clock := by rw [hkp.1]
  rw [h1, h2, h3, h4, h5, h6, has]

/-! ## The words, the peaks and the lanes of a boundary -/

/-- R84, R104: the words of feed k before the clamp. -/
theorem State.feedBlocks_pre (i : ScreenNo) (played : Option Block) (s : State) (k : FeedNo) :
    (s.feedBlocks i played)[k].pre = s.gainedWords i k played := by
  unfold State.feedBlocks
  dsimp only
  rw [tabulate_get]
  rfl

/-- R104: the samples of feed k, after the clamp. -/
theorem State.feedBlocks_out (i : ScreenNo) (played : Option Block) (s : State) (k : FeedNo) :
    (s.feedBlocks i played)[k].out = (s.gainedWords i k played).map satSample := by
  rw [← State.feedBlocks_pre]
  unfold State.feedBlocks
  dsimp only
  rw [tabulate_get]
  rfl

/-- R87, R91: a bank's run changes the banks, the active one and EQ_SAT alone. -/
theorem Feed.equalise_keeps (f : Feed) (requested : Bank) (words : List Int) :
    (f.equalise requested words).1 =
      { f with
        bankA := (f.equalise requested words).1.bankA
        bankB := (f.equalise requested words).1.bankB
        active := (f.equalise requested words).1.active
        eqSat := (f.equalise requested words).1.eqSat } := by
  obtain ⟨bankA, bankB, active, trim, eqSat, hold, sentOne, sentTwo⟩ := f
  cases active <;> cases requested <;> rfl

/-- R84: what a feed's processing keeps of it: its hold and its sent peaks. -/
theorem State.feedBlocks_feed (i : ScreenNo) (played : Option Block) (s : State) (k : FeedNo) :
    (s.feedBlocks i played)[k].feed.hold = s.screens[i].feeds[k].hold ∧
      (s.feedBlocks i played)[k].feed.sentOne = s.screens[i].feeds[k].sentOne ∧
      (s.feedBlocks i played)[k].feed.sentTwo = s.screens[i].feeds[k].sentTwo := by
  unfold State.feedBlocks
  dsimp only
  rw [tabulate_get]
  unfold Feed.process
  dsimp only
  rw [Feed.equalise_keeps]
  exact ⟨rfl, rfl, rfl⟩

/-- R121, R123: what a lane in step hands over once a block has been sent is the outcome of the block two before it. -/
theorem Lane.send_handed (l : Lane) (h : l.sound) (samples : Vector (List Int) 8) :
    (l.send samples).handed (l.send samples).dueCount = l.twoBack := by
  obtain ⟨hlen, hcount, -⟩ := h
  have hd : (l.send samples).dueCount = l.nextCount - 2 := by
    unfold Lane.dueCount Lane.send
    dsimp only
    bv_omega
  rw [hd]
  unfold Lane.send Lane.handed Lane.twoBack
  dsimp only
  rcases hl : l.awaiting with _ | ⟨a, _ | ⟨b, _ | ⟨c, rest⟩⟩⟩
  · simp only [List.nil_append]
    rw [if_neg (by bv_omega)]
  · rw [hl] at hcount
    simp only [List.map_cons, List.map_nil, List.length_cons, List.length_nil] at hcount
    have ha : a.count = l.nextCount - 1 := by simpa using hcount
    simp only [List.cons_append, List.nil_append]
    rw [if_neg (by rw [ha]; bv_omega)]
  · rw [hl] at hcount
    have ha : a.count = l.nextCount - 2 := by
      have := congrArg List.head? hcount
      simpa [List.range_succ] using this
    simp only [List.cons_append, List.nil_append]
    rw [if_pos ha]
    cases a.slot <;> rfl
  · rw [hl] at hlen
    simp at hlen

/-- R121, R123: what a screen hands over at stage 6 is what its lanes held for the block two before. -/
theorem Screen.metered_handed (x z : Screen) (played : Option Block) (blocks : Vector FeedBlock 16) (room : Bool)
    (hz : z = (x.measured played blocks).metered room) (l : Fin 2) (h : x.lanes[l].sound) :
    z.handedLanes[l] = x.lanes[l].twoBack := by
  have hl : z.lanes = (x.sendLanes (outputsOf blocks)).lanes := by
    rw [hz, Screen.metered_eq]
    rfl
  unfold Screen.handedLanes
  rw [tabulate_get, hl]
  unfold Screen.sendLanes
  dsimp only
  rw [tabulate_get, Lane.send_handed _ h]

/-- R132: the three ends of a meter stage: a frame placed, a frame dropped, no frame due. -/
theorem Screen.metered_cases (x : Screen) (room : Bool) :
    (x.meterFalls = true ∧ room = true ∧ x.metered room = { x.clearHolds with meterCount := 0 }) ∨
      (x.meterFalls = true ∧ room = false ∧ x.metered room = { x with meterCount := 0 }) ∨
      (x.meterFalls = false ∧ x.metered room =
        { x with meterCount := if x.settings.meterInterval = 0 then 0 else x.meterCount + 1 }) := by
  unfold Screen.metered
  cases x.meterFalls <;> cases room <;> simp

/-- R132: when the meter falls due. -/
theorem Screen.meterFalls_iff (x : Screen) :
    x.meterFalls = true ↔
      0 < x.settings.meterInterval ∧ 100 * x.settings.meterInterval ≤ x.meterCount + 1 := by
  simp [Screen.meterFalls]

/-- R44: when a resync is due. -/
theorem Screen.resyncTime_isSome (x : Screen) :
    x.resyncTime.isSome ↔
      x.settings.clockMode = .selfTimed ∧ x.playout.resync = true ∧ x.playout.program ≠ [] := by
  unfold Screen.resyncTime Screen.untied
  cases hp : x.playout.program <;> simp

/-! ## Feeds and cues at the cue stage -/

/-- R132: the meter stage changes the hold of a feed alone. -/
theorem Screen.metered_feed (x : Screen) (room : Bool) (k : FeedNo) :
    (x.metered room).feeds[k] = { x.feeds[k] with hold := (x.metered room).feeds[k].hold } := by
  have h : x.clearHolds.feeds[k] = { x.feeds[k] with hold := x.clearHolds.feeds[k].hold } := by
    unfold Screen.clearHolds
    dsimp only
    rw [tabulate_get]
  unfold Screen.metered
  split
  · split
    · exact h
    · rfl
  · rfl

/-- R84, R131: stages 3 to 5 leave a feed as its processing does, its hold raised. -/
theorem Screen.measured_feed (x : Screen) (played : Option Block) (blocks : Vector FeedBlock 16) (k : FeedNo) :
    (x.measured played blocks).feeds[k] =
      { blocks[k].feed with hold := max blocks[k].feed.hold (peakOf blocks[k].out) } := by
  have h : ((x.stageThree blocks).sendLanes (outputsOf blocks)).feeds[k] = blocks[k].feed := tabulate_get _ _
  unfold Screen.measured Screen.raiseHolds
  dsimp only
  rw [tabulate_get, h]

/-- R37, R84, R98: what the stages before the cue stage leave of the level and of a feed. -/
theorem State.boundary_feed (i : ScreenNo) (s : State) (k : FeedNo) (f : FeedBlock)
    (hf : f = (s.feedBlocks i (s.selectionAt i s.screens[i].timed.base).played)[k]) :
    ∃ (u : State) (held : Bool), s.boundary i = u.cueStage i u.screens[i].clock.base held ∧
      u.screens[i].level = s.screens[i].level.advanceFade ∧
      u.screens[i].feeds[k] =
        { f.feed with
          hold := u.screens[i].feeds[k].hold
          sentOne := u.screens[i].feeds[k].sentOne
          sentTwo := f.feed.sentOne } := by
  obtain ⟨a, p, v, u, m, z, b, hbd, has, -, -, -, -, hkp, ⟨lost, hm⟩, hz, -, -, -, hvs, -, hu⟩ :=
    State.boundary_stages i s _ _ _ _ rfl rfl rfl rfl
  obtain ⟨done, -, hck, hsent⟩ := State.checkStage_shiftPeaks_leaves i b.handed _ v u hu
  refine ⟨u, _, hbd, ?_, ?_⟩
  · have h2 : u.screens[i].level = v.screens[i].level := by rw [hck.screen]
    have h3 : v.screens[i].level = z.level := by rw [hvs]; rfl
    have h4 : z.level = m.level := by rw [hz, Screen.metered_eq]
    have h5 : m.level = p.screens[i].level := by rw [hm]; rfl
    have h6 : p.screens[i].level = a.screens[i].level := by rw [hkp.1]
    rw [h2, h3, h4, h5, h6, has]
    rfl
  · have h3 : v.screens[i].feeds = z.feeds := by rw [hvs]; rfl
    have h4 := Screen.metered_feed m (decide (s.reports.length + (s.earlyFrames i).length < 32)) k
    rw [← hz] at h4
    have h5 : m.feeds[k] = { f.feed with hold := m.feeds[k].hold } := by
      rw [hm, Screen.measured_feed, ← hf]
    rw [hsent k, h3, h4, h5]

/-- R37, R161: the cue stage meets the cues that the time of stage 2 left. -/
theorem State.boundary_cues (i : ScreenNo) (s : State) : ∃ (u : State) (held : Bool),
    s.boundary i = u.cueStage i u.screens[i].clock.base held ∧
    u.cues = ((s.modScreen i fun x => (x.scheduleNext s.wordClock).stageOne (s.toLatch i)).stageTime i).cues := by
  obtain ⟨s1, hs1⟩ : ∃ s1, s1 = s.modScreen i fun x => (x.scheduleNext s.wordClock).stageOne (s.toLatch i) := ⟨_, rfl⟩
  rw [← hs1]
  obtain ⟨r, hr⟩ : ∃ r, r = (s1.stageTwo i).state.raiseRetired i (s.screens[i].retiredRaised (s.toLatch i)) := ⟨_, rfl⟩
  obtain ⟨u, h1, h2⟩ := State.computeBlock_cueStage (q := True) (i := i) s1.screens[i].latchSettings (s1.stageTwo i) r
  refine ⟨u, s1.screens[i].latchSettings.held, ?_, ?_⟩
  · unfold State.boundary
    dsimp only
    rw [← hs1, ← hr]
    exact h1
  · have e1 : r.cues = (s1.stageTwo i).state.cues := by
      rw [hr]; exact (State.raiseRetired_keepsForCues (q := True) (i := i) _ _).2.2 trivial
    have e2 : (s1.stageTwo i).state.cues = (s1.stageTime i).cues := by
      rw [State.stageTwo_eq]
      generalize s1.stageTime i = a
      have h1 := (State.applySelection_keepsForCues (q := True) (i := i) (a.activeEntry i) (a.selection i) a).2.2 trivial
      have h2 := (State.pruneStandby_keepsForCues (q := True) (i := i)
        (a.applySelection i (a.activeEntry i) (a.selection i))).2.2 trivial
      exact h2.trans h1
    exact (h2.2.2 trivial).trans (e1.trans e2)

/-! ## Noise -/

/-- R106: one step more, from its end. -/
theorem noiseFold_succ (n : Nat) (r : BitVec 23) :
    (List.range (n + 1)).foldl (fun q _ => noiseStep q) r =
      (List.range n).foldl (fun q _ => noiseStep q) (noiseStep r) := by
  induction n with
  | zero => rfl
  | succ n ih => rw [List.range_succ, List.foldl_append, ih]; simp [List.range_succ]

/-- R106: the register a run leaves. -/
theorem noiseRun_end (n : Nat) (r : BitVec 23) :
    (noiseRun n r).2 = (List.range n).foldl (fun q _ => noiseStep q) r := by
  induction n generalizing r with
  | zero => rfl
  | succ n ih => rw [noiseFold_succ, ← ih]; rfl

/-- R106: a run gives one raw sample a step. -/
theorem noiseRun_length (n : Nat) (r : BitVec 23) : (noiseRun n r).1.length = n := by
  induction n generalizing r with
  | zero => rfl
  | succ n ih => simp [noiseRun, ih]

/-- R106: raw sample n of a run is that of the register after n + 1 steps. -/
theorem noiseRun_getD (m n : Nat) (r : BitVec 23) (h : n < m) :
    (noiseRun m r).1.getD n 0 = noiseSample ((List.range (n + 1)).foldl (fun q _ => noiseStep q) r) := by
  induction m generalizing n r with
  | zero => omega
  | succ m ih =>
    cases n with
    | zero => rfl
    | succ n => rw [noiseFold_succ]; exact ih n (noiseStep r) (by omega)

end Sys2Proof.Machine
end

