-- ==== Sys2Proof/Laws/Bytes.lean ====
section
/-! SUPPORT. Fields as bytes and back (R4). -/

namespace Sys2Proof.Machine

theorem beNat_one (n : Nat) : beNat 1 n = [BitVec.ofNat 8 n] := by
  simp [beNat, beBytes]

theorem beBytes_length (k : Nat) (v : Int) : (beBytes k v).length = k := by
  induction k with
  | zero => rfl
  | succ k ih => simp [beBytes, ih]

theorem beNat_length (k n : Nat) : (beNat k n).length = k := beBytes_length k n

/-- The unsigned value of bytes, one byte in front. -/
theorem numberOf_foldl (acc : Nat) (bytes : List Byte) :
    bytes.foldl (fun n b => n * 256 + b.toNat) acc = acc * 256 ^ bytes.length + numberOf bytes := by
  induction bytes generalizing acc with
  | nil => simp [numberOf]
  | cons b rest ih =>
      simp only [List.foldl_cons, numberOf, List.length_cons]
      rw [ih, ih (0 * 256 + b.toNat)]
      rw [Nat.pow_succ, Nat.add_mul, Nat.zero_mul, Nat.zero_add, Nat.mul_assoc, Nat.mul_comm 256, Nat.add_assoc]

theorem numberOf_cons (b : Byte) (rest : List Byte) : numberOf (b :: rest) = b.toNat * 256 ^ rest.length + numberOf rest := by
  simp only [numberOf, List.foldl_cons]
  rw [numberOf_foldl]
  simp [numberOf]

theorem numberOf_lt (bytes : List Byte) : numberOf bytes < 256 ^ bytes.length := by
  induction bytes with
  | nil => simp [numberOf]
  | cons b rest ih =>
      have hb : b.toNat ≤ 255 := by have := b.isLt; omega
      have := Nat.mul_le_mul_right (256 ^ rest.length) hb
      rw [numberOf_cons, List.length_cons, Nat.pow_succ]
      omega

/-- The remainder by p * 256 in its two parts. -/
theorem emod_mul_byte (v p : Int) (hp : 0 < p) : v % (p * 256) = v / p % 256 * p + v % p := by
  have h1 := Int.emod_add_mul_ediv v p
  have h2 := Int.emod_add_mul_ediv (v / p) 256
  have b1 := Int.emod_nonneg v (Int.ne_of_gt hp)
  have b2 := Int.emod_lt_of_pos v hp
  have b3 := Int.emod_nonneg (v / p) (by decide : (256 : Int) ≠ 0)
  have b4 := Int.emod_lt_of_pos (v / p) (by decide : (0 : Int) < 256)
  have hlow : v / p % 256 * p ≤ 255 * p := Int.mul_le_mul_of_nonneg_right (by omega) (Int.le_of_lt hp)
  have hpos : 0 ≤ v / p % 256 * p := Int.mul_nonneg b3 (Int.le_of_lt hp)
  have hv : v = (v / p % 256 * p + v % p) + p * 256 * (v / p / 256) := by
    have : p * (v / p) = v / p % 256 * p + p * 256 * (v / p / 256) := by
      rw [Int.mul_comm (v / p % 256), Int.mul_assoc, ← Int.mul_add, h2]
    omega
  have he : v % (p * 256) = (v / p % 256 * p + v % p) % (p * 256) := by
    have h := congrArg (· % (p * 256)) hv
    simp only [Int.add_mul_emod_self_left] at h
    exact h
  rw [he]
  exact Int.emod_eq_of_lt (by omega) (by omega)

theorem natCast_byte_pow (k : Nat) : ((256 ^ k : Nat) : Int) = (256 : Int) ^ k := Int.natCast_pow 256 k

/-- R4: a field of k bytes carries a value modulo 256^k. -/
theorem numberOf_beBytes (k : Nat) (v : Int) : (numberOf (beBytes k v) : Int) = v % 256 ^ k := by
  induction k with
  | zero => simp [beBytes, numberOf, Int.emod_one]
  | succ k ih =>
      rw [beBytes, numberOf_cons, beBytes_length]
      have hb : ((BitVec.ofInt 8 (v / 256 ^ k)).toNat : Int) = v / 256 ^ k % 256 := by
        rw [BitVec.toNat_ofInt]
        have : (0 : Int) ≤ v / 256 ^ k % 256 := Int.emod_nonneg _ (by decide)
        simp only [Nat.reducePow]
        omega
      have hp : (0 : Int) < 256 ^ k := Int.pow_pos (by decide)
      rw [Int.pow_succ, emod_mul_byte v (256 ^ k) hp]
      rw [Int.natCast_add, Int.natCast_mul, ih, hb, natCast_byte_pow]

/-- R4: a count that fits k bytes is read back from them. -/
theorem numberOf_beNat (k n : Nat) (h : n < 256 ^ k) : numberOf (beNat k n) = n := by
  have := numberOf_beBytes k n
  have hc := natCast_byte_pow k
  rw [← hc, Int.emod_eq_of_lt (by omega) (by omega)] at this
  rw [beNat]
  omega

/-- R4: a two's-complement value that fits k bytes, k at least 1, is read back from them. -/
theorem signedOf_beBytes (k : Nat) (v : Int) (h1 : -(256 ^ k : Int) ≤ 2 * v) (h2 : 2 * v < 256 ^ k) :
    signedOf k (numberOf (beBytes k v)) = v := by
  have hn := numberOf_beBytes k v
  have hc := natCast_byte_pow k
  have hp : (0 : Int) < 256 ^ k := Int.pow_pos (by decide)
  simp only [signedOf]
  by_cases hv : 0 ≤ v
  · rw [Int.emod_eq_of_lt hv (by omega)] at hn
    rw [if_pos (by omega), hn]
  · have : v % 256 ^ k = v + 256 ^ k := by
      rw [← Int.add_emod_right]
      exact Int.emod_eq_of_lt (by omega) (by omega)
    rw [this] at hn
    rw [if_neg (by omega), hn]
    omega

end Sys2Proof.Machine
end

