-- ==== Sys2Proof/Laws/Firing.lean ====
section
/-! SUPPORT. What the judgement of a cue, the faults of its action, its firing and the arming of its children can do
(R154, R155, R157 to R159, R163). -/

namespace Sys2Proof.Machine

/-! ## The judgement of one cue -/

/-- R154: an ARMED cue's countdown reaches 0. -/
theorem Cue.countdownEnds_iff (c : Cue) :
    c.countdownEnds = true ↔ c.state = .armed ∧ ∃ k, c.countdown = some k ∧ k ≤ 1 := by
  unfold Cue.countdownEnds
  cases c.countdown <;> simp

/-- R154: a PENDING AT_TIME cue is due, on time or overdue with CATCH_UP. -/
theorem Cue.timeDue_iff (c : Cue) (t : ScreenTime) :
    c.timeDue t = true ↔ c.state = .pending ∧ c.spec.trigger = .atTime ∧ 0 ≤ signedDiff t c.spec.time ∧
      (signedDiff t c.spec.time ≤ 47 ∨ c.spec.catchUp = true) := by
  unfold Cue.timeDue Cue.pastBy
  simp only [Bool.and_eq_true, Bool.or_eq_true, decide_eq_true_eq, and_assoc]

/-- R154: a PENDING AT_TIME cue is MISSED. -/
theorem Cue.timeMissed_iff (c : Cue) (t : ScreenTime) :
    c.timeMissed t = true ↔ c.state = .pending ∧ c.spec.trigger = .atTime ∧ 48 ≤ signedDiff t c.spec.time ∧
      c.spec.catchUp = false ∧ c.go = false := by
  unfold Cue.timeMissed Cue.pastBy
  simp only [Bool.and_eq_true, Bool.not_eq_true', decide_eq_true_eq, and_assoc]

/-- R155: a PENDING ON_MARKER cue whose code a due marker carries. -/
theorem Cue.markerDue_iff (c : Cue) (due : List Marker) :
    c.markerDue due = true ↔
      c.state = .pending ∧ c.spec.trigger = .onMarker ∧ ∃ m ∈ due, m.code = c.spec.markerCode := by
  unfold Cue.markerDue
  simp only [Bool.and_eq_true, List.any_eq_true, decide_eq_true_eq, and_assoc]

/-- R155: markers are due at once on a screen whose ACTIVE entry is in ARRIVAL mode. -/
theorem State.arrivalScreen_iff (i : ScreenNo) (s : State) :
    s.arrivalScreen i = true ↔ ∃ e, s.activeEntry i = some e ∧ s.entries[e].timing = .arrival := by
  unfold State.arrivalScreen State.modeOf
  cases h : s.activeEntry i with
  | none => simp
  | some e => simp

/-- R154 to R156, R160: a cue of the screen is due. -/
theorem Cue.isDue_iff (c : Cue) (t : ScreenTime) (held : Bool) (due : List Marker) :
    c.isDue t held due = true ↔
      (c.state = .armed ∧ ∃ k, c.countdown = some k ∧ k ≤ 1) ∨
      (held = false ∧ c.state = .pending ∧ c.spec.trigger = .atTime ∧ 0 ≤ signedDiff t c.spec.time ∧
        (signedDiff t c.spec.time ≤ 47 ∨ c.spec.catchUp = true)) ∨
      (c.state = .pending ∧ c.spec.trigger = .onMarker ∧ ∃ m ∈ due, m.code = c.spec.markerCode) ∨ c.go = true := by
  unfold Cue.isDue
  simp only [Bool.or_eq_true, Bool.and_eq_true, Bool.not_eq_true', Cue.countdownEnds_iff, Cue.timeDue_iff,
    Cue.markerDue_iff, or_assoc]

/-- R154 to R156: the judgement of a screen's cues changes the cues and its markers alone. -/
theorem State.judgeCues_eq (i : ScreenNo) (t : ScreenTime) (held : Bool) (s : State) :
    s.judgeCues i t held =
      { s with
        screens := s.screens.set i.val
          { s.screens[i] with
            markers := s.screens[i].markers.filter fun m => !markerIsDue (s.arrivalScreen i) t m } i.isLt
        cues := (s.judgeCues i t held).cues } := by
  have hm : ∀ (v : State) (f : CueNo → Cue → Cue), v.mapCues f = { v with cues := (v.mapCues f).cues } := by
    intro v f; simp only [State.mapCues]
  have hr : s.removeMarkers i t = { s with
      screens := s.screens.set i.val
        { s.screens[i] with
          markers := s.screens[i].markers.filter fun m => !markerIsDue (s.arrivalScreen i) t m } i.isLt } := by
    simp only [State.removeMarkers, State.modScreen, adjust_eq_set]
  unfold State.judgeCues
  rw [hm, hr]

/-- R154, R156: a cue of the screen is MISSED, or its countdown is lowered and its go request taken. -/
theorem State.judgeCues_get (i : ScreenNo) (t : ScreenTime) (held : Bool) (s : State) (n : CueNo) :
    (s.judgeCues i t held).cues[n] =
      if s.cues[n].spec.screen = i.val then
        if held = false ∧ s.cues[n].timeMissed t = true then { s.cues[n] with state := .missed }
        else
          { s.cues[n] with
            go := false
            countdown :=
              match s.cues[n].state, s.cues[n].countdown with
              | .armed, some c => if c ≤ 1 then none else some (c - 1)
              | _, c => c }
      else s.cues[n] := by
  unfold State.judgeCues
  rw [State.mapCues_get, show (s.removeMarkers i t).cues = s.cues from rfl]
  unfold Cue.judged
  simp only [Bool.and_eq_true, Bool.not_eq_true']
  generalize s.cues[n] = c
  split
  · split
    · rfl
    · unfold Cue.lowerCountdown
      obtain ⟨spec, st, ct, lf, g⟩ := c
      cases st <;> cases ct <;> rfl
  · rfl

/-! ## Actions -/

/-- R158: a PRESET action that faults has no effect of its own. -/
theorem State.firePreset_fault (i : ScreenNo) (p : Nat) (s : State) (h : (s.firePreset i p).2 ≠ .none) :
    (s.firePreset i p).1 = s := by
  revert h
  unfold State.firePreset
  split
  · split
    · exact fun h => absurd rfl h
    · exact fun _ => rfl
  · exact fun _ => rfl

/-- R159: a SOURCE action that faults has no effect of its own. -/
theorem State.fireSource_fault (i : ScreenNo) (e : Nat) (s : State) (h : (s.fireSource i e).2 ≠ .none) :
    (s.fireSource i e).1 = s := by
  revert h
  unfold State.fireSource
  split
  · dsimp only
    split
    · exact fun _ => rfl
    · split
      · exact fun _ => rfl
      all_goals exact fun h => absurd rfl h
  · exact fun _ => rfl

/-- R159: a PRIME action that faults has no effect of its own. -/
theorem State.firePrime_fault (i : ScreenNo) (e : Nat) (s : State) (h : (s.firePrime i e).2 ≠ .none) :
    (s.firePrime i e).1 = s := by
  revert h
  unfold State.firePrime
  split
  · dsimp only
    split
    · exact fun _ => rfl
    · split
      · exact fun _ => rfl
      · exact fun _ => rfl
      all_goals exact fun h => absurd rfl h
  · exact fun _ => rfl

/-- R158, R159: an action that faults has no effect of its own. -/
theorem State.fireAction_fault (i : ScreenNo) (n : CueNo) (c : CueSpec) (s : State)
    (h : (s.fireAction i n c).2 ≠ .none) : (s.fireAction i n c).1 = s := by
  revert h
  unfold State.fireAction
  split
  · exact State.firePreset_fault _ _ _
  · exact fun h => absurd rfl h
  · exact fun h => absurd rfl h
  · exact fun h => absurd rfl h
  · exact State.fireSource_fault _ _ _
  · exact State.firePrime_fault _ _ _
  · exact fun h => absurd rfl h
  · exact fun h => absurd rfl h
  · unfold State.fireCheck
    split
    · exact fun _ => rfl
    · exact fun h => absurd rfl h
  · unfold State.fireStopCheck
    split
    · exact fun h => absurd rfl h
    · exact fun _ => rfl
  · exact fun h => absurd rfl h

/-- R157: a cue's firing is its action, the notice of its fault, and its own new state. -/
theorem State.fireCue_eq (s : State) (i : ScreenNo) (n : CueNo) (r : State × CueFault)
    (hr : r = s.fireAction i n s.cues[n].spec) :
    s.fireCue i n =
      { (if r.2 = .none then r.1
          else r.1.offerNotice
            { kind := .cueFault, screen := i, subject := n.val
              state := match r.2 with
                | .none => 0 | .badPreset => 1 | .badSource => 2 | .checkBusy => 3 | .noCheck => 4
              valueA := 0, valueB := 0, st := s.stNow i }) with
        cues := s.cues.set n.val
          { s.cues[n] with state := .fired, countdown := none, lastFault := some r.2 } n.isLt } := by
  have hc : r.1.cues = s.cues := by rw [hr]; exact State.fireAction_cues _ _ _ _
  have hf : r.2 ≠ .none → r.1 = s := by rw [hr]; exact State.fireAction_fault _ _ _ _
  unfold State.fireCue
  rw [← hr]
  unfold State.raiseCueFault
  by_cases h : r.2 = .none
  · simp only [h, if_true]
    unfold State.modCue
    rw [hc]
    rfl
  · simp only [h, if_false]
    unfold State.raise State.modCue
    rw [State.offerNotice_cues, hc, hf h]
    cases r.2 <;> rfl

/-- R158, R159: each action is what its command does, its fault, or the CUE notice. -/
theorem State.fireAction_spec (s : State) (i : ScreenNo) (n : CueNo) (c : CueSpec) :
    let used := ∃ p : PresetNo, c.preset = p.val ∧ s.presets[p].used = true
    let running := s.screens[i].signal.check.running = true
    let entryIn := fun states : List EntryState =>
      ∃ e : EntryNo, c.entry = e.val ∧ s.entries[e].screen = i ∧ s.entries[e].state ∈ states
    let acts := fun r : Request => s.fireAction i n c = ((perform r s).state, .none)
    let faults := fun f : CueFault => s.fireAction i n c = (s, f)
    (c.action = .preset → (used → acts (.setPreset i.val (some c.preset))) ∧ (¬used → faults .badPreset)) ∧
    (c.action = .fade → acts (.fade i.val c.fadeTarget c.fadeDuration)) ∧
    (c.action = .mute → acts (.mute i.val)) ∧ (c.action = .unmute → acts (.unmute i.val)) ∧
    (c.action = .bank → acts (.selectBank i.val c.bank)) ∧
    (c.action = .pattern → acts (.pattern i.val c.pattern)) ∧
    (c.action = .check →
      (¬running → c.check.kind ≠ .off → acts (.startCheck i.val c.check)) ∧ (running → faults .checkBusy)) ∧
    (c.action = .stopCheck → (running → acts (.stopCheck i.val)) ∧ (¬running → faults .noCheck)) ∧
    (c.action = .notify → s.fireAction i n c =
      (s.offerNotice
        { kind := .cue, screen := i, subject := n.val, state := 0, valueA := c.notifyCode, valueB := 0,
          st := s.stNow i }, .none)) ∧
    (c.action = .source → (entryIn [.primed, .inactive, .active] → acts (.activate c.entry)) ∧
      (¬entryIn [.primed, .inactive, .active] → faults .badSource)) ∧
    (c.action = .prime → (entryIn [.inactive, .primed] → acts (.prime c.entry)) ∧
      (¬entryIn [.inactive, .primed] → faults .badSource)) := by
  intro used running entryIn acts faults
  refine ⟨fun h => ⟨?_, ?_⟩, fun h => ?_, fun h => ?_, fun h => ?_, fun h => ?_, fun h => ?_, fun h => ⟨?_, ?_⟩,
    fun h => ⟨?_, ?_⟩, fun h => ?_, fun h => ⟨?_, ?_⟩, fun h => ⟨?_, ?_⟩⟩
  · rintro ⟨p, hp, hu⟩
    simp only [acts, State.fireAction, h, State.firePreset, perform, doSetPreset, hp, p.isLt, i.isLt, dite_true]
    rw [if_pos hu, if_pos hu]
    rfl
  · intro hu
    simp only [faults, State.fireAction, h, State.firePreset]
    split
    · next hp => rw [if_neg fun hh => hu ⟨⟨c.preset, hp⟩, rfl, hh⟩]
    · rfl
  · simp only [acts, State.fireAction, h, perform, doFade, i.isLt, dite_true]; rfl
  · simp only [acts, State.fireAction, h, perform, doMute, i.isLt, dite_true]; rfl
  · simp only [acts, State.fireAction, h, perform, doUnmute, i.isLt, dite_true]; rfl
  · simp only [acts, State.fireAction, h, perform, doSelectBank, i.isLt, dite_true]; rfl
  · simp only [acts, State.fireAction, h, perform, doPattern, i.isLt, dite_true]; rfl
  · intro hr hk
    simp only [acts, State.fireAction, h, perform, doStartCheck, State.fireCheck, i.isLt, dite_true, hk, if_false]
    rw [if_neg hr, if_neg (show ¬s.screens[(⟨i.val, i.isLt⟩ : ScreenNo)].signal.check.running = true from hr)]
    rfl
  · intro hr
    simp only [faults, State.fireAction, h, State.fireCheck]
    rw [if_pos hr]
  · intro hr
    simp only [acts, State.fireAction, h, perform, doStopCheck, State.fireStopCheck, i.isLt, dite_true]
    rw [if_pos hr, if_pos (show s.screens[(⟨i.val, i.isLt⟩ : ScreenNo)].signal.check.running = true from hr)]
    rfl
  · intro hr
    simp only [faults, State.fireAction, h, State.fireStopCheck]
    rw [if_neg hr]
  · simp only [State.fireAction, h]; rfl
  · rintro ⟨e, he, hi, hs⟩
    simp only [acts, State.fireAction, h, State.fireSource, perform, doActivate, he, e.isLt, dite_true]
    rw [if_neg (show ¬s.entries[e].screen ≠ i from fun hne => hne hi)]
    have ha : (s.activateEntry e).2 = .ok := by
      unfold State.activateEntry
      revert hs
      cases s.entries[e].state <;> simp
    simp only [entryAnswer, ha, Fin.eta]
    cases hst : s.entries[e].state
    · rw [hst] at hs; simp at hs
    all_goals rfl
  · intro hne
    simp only [faults, State.fireAction, h, State.fireSource]
    split
    · next he =>
        split
        · rfl
        · next hi =>
            have hi' : s.entries[(⟨c.entry, he⟩ : EntryNo)].screen = i := Decidable.not_not.mp hi
            cases hst : s.entries[(⟨c.entry, he⟩ : EntryNo)].state
            · rfl
            all_goals exact absurd ⟨⟨c.entry, he⟩, rfl, hi', by rw [hst]; decide⟩ hne
    · rfl
  · rintro ⟨e, he, hi, hs⟩
    simp only [acts, State.fireAction, h, State.firePrime, perform, doPrime, he, e.isLt, dite_true]
    rw [if_neg (show ¬s.entries[e].screen ≠ i from fun hne => hne hi)]
    have ha : (s.primeEntry e).2 = .ok := by
      unfold State.primeEntry
      revert hs
      cases s.entries[e].state <;> simp
    simp only [entryAnswer, ha, Fin.eta]
    cases hst : s.entries[e].state
    · rw [hst] at hs; simp at hs
    · rfl
    · rfl
    · rw [hst] at hs; simp at hs
  · intro hne
    simp only [faults, State.fireAction, h, State.firePrime]
    split
    · next he =>
        split
        · rfl
        · next hi =>
            have hi' : s.entries[(⟨c.entry, he⟩ : EntryNo)].screen = i := Decidable.not_not.mp hi
            cases hst : s.entries[(⟨c.entry, he⟩ : EntryNo)].state
            · rfl
            · exact absurd ⟨⟨c.entry, he⟩, rfl, hi', by rw [hst]; decide⟩ hne
            · exact absurd ⟨⟨c.entry, he⟩, rfl, hi', by rw [hst]; decide⟩ hne
            · rfl
    · rfl


/-! ## Arming -/

/-- R157: an AFTER cue is armed by a parent that fired, in PENDING, ARMED or FIRED. -/
theorem Cue.armedBy_iff (c : Cue) (fired : List CueNo) :
    c.armedBy fired = true ↔ c.spec.trigger = .after ∧ (c.state = .pending ∨ c.state = .armed ∨ c.state = .fired) ∧
      ∃ p ∈ fired, c.spec.parent = p.val := by
  unfold Cue.armedBy
  simp only [Bool.and_eq_true, Bool.or_eq_true, decide_eq_true_eq, or_assoc, and_assoc]
  refine and_congr_right fun _ => and_congr_right fun _ => ?_
  constructor
  · intro h
    split at h
    · next hp => exact ⟨_, of_decide_eq_true h, rfl⟩
    · exact absurd h (by decide)
  · rintro ⟨p, hp, he⟩
    have hlt : c.spec.parent < 256 := he ▸ p.isLt
    rw [dif_pos hlt]
    exact decide_eq_true (by simpa only [he, Fin.eta] using hp)

/-- R163: an ARMED AFTER cue is released by a parent that left FIRED. -/
theorem Cue.releasedBy_iff (c : Cue) (left : CueNo → Bool) :
    c.releasedBy left = true ↔ c.state = .armed ∧ c.spec.trigger = .after ∧
      ∃ p : CueNo, c.spec.parent = p.val ∧ left p = true := by
  unfold Cue.releasedBy
  simp only [Bool.and_eq_true, decide_eq_true_eq, and_assoc]
  refine and_congr_right fun _ => and_congr_right fun _ => ?_
  constructor
  · intro h
    split at h
    · next hp => exact ⟨_, rfl, h⟩
    · exact absurd h (by decide)
  · rintro ⟨p, he, hp⟩
    have hlt : c.spec.parent < 256 := he ▸ p.isLt
    rw [dif_pos hlt]
    simpa only [he, Fin.eta] using hp

/-- R157, R163: what arming does to each cue: released, armed, or left as it was. -/
theorem State.armChildren_cues (s t : State) (fired : List CueNo) (ht : t = s.armChildren fired) :
    let armed := fun m : CueNo => s.cues[m].spec.trigger = .after ∧
      (s.cues[m].state = .pending ∨ s.cues[m].state = .armed ∨ s.cues[m].state = .fired) ∧
      ∃ p ∈ fired, s.cues[m].spec.parent = p.val
    let released := fun m : CueNo => s.cues[m].spec.trigger = .after ∧ (armed m ∨ s.cues[m].state = .armed) ∧
      ∃ p : CueNo, s.cues[m].spec.parent = p.val ∧ armed p ∧ s.cues[p].state = .fired
    t = { s with cues := t.cues } ∧
    ∀ m : CueNo,
      (released m → t.cues[m] = { s.cues[m] with state := .pending, countdown := none }) ∧
      (armed m → ¬released m →
        t.cues[m] = { s.cues[m] with state := .armed, countdown := some s.cues[m].spec.delay }) ∧
      (¬armed m → ¬released m → t.cues[m] = s.cues[m]) := by
  subst ht
  intro armed released
  refine ⟨rfl, fun m => ?_⟩
  have ha : ∀ m, s.cues[m].armedBy fired = true ↔ armed m := fun m => Cue.armedBy_iff _ _
  have hc : (s.armChildren fired).cues[m] =
      if released m then { s.cues[m] with state := .pending, countdown := none }
      else if armed m then { s.cues[m] with state := .armed, countdown := some s.cues[m].spec.delay }
      else s.cues[m] := by
    unfold State.armChildren
    dsimp only
    rw [State.releaseChildren_get, State.mapCues_get]
    have hr : ∀ c : Cue, c.spec = s.cues[m].spec →
        (c.releasedBy (fun n => s.cues[n].armedBy fired && decide (s.cues[n].state = .fired)) = true ↔
          c.state = .armed ∧ s.cues[m].spec.trigger = .after ∧
            ∃ p : CueNo, s.cues[m].spec.parent = p.val ∧ armed p ∧ s.cues[p].state = .fired) := by
      intro c hs
      rw [Cue.releasedBy_iff, hs]
      simp only [Bool.and_eq_true, decide_eq_true_eq, ha]
    by_cases hm : armed m
    · have hm' := (ha m).mpr hm
      have hra := hr { s.cues[m] with state := .armed, countdown := some s.cues[m].spec.delay } rfl
      simp only [hm', if_true]
      by_cases hrel : released m
      · rw [if_pos hrel, if_pos (hra.mpr ⟨rfl, hrel.1, hrel.2.2⟩)]; rfl
      · rw [if_neg hrel, if_pos hm, if_neg fun h => hrel ⟨(hra.mp h).2.1, .inl hm, (hra.mp h).2.2⟩]
    · have hm' : ¬s.cues[m].armedBy fired = true := fun h => hm ((ha m).mp h)
      have hrs := hr s.cues[m] rfl
      rw [if_neg hm']
      by_cases hrel : released m
      · rw [if_pos hrel, if_pos (hrs.mpr ⟨hrel.2.1.resolve_left hm, hrel.1, hrel.2.2⟩)]; rfl
      · rw [if_neg hrel, if_neg hm, if_neg fun h => hrel ⟨(hrs.mp h).2.1, .inr (hrs.mp h).1, (hrs.mp h).2.2⟩]
  refine ⟨fun h => by rw [hc, if_pos h], fun h1 h2 => by rw [hc, if_neg h2, if_pos h1],
    fun h1 h2 => by rw [hc, if_neg h2, if_neg h1]⟩

/-- R157: when no cue fired, none is armed. -/
theorem State.armChildren_nil (s : State) : s.armChildren [] = s := by
  obtain ⟨h1, h2⟩ := State.armChildren_cues s _ [] rfl
  have h3 : (s.armChildren []).cues = s.cues := by
    apply table_ext
    intro m
    refine (h2 m).2.2 ?_ ?_
    · rintro ⟨_, _, p, hp, _⟩; exact absurd hp (by simp)
    · rintro ⟨_, _, p, _, ⟨_, _, q, hq, _⟩, _⟩; exact absurd hq (by simp)
  rw [h1, h3]

end Sys2Proof.Machine
end

