-- ==== Sys2Proof/Laws/Intake.lean ====
section
/-! SUPPORT. A trunk frame in the form of R1 passes its check and gives back its fields. -/

namespace Sys2Proof.Machine

theorem numberOf_pair (a b : Byte) : numberOf [a, b] = 256 * a.toNat + b.toNat := by
  simp [numberOf]; omega

/-- The two bytes of a check read back as the check. -/
theorem numberOf_check (c : FrameCheck) : numberOf [(c >>> 8).setWidth 8, c.setWidth 8] = c.toNat := by
  have h := c.isLt
  rw [numberOf_pair]
  simp only [BitVec.toNat_setWidth, BitVec.toNat_ushiftRight, Nat.shiftRight_eq_div_pow]
  omega

theorem withCheck_length (bytes : List Byte) : (withCheck bytes).length = bytes.length + 2 := by
  simp [withCheck]

/-- A run of bytes with its check appended has that check at its end. -/
theorem withCheck_take (bytes : List Byte) : (withCheck bytes).take ((withCheck bytes).length - 2) = bytes := by
  rw [withCheck_length]
  simp [withCheck]

theorem withCheck_drop (bytes : List Byte) :
    numberOf ((withCheck bytes).drop ((withCheck bytes).length - 2)) = (frameCheck bytes).toNat := by
  rw [withCheck_length, Nat.add_sub_cancel, withCheck, List.drop_left, numberOf_check]

/-- The five header bytes of a frame (R1). -/
def trunkHeader (kind stream : Nat) (seq : Byte) (length : Nat) : List Byte :=
  [BitVec.ofNat 8 (16 * kind + stream / 256), BitVec.ofNat 8 (stream % 256), seq, BitVec.ofNat 8 (length / 256),
    BitVec.ofNat 8 (length % 256)]

theorem trunkFrame_eq (kind stream : Nat) (seq : Byte) (body : List Byte) :
    trunkFrame kind stream seq body = withCheck (trunkHeader kind stream seq body.length ++ body) := rfl

theorem trunkFrame_length (kind stream : Nat) (seq : Byte) (body : List Byte) :
    (trunkFrame kind stream seq body).length = body.length + 7 := by
  rw [trunkFrame_eq, withCheck_length]
  simp only [trunkHeader, List.length_append, List.length_cons, List.length_nil]
  omega

/-- R2: a frame in the form of R1 with its check passes step 1 of intake. -/
theorem frameCheckPasses_trunkFrame (kind stream : Nat) (seq : Byte) (body : List Byte) (hb : body.length < 65536) :
    frameCheckPasses (trunkFrame kind stream seq body) = true := by
  have h1 : 7 ≤ (trunkFrame kind stream seq body).length := by rw [trunkFrame_length]; omega
  have h2 : numberOf (((trunkFrame kind stream seq body).drop 3).take 2) = (trunkFrame kind stream seq body).length - 7 := by
    rw [trunkFrame_length]
    simp only [trunkFrame_eq, withCheck, trunkHeader, List.cons_append, List.nil_append, List.drop_succ_cons,
      List.drop_zero, List.take_succ_cons, List.take_zero, numberOf_pair, BitVec.toNat_ofNat]
    omega
  have h3 : (frameCheck ((trunkFrame kind stream seq body).take ((trunkFrame kind stream seq body).length - 2))).toNat =
      numberOf ((trunkFrame kind stream seq body).drop ((trunkFrame kind stream seq body).length - 2)) := by
    rw [trunkFrame_eq, withCheck_take, withCheck_drop]
  simp only [frameCheckPasses, h1, h2, h3, decide_true, Bool.and_self]

/-- R1: the fields of a frame in the form of R1. -/
theorem frameFields_trunkFrame (kind stream : Nat) (seq : Byte) (body : List Byte) (hk : kind < 16)
    (hs : stream < 4096) :
    frameFields (trunkFrame kind stream seq body) = { kind := kind, stream := stream, seq := seq, body := body } := by
  have hl := trunkFrame_length kind stream seq body
  have h1 : numberOf ((trunkFrame kind stream seq body).take 1) / 16 = kind := by
    simp only [trunkFrame_eq, withCheck, trunkHeader, List.cons_append, List.nil_append, List.take_succ_cons,
      List.take_zero, numberOf, List.foldl_cons, List.foldl_nil, BitVec.toNat_ofNat]
    omega
  have h2 : numberOf ((trunkFrame kind stream seq body).take 2) % 4096 = stream := by
    simp only [trunkFrame_eq, withCheck, trunkHeader, List.cons_append, List.nil_append, List.take_succ_cons,
      List.take_zero, numberOf_pair, BitVec.toNat_ofNat]
    omega
  have h3 : ((trunkFrame kind stream seq body).drop 2).headD 0 = seq := rfl
  have h4 : ((trunkFrame kind stream seq body).drop 5).take ((trunkFrame kind stream seq body).length - 7) = body := by
    rw [hl, Nat.add_sub_cancel]
    simp only [trunkFrame_eq, withCheck, trunkHeader, List.cons_append, List.nil_append, List.drop_succ_cons,
      List.drop_zero, List.take_left]
  simp only [frameFields, h1, h2, h3, h4]

/-- R13: the arrival of a frame in the form of R1 is its classification. -/
theorem State.arrive_trunkFrame (s : State) (kind stream : Nat) (seq : Byte) (body : List Byte) (hk : kind < 16)
    (hs : stream < 4096) (hb : body.length < 65536) :
    s.arrive (trunkFrame kind stream seq body) =
      s.classify { kind := kind, stream := stream, seq := seq, body := body } := by
  simp [State.arrive, frameCheckPasses_trunkFrame kind stream seq body hb,
    frameFields_trunkFrame kind stream seq body hk hs]

end Sys2Proof.Machine
end

