-- ==== Sys2Proof/Laws/Pool.lean ====
section
/-! SUPPORT. What an insertion in PT order, a selection and an offer can do (R31, R41 to R43, R153). -/

namespace Sys2Proof.Machine

/-- R31: the place of a block: after every block that is not later, before the first that is. -/
theorem insertTimed_split (b : Block) (queue : List Block) :
    ∃ before after, queue = before ++ after ∧ insertTimed b queue = before ++ b :: after ∧
      (∀ q ∈ before, ¬0 < signedDiff q.pt b.pt) ∧ ∀ q, after.head? = some q → 0 < signedDiff q.pt b.pt := by
  induction queue with
  | nil => exact ⟨[], [], rfl, rfl, by simp, by simp⟩
  | cons x xs ih =>
      by_cases h : 0 < signedDiff x.pt b.pt
      · refine ⟨[], x :: xs, rfl, by simp [insertTimed, h], by simp, ?_⟩
        intro q hq
        simp only [List.head?_cons, Option.some.injEq] at hq
        exact hq ▸ h
      · obtain ⟨before, after, h1, h2, h3, h4⟩ := ih
        refine ⟨x :: before, after, by simp [h1], by simp [insertTimed, h, h2], ?_, h4⟩
        intro q hq
        rcases List.mem_cons.mp hq with rfl | hq
        · exact h
        · exact h3 q hq

/-- R153: the place of a marker. -/
theorem insertMarker_split (m : Marker) (list : List Marker) :
    ∃ before after, list = before ++ after ∧ insertMarker m list = before ++ m :: after ∧
      (∀ q ∈ before, ¬0 < signedDiff q.pt m.pt) ∧ ∀ q, after.head? = some q → 0 < signedDiff q.pt m.pt := by
  induction list with
  | nil => exact ⟨[], [], rfl, rfl, by simp, by simp⟩
  | cons x xs ih =>
      by_cases h : 0 < signedDiff x.pt m.pt
      · refine ⟨[], x :: xs, rfl, by simp [insertMarker, h], by simp, ?_⟩
        intro q hq
        simp only [List.head?_cons, Option.some.injEq] at hq
        exact hq ▸ h
      · obtain ⟨before, after, h1, h2, h3, h4⟩ := ih
        refine ⟨x :: before, after, by simp [h1], by simp [insertMarker, h, h2], ?_, h4⟩
        intro q hq
        rcases List.mem_cons.mp hq with rfl | hq
        · exact h
        · exact h3 q hq

theorem insertTimed_length (b : Block) (queue : List Block) : (insertTimed b queue).length = queue.length + 1 := by
  obtain ⟨before, after, h1, h2, -, -⟩ := insertTimed_split b queue
  rw [h2, h1]
  simp only [List.length_append, List.length_cons]
  omega

theorem insertBlock_length (mode : TimingMode) (b : Block) (queue : List Block) :
    (insertBlock mode b queue).length = queue.length + 1 := by
  cases mode with
  | timed => exact insertTimed_length b queue
  | arrival => simp [insertBlock]

/-- Every block of a queue after an insertion is the new one or was there. -/
theorem mem_insertBlock (mode : TimingMode) (b x : Block) (queue : List Block) :
    x ∈ insertBlock mode b queue ↔ x = b ∨ x ∈ queue := by
  cases mode with
  | timed =>
      obtain ⟨before, after, h1, h2, -, -⟩ := insertTimed_split b queue
      rw [insertBlock, h2, h1]
      simp only [List.mem_append, List.mem_cons]
      constructor
      · rintro (h | h | h) <;> simp [h]
      · rintro (h | h | h) <;> simp [h]
  | arrival =>
      simp only [insertBlock, List.mem_append, List.mem_singleton]
      exact or_comm

/-- What a selection leaves is a tail of the queue: blocks leave it from the head alone. -/
theorem selectTimed_suffix (t : ScreenTime) (late early : Int) (queue : List Block) :
    (selectTimed t late early queue).rest <:+ queue := by
  induction queue with
  | nil => exact List.suffix_refl _
  | cons b rest ih =>
      simp only [selectTimed]
      split
      · exact ih.trans (List.suffix_cons _ _)
      · split
        · exact List.suffix_cons _ _
        · split
          · exact List.suffix_cons _ _
          · split
            · exact List.suffix_refl _
            · exact ih.trans (List.suffix_cons _ _)

theorem selectBlock_suffix (mode : TimingMode) (t : ScreenTime) (late early : Int) (queue : List Block) :
    (selectBlock mode t late early queue).rest <:+ queue := by
  cases mode with
  | timed => exact selectTimed_suffix t late early queue
  | arrival =>
      cases queue with
      | nil => exact List.suffix_refl _
      | cons b rest => exact List.suffix_cons _ _

theorem selectBlock_rest_length (mode : TimingMode) (t : ScreenTime) (late early : Int) (queue : List Block) :
    (selectBlock mode t late early queue).rest.length ≤ queue.length :=
  (selectBlock_suffix mode t late early queue).length_le

/-- A block is played exactly on the decisions ON TIME and LATE PLAY. -/
theorem selectBlock_played (mode : TimingMode) (t : ScreenTime) (late early : Int) (queue : List Block) :
    (selectBlock mode t late early queue).played.isSome ↔
      (selectBlock mode t late early queue).decision = .onTime ∨
        (selectBlock mode t late early queue).decision = .latePlay := by
  cases mode with
  | timed =>
      simp only [selectBlock]
      induction queue with
      | nil => simp [selectTimed]
      | cons b rest ih =>
          simp only [selectTimed]
          split
          · exact ih
          · split
            · simp
            · split
              · simp
              · split
                · simp
                · exact ih
  | arrival => cases queue <;> simp [selectBlock, selectArrival]

/-- R31: an offer raises the tally of the first test it fails, or places the block. -/
theorem State.offerBlock_cases (e : EntryNo) (b : Block) (s : State) :
    (∃ t, s.offerFailure e b = some t ∧ s.offerBlock e b = s.bumpEntry e t 1) ∨
      (s.offerFailure e b = none ∧ s.offerBlock e b = s.placeBlock e b) := by
  cases h : s.offerFailure e b with
  | some t => exact .inl ⟨t, rfl, by simp [State.offerBlock, h]⟩
  | none => exact .inr ⟨rfl, by simp [State.offerBlock, h]⟩

/-- R28, R29: a block that passes its tests finds a free slot and room under the quota. -/
theorem State.offerFailure_none (e : EntryNo) (b : Block) (s : State) (h : s.offerFailure e b = none) :
    s.freeSlots ≠ 0 ∧
      s.screens[s.entries[e].screen].playout.held < s.screens[s.entries[e].screen].settings.quota := by
  simp only [State.offerFailure] at h
  split at h
  · exact absurd h (by simp)
  · next h0 =>
      split at h
      · exact absurd h (by simp)
      · next h1 => exact ⟨h0, Nat.not_le.mp h1⟩

end Sys2Proof.Machine
end

