-- ==== Sys2Proof/Laws/Step.lean ====
section
/-! SUPPORT. What a step and the handing on of a request can do. -/

namespace Sys2Proof.Machine

/-! ## Every command has an effect -/

/-- No command ends in a fault or a refusal. -/
theorem exec_next (c : Instr) (s : State) : ∃ t, exec c s = .next t := by
  cases c <;> first
    | exact ⟨_, rfl⟩
    | (simp only [exec, execBlockBoundary, execReferenceTimeout, execMeterDue, execCheckComplete, execFadeEnd,
        execCueCountdownExpiry]
       split <;> exact ⟨_, rfl⟩)

/-- No step ends in a fault or a refusal. -/
theorem step_next (s : State) : ∃ t, step s = .next t := by
  cases h : s.pending with
  | nil => exact ⟨s.tick, by simp [step, h]⟩
  | cons c rest =>
      obtain ⟨t, ht⟩ := exec_next c { s with pending := rest }
      exact ⟨t, by simp [step, h, ht]⟩

/-! ## Requests -/

theorem State.handlerFree_iff (s : State) : s.handlerFree = true ↔ s.free := by
  simp only [State.handlerFree, State.free, Bool.and_eq_true, Option.isNone_iff_eq_none, List.isEmpty_iff]
  exact and_comm

/-- Every request row is the hand-off of its request. -/
theorem exec_request (c : Instr) (tag : Byte) (r : Request) (s : State) (h : requestOf c = some (tag, r)) :
    exec c s = .next (s.submit tag r) := by
  cases c <;> simp only [requestOf, Option.some.injEq, Prod.mk.injEq, reduceCtorEq] at h <;>
    (obtain ⟨rfl, rfl⟩ := h; rfl)

/-- R166: a request taken at once is carried out and its reply offered. -/
theorem State.submit_of_free (s : State) (tag : Byte) (r : Request) (h : s.free) :
    s.submit tag r = (perform r s).state.offerReply
      { tag := tag, result := (perform r s).result, record := (perform r s).record } := by
  simp [State.submit, (State.handlerFree_iff s).mpr h, State.carryOut, Answer.reply]

/-- R166: a request not taken at once joins the tail of the request queue. -/
theorem State.submit_of_space (s : State) (tag : Byte) (r : Request) (h : ¬s.free) (hs : s.requests.length < 16) :
    s.submit tag r = { s with requests := s.requests ++ [(tag, r)] } := by
  have hf : s.handlerFree = false := by
    cases hb : s.handlerFree with
    | false => rfl
    | true => exact absurd ((State.handlerFree_iff s).mp hb) h
  simp [State.submit, hf, hs]

/-- R166: a request that finds the request queue full is discarded. -/
theorem State.submit_of_full (s : State) (tag : Byte) (r : Request) (h : ¬s.free) (hs : ¬s.requests.length < 16) :
    s.submit tag r = s.bumpPort .manageDrop := by
  have hf : s.handlerFree = false := by
    cases hb : s.handlerFree with
    | false => rfl
    | true => exact absurd ((State.handlerFree_iff s).mp hb) h
  simp [State.submit, hf, hs]

/-- R166: nothing more is taken while a reply waits. -/
theorem State.takeFrom_of_waiting (s : State) (q : List (Byte × Request)) (h : s.replySlot.isSome) :
    s.takeFrom q = { s with requests := q } := by
  cases q with
  | nil => rfl
  | cons r rest =>
      cases hs : s.replySlot with
      | none => simp [hs] at h
      | some _ => simp [State.takeFrom, hs]

/-- R174: an empty Report Queue has no head to send. -/
theorem State.frameSent_of_empty (s : State) (h : s.reports = []) : s.frameSent = s := by
  simp [State.frameSent, h]

end Sys2Proof.Machine
end

