-- ==== Sys2Proof/Laws/Records.lean ====
section
/-! SUPPORT. What the reading of a request's argument record answers by the record's length and its named-value
codes (R4, R167 steps 3 and 4), and that its flag and presence bytes above 1 read as 1. -/

namespace Sys2Proof.Machine

/-! ## Fields -/

/-- The unsigned values of the fields of a record, by their widths. -/
def fieldValues : List Nat → List Byte → List Nat
  | [], _ => []
  | w :: ws, bytes => numberOf (bytes.take w) :: fieldValues ws (bytes.drop w)

/-- R167 step 3: fields are taken exactly where their bytes are there. -/
theorem takeFields_eq (ws : List Nat) (bytes : List Byte) :
    takeFields ws bytes =
      if ws.sum ≤ bytes.length then some (fieldValues ws bytes, bytes.drop ws.sum) else none := by
  induction ws generalizing bytes with
  | nil => simp [takeFields, fieldValues]
  | cons w ws ih =>
    have hs : (w :: ws).sum = w + ws.sum := List.sum_cons
    unfold takeFields fieldValues
    rw [ih, List.length_drop]
    by_cases h1 : bytes.length < w
    · rw [if_pos h1, if_neg (by omega)]
    · rw [if_neg h1]
      by_cases h2 : ws.sum ≤ bytes.length - w
      · rw [if_pos h2, if_pos (by omega), hs, List.drop_drop]
      · rw [if_neg h2, if_neg (by omega)]

/-- R167 step 3: a record is read exactly when it has the length its fields require. -/
theorem readFields_eq (ws : List Nat) (bytes : List Byte) :
    readFields ws bytes = if bytes.length = ws.sum then some (fieldValues ws bytes) else none := by
  unfold readFields
  rw [takeFields_eq]
  by_cases h : ws.sum ≤ bytes.length
  · rw [if_pos h]
    by_cases h2 : bytes.length = ws.sum
    · rw [if_pos h2, List.drop_of_length_le (by omega)]
    · rw [if_neg h2]
      cases hd : bytes.drop ws.sum with
      | nil => exact absurd (List.drop_eq_nil_iff.mp hd) (by omega)
      | cons b rest => rfl
  · rw [if_neg h, if_neg (by omega)]

/-- A field of one byte. -/
theorem numberOf_take_one (bytes : List Byte) (n : Nat) :
    numberOf ((bytes.drop n).take 1) = (bytes.getD n 0).toNat := by
  induction n generalizing bytes with
  | zero => cases bytes <;> simp [numberOf]
  | succ n ih =>
    cases bytes with
    | nil => simp [numberOf]
    | cons b rest => simpa using ih rest

/-- The first byte of a record as a field. -/
theorem numberOf_first (bytes : List Byte) : numberOf (bytes.take 1) = (bytes.getD 0 0).toNat :=
  numberOf_take_one bytes 0

/-! ## Named-value codes -/

theorem ByteOrder.ofCode_eq_none (n : Nat) : ByteOrder.ofCode n = none ↔ 2 ≤ n := by
  rcases n with _ | _ | n <;> simp [ByteOrder.ofCode]

theorem TimingMode.ofCode_eq_none (n : Nat) : TimingMode.ofCode n = none ↔ 2 ≤ n := by
  rcases n with _ | _ | n <;> simp [TimingMode.ofCode]

theorem Bank.ofCode_eq_none (n : Nat) : Bank.ofCode n = none ↔ 2 ≤ n := by
  rcases n with _ | _ | n <;> simp [Bank.ofCode]

theorem ClockMode.ofCode_eq_none (n : Nat) : ClockMode.ofCode n = none ↔ 2 ≤ n := by
  rcases n with _ | _ | n <;> simp [ClockMode.ofCode]

theorem FillMode.ofCode_eq_none (n : Nat) : FillMode.ofCode n = none ↔ 3 ≤ n := by
  rcases n with _ | _ | _ | n <;> simp [FillMode.ofCode]

theorem PatternKind.ofCode_eq_none (n : Nat) : PatternKind.ofCode n = none ↔ 3 ≤ n := by
  rcases n with _ | _ | _ | n <;> simp [PatternKind.ofCode]

theorem Trigger.ofCode_eq_none (n : Nat) : Trigger.ofCode n = none ↔ 4 ≤ n := by
  rcases n with _ | _ | _ | _ | n <;> simp [Trigger.ofCode]

theorem AlarmAction.ofCode_eq_none (n : Nat) : AlarmAction.ofCode n = none ↔ 5 ≤ n := by
  rcases n with _ | _ | _ | _ | _ | n <;> simp [AlarmAction.ofCode]

theorem TallyScope.ofCode_eq_none (n : Nat) : TallyScope.ofCode n = none ↔ 5 ≤ n := by
  rcases n with _ | _ | _ | _ | _ | n <;> simp [TallyScope.ofCode]

theorem CueAction.ofCode_eq_none (n : Nat) : CueAction.ofCode n = none ↔ 11 ≤ n := by
  rcases n with _ | _ | _ | _ | _ | _ | _ | _ | _ | _ | _ | n <;> simp [CueAction.ofCode]

/-! ## Records whose length their count and presence bytes decide -/

/-- R67: the four fixed fields of a fill entry, where their bytes are there. -/
theorem takeFill_of_length (bytes : List Byte) (h : 5 ≤ bytes.length) :
    takeFields [1, 1, 2, 1] bytes =
      some ([numberOf (bytes.take 1), numberOf ((bytes.drop 1).take 1), numberOf ((bytes.drop 2).take 2),
        (bytes.getD 4 0).toNat], bytes.drop 5) := by
  rw [takeFields_eq, if_pos (by simpa using h), ← numberOf_take_one bytes 4]
  simp only [fieldValues, List.drop_drop]
  rfl

/-- R67: `n` fill entries are taken exactly where their bytes are there, their modes in order. -/
theorem takeFills_eq (n : Nat) (bytes : List Byte) :
    (bytes.length < fillsLength n bytes → takeFills n bytes = none) ∧
      (fillsLength n bytes ≤ bytes.length → ∃ raw, takeFills n bytes = some (raw, bytes.drop (fillsLength n bytes)) ∧
        raw.map Prod.fst = fillModes n bytes) := by
  induction n generalizing bytes with
  | zero => exact ⟨fun h => absurd h (by simp [fillsLength]), fun _ => ⟨[], rfl, rfl⟩⟩
  | succ n ih =>
    unfold takeFills fillsLength fillModes
    by_cases h5 : bytes.length < 5
    · rw [takeFields_eq, if_neg (by simp; omega)]
      have : 5 ≤ fillLength bytes := by unfold fillLength; split <;> omega
      exact ⟨fun _ => rfl, fun h => absurd h (by omega)⟩
    · rw [takeFill_of_length bytes (by omega)]
      dsimp only
      by_cases hp : bytes.getD 4 0 = 0
      · have hl : fillLength bytes = 5 := if_pos hp
        rw [hl, hp]
        obtain ⟨i1, i2⟩ := ih (bytes.drop 5)
        rw [List.length_drop] at i1 i2
        constructor
        · intro h
          rw [i1 (by omega)]
          rfl
        · intro h
          obtain ⟨raw, hr, hm⟩ := i2 (by omega)
          rw [hr, List.drop_drop]
          exact ⟨_, rfl, by simp [hm, numberOf_first]⟩
      · have hl : fillLength bytes = 8 := if_neg hp
        have hf : flagOf (bytes.getD 4 0).toNat = true := by
          unfold flagOf
          simpa [BitVec.toNat_eq] using hp
        rw [hl, hf, if_pos rfl, takeFields_eq]
        obtain ⟨i1, i2⟩ := ih (bytes.drop 8)
        rw [List.length_drop] at i1 i2
        have h3 : ([1, 2] : List Nat).sum = 3 := rfl
        rw [h3, List.length_drop]
        constructor
        · intro h
          by_cases h8 : 3 ≤ bytes.length - 5
          · rw [if_pos h8, List.drop_drop, show 5 + 3 = 8 from rfl]
            simp only [fieldValues]
            rw [i1 (by omega)]
          · rw [if_neg h8]
        · intro h
          rw [if_pos (by omega), List.drop_drop, show 5 + 3 = 8 from rfl]
          obtain ⟨raw, hr, hm⟩ := i2 (by omega)
          simp only [fieldValues]
          rw [hr, List.drop_drop]
          exact ⟨_, rfl, by simp [hm, numberOf_first]⟩

/-- R167 step 4: the fill entries are named exactly where every mode is. -/
theorem nameFills_eq_none (raw : List (Nat × Nat × Int × Option (Nat × Int))) :
    nameFills raw = none ↔ ∃ mode ∈ raw.map Prod.fst, 3 ≤ mode := by
  induction raw with
  | nil => simp [nameFills]
  | cons e rest ih =>
    obtain ⟨mode, donor, coef, second⟩ := e
    have hc := FillMode.ofCode_eq_none mode
    unfold nameFills
    simp only [List.map_cons, List.mem_cons, exists_eq_or_imp, ← hc, ← ih]
    cases FillMode.ofCode mode <;> cases nameFills rest <;> simp

/-- R85: `n` sections are taken exactly where their bytes are there. -/
theorem takeSections_eq (n : Nat) (bytes : List Byte) :
    (bytes.length < 15 * n → takeSections n bytes = none) ∧
      (15 * n ≤ bytes.length → ∃ list, takeSections n bytes = some (list, bytes.drop (15 * n))) := by
  induction n generalizing bytes with
  | zero => exact ⟨fun h => absurd h (by omega), fun _ => ⟨[], rfl⟩⟩
  | succ n ih =>
    unfold takeSections
    rw [takeFields_eq, show ([3, 3, 3, 3, 3] : List Nat).sum = 15 from rfl]
    obtain ⟨i1, i2⟩ := ih (bytes.drop 15)
    rw [List.length_drop] at i1 i2
    constructor
    · intro h
      by_cases h15 : 15 ≤ bytes.length
      · rw [if_pos h15]
        simp only [fieldValues]
        rw [i1 (by omega)]
      · rw [if_neg h15]
    · intro h
      rw [if_pos (by omega)]
      obtain ⟨list, hl⟩ := i2 (by omega)
      simp only [fieldValues]
      rw [hl, List.drop_drop]
      exact ⟨_, by rw [show 15 + 15 * n = 15 * (n + 1) by omega]⟩

/-! ## The judgement of a record -/

/-- R167 steps 3 and 4: what a record is judged to be, from whether it has its length and which of its named-value bytes
stay below their numbers of codes. -/
def judgedBy (r : Request) (fits : Prop) (codes : List (Nat × Nat)) : Prop :=
  (¬fits → r = .rejected .badRequest) ∧
    (fits → (∃ p ∈ codes, p.2 ≤ p.1) → r = .rejected .badValue) ∧
    (fits → (∀ p ∈ codes, p.1 < p.2) → ∀ e, r ≠ .rejected e)

/-- A record that is too short or too long. -/
theorem judgedBy.short {fits : Prop} {codes : List (Nat × Nat)} (h : ¬fits) :
    judgedBy (.rejected .badRequest) fits codes :=
  ⟨fun _ => rfl, fun hf => absurd hf h, fun hf => absurd hf h⟩

/-- A record with an undefined code. -/
theorem judgedBy.undefined {fits : Prop} {codes : List (Nat × Nat)} (p : Nat × Nat) (h : fits) (hp : p ∈ codes)
    (hc : p.2 ≤ p.1) : judgedBy (.rejected .badValue) fits codes :=
  ⟨fun hf => absurd h hf, fun _ _ => rfl, fun _ ha => absurd (ha p hp) (by omega)⟩

/-- A record that passes both steps. -/
theorem judgedBy.passes {r : Request} {fits : Prop} {codes : List (Nat × Nat)} (h : fits)
    (hc : ∀ p ∈ codes, p.1 < p.2) (hr : ∀ e, r ≠ .rejected e) : judgedBy r fits codes :=
  ⟨fun hf => absurd h hf, fun _ ⟨p, hp, hle⟩ => absurd (hc p hp) (by omega), fun _ _ => hr⟩

variable (index : Nat) (args : List Byte)

/-- R22. -/
theorem readStream_judged :
    judgedBy (readStream index args) (args.length = 6)
      [((args.getD 4 0).toNat, 2), ((args.getD 5 0).toNat, 2)] := by
  unfold readStream
  rw [readFields_eq, show ([2, 1, 1, 1, 1] : List Nat).sum = 6 from rfl]
  by_cases hl : args.length = 6
  · rw [if_pos hl]
    simp only [fieldValues, List.drop_drop, numberOf_take_one, Nat.reduceAdd]
    generalize (args.getD 4 0).toNat = order
    generalize (args.getD 5 0).toNat = timing
    have ho := ByteOrder.ofCode_eq_none order
    have ht := TimingMode.ofCode_eq_none timing
    cases h1 : ByteOrder.ofCode order with
    | none => exact .undefined _ hl (.head _) (ho.mp h1)
    | some o =>
      cases h2 : TimingMode.ofCode timing with
      | none => exact .undefined _ hl (.tail _ (.head _)) (ht.mp h2)
      | some m =>
        rw [h1] at ho
        rw [h2] at ht
        exact .passes hl (by simp at ho ht ⊢; omega) (by simp)
  · rw [if_neg hl]
    exact .short hl

/-- R141. -/
theorem readProfile_judged :
    judgedBy (readProfile index args) (args.length = 18) [((args.getD 6 0).toNat, 5)] := by
  unfold readProfile
  rw [readFields_eq, show ([2, 2, 2, 1, 4, 4, 2, 1] : List Nat).sum = 18 from rfl]
  by_cases hl : args.length = 18
  · rw [if_pos hl]
    simp only [fieldValues, List.drop_drop, numberOf_take_one, Nat.reduceAdd]
    generalize (args.getD 6 0).toNat = code
    have hc := AlarmAction.ofCode_eq_none code
    cases h : AlarmAction.ofCode code with
    | none => exact .undefined _ hl (.head _) (hc.mp h)
    | some m => exact .passes hl (by rw [h] at hc; simpa using hc) (by simp)
  · rw [if_neg hl]
    exact .short hl

/-- R169. -/
theorem readScreen_judged :
    judgedBy (readScreen index args) (args.length = 20) [((args.getD 7 0).toNat, 2)] := by
  unfold readScreen
  rw [readFields_eq, show ([1, 2, 4, 1, 2, 1, 1, 4, 2, 1, 1] : List Nat).sum = 20 from rfl]
  by_cases hl : args.length = 20
  · rw [if_pos hl]
    simp only [fieldValues, List.drop_drop, numberOf_take_one, Nat.reduceAdd]
    generalize (args.getD 7 0).toNat = code
    have hc := ClockMode.ofCode_eq_none code
    cases h : ClockMode.ofCode code with
    | none => exact .undefined _ hl (.head _) (hc.mp h)
    | some m => exact .passes hl (by rw [h] at hc; simpa using hc) (by simp)
  · rw [if_neg hl]
    exact .short hl

/-- R89. -/
theorem readSelectBank_judged :
    judgedBy (readSelectBank index args) (args.length = 1) [((args.getD 0 0).toNat, 2)] := by
  unfold readSelectBank
  rw [readFields_eq, show ([1] : List Nat).sum = 1 from rfl]
  by_cases hl : args.length = 1
  · rw [if_pos hl]
    simp only [fieldValues, numberOf_first]
    generalize (args.getD 0 0).toNat = code
    have hc := Bank.ofCode_eq_none code
    cases h : Bank.ofCode code with
    | none => exact .undefined _ hl (.head _) (hc.mp h)
    | some m => exact .passes hl (by rw [h] at hc; simpa using hc) (by simp)
  · rw [if_neg hl]
    exact .short hl

/-- R109. -/
theorem readPattern_judged :
    judgedBy (readPattern index args) (args.length = 5) [((args.getD 0 0).toNat, 3)] := by
  unfold readPattern
  rw [readFields_eq, show ([1, 2, 2] : List Nat).sum = 5 from rfl]
  by_cases hl : args.length = 5
  · rw [if_pos hl]
    simp only [fieldValues, numberOf_first]
    generalize (args.getD 0 0).toNat = code
    have hc := PatternKind.ofCode_eq_none code
    cases h : PatternKind.ofCode code with
    | none => exact .undefined _ hl (.head _) (hc.mp h)
    | some m => exact .passes hl (by rw [h] at hc; simpa using hc) (by simp)
  · rw [if_neg hl]
    exact .short hl

/-- R112. -/
theorem readStartCheck_judged :
    judgedBy (readStartCheck index args) (args.length = 11) [((args.getD 0 0).toNat, 3)] := by
  unfold readStartCheck
  rw [readFields_eq, show ([1, 2, 2, 2, 2, 2] : List Nat).sum = 11 from rfl]
  by_cases hl : args.length = 11
  · rw [if_pos hl]
    simp only [fieldValues, numberOf_first]
    generalize (args.getD 0 0).toNat = code
    have hc := PatternKind.ofCode_eq_none code
    cases h : PatternKind.ofCode code with
    | none => exact .undefined _ hl (.head _) (hc.mp h)
    | some m => exact .passes hl (by rw [h] at hc; simpa using hc) (by simp)
  · rw [if_neg hl]
    exact .short hl

/-- R173. -/
theorem readReadTally_judged :
    judgedBy (readReadTally index args) (args.length = 2) [((args.getD 0 0).toNat, 5)] := by
  unfold readReadTally
  rw [readFields_eq, show ([1, 1] : List Nat).sum = 2 from rfl]
  by_cases hl : args.length = 2
  · rw [if_pos hl]
    simp only [fieldValues, numberOf_first]
    generalize (args.getD 0 0).toNat = code
    have hc := TallyScope.ofCode_eq_none code
    cases h : TallyScope.ofCode code with
    | none => exact .undefined _ hl (.head _) (hc.mp h)
    | some m => exact .passes hl (by rw [h] at hc; simpa using hc) (by simp)
  · rw [if_neg hl]
    exact .short hl

/-- R107. -/
theorem readWave_judged : judgedBy (readWave index args) (args.length = 96) [] := by
  unfold readWave
  rw [readFields_eq, show (List.replicate 32 3 : List Nat).sum = 96 by simp]
  by_cases hl : args.length = 96
  · rw [if_pos hl]
    exact .passes hl (by simp) (by simp [fieldValues])
  · rw [if_neg hl]
    exact .short hl

/-- R93. -/
theorem readFeed_judged : judgedBy (readFeed index args) (args.length = 1) [] := by
  unfold readFeed
  rw [readFields_eq, show ([1] : List Nat).sum = 1 from rfl]
  by_cases hl : args.length = 1
  · rw [if_pos hl]
    exact .passes hl (by simp) (by simp [fieldValues])
  · rw [if_neg hl]
    exact .short hl

/-- R96. -/
theorem readSetFader_judged : judgedBy (readSetFader index args) (args.length = 1) [] := by
  unfold readSetFader
  rw [readFields_eq, show ([1] : List Nat).sum = 1 from rfl]
  by_cases hl : args.length = 1
  · rw [if_pos hl]
    exact .passes hl (by simp) (by simp [fieldValues])
  · rw [if_neg hl]
    exact .short hl

/-- R97. -/
theorem readFade_judged : judgedBy (readFade index args) (args.length = 3) [] := by
  unfold readFade
  rw [readFields_eq, show ([1, 2] : List Nat).sum = 3 from rfl]
  by_cases hl : args.length = 3
  · rw [if_pos hl]
    exact .passes hl (by simp) (by simp [fieldValues])
  · rw [if_neg hl]
    exact .short hl

/-- R173. -/
theorem readReadMeter_judged : judgedBy (readReadMeter index args) (args.length = 1) [] := by
  unfold readReadMeter
  rw [readFields_eq, show ([1] : List Nat).sum = 1 from rfl]
  by_cases hl : args.length = 1
  · rw [if_pos hl]
    exact .passes hl (by simp) (by simp [fieldValues])
  · rw [if_neg hl]
    exact .short hl

/-- A request whose record is empty. -/
theorem readEmpty_judged (r : Request) (hr : ∀ e, r ≠ .rejected e) : judgedBy (readEmpty r args) (args.length = 0) [] := by
  cases args with
  | nil => exact .passes rfl (by simp) hr
  | cons b rest => exact .short (by simp)

/-- R70: the presence byte decides the length. -/
theorem readSetPreset_judged :
    judgedBy (readSetPreset index args) (args.length = if args.getD 0 0 = 0 then 1 else 2) [] := by
  match args with
  | [] => exact .short (by simp)
  | [b] =>
    by_cases hb : b = 0#8
    · subst hb
      exact .passes rfl (by simp) (by simp [readSetPreset, flagOf])
    · have hf : flagOf b.toNat = true := by simpa [flagOf, BitVec.toNat_eq] using hb
      simp only [readSetPreset, hf, if_true]
      exact .short (by simp [hb])
  | [b, c] =>
    by_cases hb : b = 0#8
    · subst hb
      exact .short (by simp)
    · have hf : flagOf b.toNat = true := by simpa [flagOf, BitVec.toNat_eq] using hb
      simp only [readSetPreset, hf, if_true]
      exact .passes (by simp [hb]) (by simp) (by simp)
  | b :: c :: d :: rest => exact .short (by simp only [List.length_cons]; split <;> omega)

/-- R85: the count byte decides the length. -/
theorem readEqbank_judged :
    judgedBy (readEqbank index args) (args.length = 1 + 15 * (args.getD 0 0).toNat) [] := by
  unfold readEqbank
  rw [takeFields_eq, show ([1] : List Nat).sum = 1 from rfl]
  by_cases h1 : 1 ≤ args.length
  · rw [if_pos h1]
    simp only [fieldValues, numberOf_first]
    obtain ⟨i1, i2⟩ := takeSections_eq (args.getD 0 0).toNat (args.drop 1)
    rw [List.length_drop] at i1 i2
    by_cases hlt : args.length - 1 < 15 * (args.getD 0 0).toNat
    · rw [i1 hlt]
      exact .short (by omega)
    · obtain ⟨list, hs⟩ := i2 (by omega)
      rw [hs, List.drop_drop]
      cases hd : args.drop (1 + 15 * (args.getD 0 0).toNat) with
      | nil =>
        have := List.drop_eq_nil_iff.mp hd
        exact .passes (by omega) (by simp) (by simp)
      | cons b rest =>
        refine .short fun he => ?_
        rw [List.drop_of_length_le (by omega)] at hd
        exact absurd hd (by simp)
  · rw [if_neg h1]
    exact .short (by omega)

/-- R67: the presence bytes of the fill entries decide the length. -/
theorem readPreset_judged :
    judgedBy (readPreset index args) (args.length = 261 + fillsLength 8 (args.drop 261))
      ((fillModes 8 (args.drop 261)).map fun mode => (mode, 3)) := by
  unfold readPreset
  rw [takeFields_eq, show ([1, 1, 1, 2] : List Nat).sum = 5 from rfl]
  by_cases h5 : 5 ≤ args.length
  · rw [if_pos h5]
    simp only [fieldValues]
    rw [takeFields_eq, show (List.replicate 128 2).sum = 256 by simp, List.length_drop]
    by_cases h256 : 256 ≤ args.length - 5
    · rw [if_pos h256]
      simp only [List.drop_drop, Nat.reduceAdd]
      obtain ⟨i1, i2⟩ := takeFills_eq 8 (args.drop 261)
      rw [List.length_drop] at i1 i2
      by_cases hlt : args.length - 261 < fillsLength 8 (args.drop 261)
      · rw [i1 hlt]
        exact .short (by omega)
      · obtain ⟨raw, hr, hm⟩ := i2 (by omega)
        rw [hr, List.drop_drop]
        cases hd : args.drop (261 + fillsLength 8 (args.drop 261)) with
        | nil =>
          have hl := List.drop_eq_nil_iff.mp hd
          have hn := nameFills_eq_none raw
          rw [hm] at hn
          dsimp only
          cases hf : nameFills raw with
          | none =>
            obtain ⟨mode, hmem, hge⟩ := hn.mp hf
            exact .undefined (mode, 3) (by omega) (List.mem_map.mpr ⟨mode, hmem, rfl⟩) hge
          | some fills =>
            refine .passes (by omega) (fun p hp => ?_) (by simp)
            obtain ⟨mode, hmem, rfl⟩ := List.mem_map.mp hp
            refine Nat.lt_of_not_le fun hge => ?_
            rw [hn.mpr ⟨mode, hmem, hge⟩] at hf
            exact absurd hf (by simp)
        | cons b rest =>
          refine .short fun he => ?_
          rw [List.drop_of_length_le (by omega)] at hd
          exact absurd hd (by simp)
    · rw [if_neg h256]
      exact .short (by omega)
  · rw [if_neg h5]
    exact .short (by omega)

/-- R151. -/
theorem readCue_judged :
    judgedBy (readCue index args) (args.length = 39)
      [((args.getD 2 0).toNat, 4), ((args.getD 12 0).toNat, 11), ((args.getD 18 0).toNat, 2),
        ((args.getD 19 0).toNat, 3), ((args.getD 24 0).toNat, 3)] := by
  unfold readCue
  rw [readFields_eq, show ([1, 1, 1, 4, 2, 1, 2, 1, 1, 1, 2, 1, 1, 1, 2, 2, 1, 2, 2, 2, 2, 2, 2, 1, 1] : List Nat).sum
    = 39 from rfl]
  by_cases hl : args.length = 39
  · rw [if_pos hl]
    simp only [fieldValues, List.drop_drop, numberOf_take_one, Nat.reduceAdd]
    have h1 := Trigger.ofCode_eq_none (args.getD 2 0).toNat
    have h2 := CueAction.ofCode_eq_none (args.getD 12 0).toNat
    have h3 := Bank.ofCode_eq_none (args.getD 18 0).toNat
    have h4 := PatternKind.ofCode_eq_none (args.getD 19 0).toNat
    have h5 := PatternKind.ofCode_eq_none (args.getD 24 0).toNat
    generalize (args.getD 2 0).toNat = c1 at *
    generalize (args.getD 12 0).toNat = c2 at *
    generalize (args.getD 18 0).toNat = c3 at *
    generalize (args.getD 19 0).toNat = c4 at *
    generalize (args.getD 24 0).toNat = c5 at *
    cases e1 : Trigger.ofCode c1 with
    | none => exact .undefined (c1, 4) hl (by simp) (h1.mp e1)
    | some a1 =>
    cases e2 : CueAction.ofCode c2 with
    | none => exact .undefined (c2, 11) hl (by simp) (h2.mp e2)
    | some a2 =>
    cases e3 : Bank.ofCode c3 with
    | none => exact .undefined (c3, 2) hl (by simp) (h3.mp e3)
    | some a3 =>
    cases e4 : PatternKind.ofCode c4 with
    | none => exact .undefined (c4, 3) hl (by simp) (h4.mp e4)
    | some a4 =>
    cases e5 : PatternKind.ofCode c5 with
    | none => exact .undefined (c5, 3) hl (by simp) (h5.mp e5)
    | some a5 =>
    rw [e1] at h1
    rw [e2] at h2
    rw [e3] at h3
    rw [e4] at h4
    rw [e5] at h5
    exact .passes hl (by simp at h1 h2 h3 h4 h5 ⊢; omega) (by simp)
  · rw [if_neg hl]
    exact .short hl

/-- R167 steps 2 to 4: a WRITE to a defined table. -/
theorem judgeEnvelope_write (table : Nat) (h1 : 1 ≤ table) (h8 : table ≤ 8) :
    judgedBy (judgeEnvelope 2 table index args) (args.length = writeLength table args) (writeCodes table args) := by
  obtain rfl | rfl | rfl | rfl | rfl | rfl | rfl | rfl : table = 1 ∨ table = 2 ∨ table = 3 ∨ table = 4 ∨ table = 5 ∨
      table = 6 ∨ table = 7 ∨ table = 8 := by omega
  · exact readStream_judged index args
  · exact readPreset_judged index args
  · exact readEqbank_judged index args
  · exact readCue_judged index args
  · exact readProfile_judged index args
  · exact readWave_judged index args
  · exact readScreen_judged index args
  · exact readFeed_judged index args

/-- R167 steps 1 to 4: a command with the table field 0. -/
theorem judgeEnvelope_command (kind : Nat) (h16 : 16 ≤ kind) (h38 : kind ≤ 38) :
    judgedBy (judgeEnvelope kind 0 index args) (args.length = commandLength kind args) (commandCodes kind args) := by
  obtain ⟨n, rfl⟩ : ∃ n, kind = n + 16 := ⟨kind - 16, by omega⟩
  have hj : judgeEnvelope (n + 16) 0 index args = readCommand (n + 16) index args := by
    unfold judgeEnvelope isCommandKind
    simp [show n + 16 ≤ 38 from h38]
  rw [hj]
  have hn : n < 23 := by omega
  match n, hn with
  | 0, _ | 1, _ | 2, _ | 7, _ | 8, _ | 9, _ | 10, _ | 11, _ | 12, _ | 13, _ | 16, _ | 17, _ | 18, _ | 21, _ | 22, _ =>
    exact readEmpty_judged args _ (by simp)
  | 3, _ => exact readSetFader_judged index args
  | 4, _ => exact readFade_judged index args
  | 5, _ => exact readSetPreset_judged index args
  | 6, _ => exact readSelectBank_judged index args
  | 14, _ => exact readPattern_judged index args
  | 15, _ => exact readStartCheck_judged index args
  | 19, _ => exact readReadTally_judged index args
  | 20, _ => exact readReadMeter_judged index args
  | k + 23, h => omega

/-- R167 step 3: a READ. -/
theorem judgeEnvelope_read (table : Nat) (h1 : 1 ≤ table) (h8 : table ≤ 8) :
    judgedBy (judgeEnvelope 1 table index args) (args.length = 0) [] := by
  obtain rfl | rfl | rfl | rfl | rfl | rfl | rfl | rfl : table = 1 ∨ table = 2 ∨ table = 3 ∨ table = 4 ∨ table = 5 ∨
      table = 6 ∨ table = 7 ∨ table = 8 := by omega
  all_goals exact readEmpty_judged args _ (by simp)

/-- R167: a rejected request is answered with its result, an empty record and no change. -/
theorem exec_undefinedRequest_rejected (tag : Byte) (kind table : Nat) (e : Result) (s : State) (h : s.free)
    (hr : judgeEnvelope kind table index args = .rejected e) :
    exec (.undefinedRequest tag kind table index args) s = s.answers tag e [] := by
  rw [exec_request _ tag _ s rfl, hr, State.submit_of_free s tag _ h]
  rfl

/-! ## Flag and presence bytes -/

/-- R167: a flag byte other than 0 reads as set. -/
theorem flagOf_plainFlag (b : Byte) : flagOf (plainFlag b).toNat = flagOf b.toNat := by
  unfold plainFlag
  split
  · next h => rw [h]
  · next h =>
    have : flagOf b.toNat = true := by simpa [flagOf, BitVec.toNat_eq] using h
    rw [this]; rfl

/-- The fields of a record in two parts. -/
theorem fieldValues_append (ws vs : List Nat) (a b : List Byte) (h : a.length = ws.sum) :
    fieldValues (ws ++ vs) (a ++ b) = fieldValues ws a ++ fieldValues vs b := by
  induction ws generalizing a with
  | nil =>
    have : a = [] := List.length_eq_zero_iff.mp h
    rw [this]; rfl
  | cons w ws ih =>
    have hs : (w :: ws).sum = w + ws.sum := List.sum_cons
    simp only [List.cons_append, fieldValues]
    rw [List.take_append_of_le_length (by omega), List.drop_append_of_le_length (by omega),
      ih _ (by rw [List.length_drop]; omega)]

/-- R167: the used flag of a preset record. -/
theorem readPreset_flag (u : Byte) (rest : List Byte) :
    readPreset index (u :: rest) = readPreset index (plainFlag u :: rest) := by
  have h : ∀ v : Byte, fieldValues [1, 1, 1, 2] (v :: rest) = v.toNat :: fieldValues [1, 1, 2] rest := fun v => by
    simp [numberOf, fieldValues]
  unfold readPreset
  rw [takeFields_eq, takeFields_eq, h, h, List.length_cons, List.length_cons]
  by_cases h5 : ([1, 1, 1, 2] : List Nat).sum ≤ rest.length + 1
  · rw [if_pos h5, if_pos h5]
    simp only [fieldValues, flagOf_plainFlag]
    rfl
  · rw [if_neg h5, if_neg h5]

/-- R167: the three flags of a cue record. -/
theorem readCue_flags (u v w : Byte) (body : List Byte) (hb : body.length = 36) :
    readCue index (u :: (body ++ [v, w])) =
      readCue index (plainFlag u :: (body ++ [plainFlag v, plainFlag w])) := by
  have key : ∀ u v w : Byte, readFields
      [1, 1, 1, 4, 2, 1, 2, 1, 1, 1, 2, 1, 1, 1, 2, 2, 1, 2, 2, 2, 2, 2, 2, 1, 1] (u :: (body ++ [v, w])) =
      some (u.toNat :: (fieldValues [1, 1, 4, 2, 1, 2, 1, 1, 1, 2, 1, 1, 1, 2, 2, 1, 2, 2, 2, 2, 2, 2] body ++
        [v.toNat, w.toNat])) := by
    intro u v w
    have h := fieldValues_append [1, 1, 4, 2, 1, 2, 1, 1, 1, 2, 1, 1, 1, 2, 2, 1, 2, 2, 2, 2, 2, 2] [1, 1] body [v, w]
      (by rw [hb]; rfl)
    have h1 : fieldValues [1, 1] [v, w] = [v.toNat, w.toNat] := by simp [fieldValues, numberOf]
    rw [h1] at h
    rw [readFields_eq, if_pos (by simp [hb]), ← h]
    simp [fieldValues, numberOf]
  unfold readCue
  rw [key, key]
  simp only [fieldValues, List.cons_append, List.nil_append, flagOf_plainFlag]

/-- A field before a changed byte. -/
theorem take_drop_set (l : List Byte) (w k pos : Nat) (b : Byte) (h : w + k ≤ pos) :
    ((l.set pos b).drop w).take k = (l.drop w).take k := by
  rw [List.drop_set, if_neg (by omega), List.take_set_of_le (by omega)]

/-- The bytes from a field on, when the changed byte is among them. -/
theorem drop_set_le (l : List Byte) (w pos : Nat) (b : Byte) (h : w ≤ pos) :
    (l.set pos b).drop w = (l.drop w).set (pos - w) b := by
  rw [List.drop_set, if_neg (by omega)]

/-- The fields before a changed byte. -/
theorem fieldValues_set (ws : List Nat) (l : List Byte) (pos : Nat) (h : ws.sum ≤ pos) :
    fieldValues ws (l.set pos 1) = fieldValues ws l := by
  induction ws generalizing l pos with
  | nil => rfl
  | cons w ws ih =>
    have hs : (w :: ws).sum = w + ws.sum := List.sum_cons
    simp only [fieldValues]
    rw [List.take_set_of_le (by omega), drop_set_le _ w _ _ (by omega), ih _ _ (by omega)]

/-- R167: a presence byte other than 0 reads as present. -/
theorem takeFills_set (n k : Nat) (bytes : List Byte) (pos : Nat) (hk : k < n) (hp : pos = 4 + fillsLength k bytes)
    (h : bytes.getD pos 0 ≠ 0) :
    takeFills n (bytes.set pos 1) = takeFills n bytes := by
  induction n generalizing k bytes pos with
  | zero => omega
  | succ n ih =>
    have hlt : pos < bytes.length := by
      refine Nat.lt_of_not_le fun hc => h ?_
      simp [hc]
    have h4 : 4 ≤ pos := by omega
    unfold takeFills
    rw [takeFill_of_length _ (by rw [List.length_set]; omega), takeFill_of_length _ (by omega)]
    rw [List.take_set_of_le (by omega), take_drop_set _ 1 1 _ _ (by omega), take_drop_set _ 2 2 _ _ (by omega)]
    dsimp only
    cases k with
    | zero =>
      have hp4 : pos = 4 := hp
      subst hp4
      have hf : flagOf (bytes.getD 4 0).toNat = true := by simpa [flagOf, BitVec.toNat_eq] using h
      have hs : (bytes.set 4 1).getD 4 0 = 1 := by simp [hlt]
      rw [hf, hs, List.drop_set_of_lt (by omega)]
      rfl
    | succ k =>
      have hpos : pos = fillLength bytes + (4 + fillsLength k (bytes.drop (fillLength bytes))) := by
        rw [hp, fillsLength]; omega
      have h5 : 5 ≤ fillLength bytes := by unfold fillLength; split <;> omega
      have hs : (bytes.set pos 1).getD 4 0 = bytes.getD 4 0 := by simp [show pos ≠ 4 by omega]
      have hr := ih k (bytes.drop (fillLength bytes)) (pos - fillLength bytes) (by omega) (by omega)
        (by simpa [show fillLength bytes + (pos - fillLength bytes) = pos by omega] using h)
      rw [hs]
      by_cases hb : bytes.getD 4 0 = 0
      · have hl : fillLength bytes = 5 := if_pos hb
        rw [hl] at hr
        rw [hb, if_neg (by decide), if_neg (by decide), drop_set_le _ _ _ _ (by omega), hr]
      · have hl : fillLength bytes = 8 := if_neg hb
        have hf : flagOf (bytes.getD 4 0).toNat = true := by simpa [flagOf, BitVec.toNat_eq] using hb
        rw [hl] at hr
        rw [hf, if_pos rfl, if_pos rfl, takeFields_eq, takeFields_eq, show ([1, 2] : List Nat).sum = 3 from rfl,
          List.length_drop, List.length_drop, List.length_set]
        rw [drop_set_le _ 5 _ _ (by omega)]
        by_cases h8 : 3 ≤ bytes.length - 5
        · rw [if_pos h8, if_pos h8]
          simp only [fieldValues]
          rw [drop_set_le _ 3 _ _ (by omega), List.take_set_of_le (by omega), take_drop_set _ 1 2 _ _ (by omega),
            List.drop_drop, Nat.sub_sub]
          simp only [Nat.reduceAdd]
          rw [hr]
        · rw [if_neg h8, if_neg h8]

/-- R167: the presence bytes of a preset record. -/
theorem readPreset_presence (i : Fin 8) (pos : Nat)
    (hp : pos = 265 + fillsLength i (args.drop 261)) (h : args.getD pos 0 ≠ 0) :
    readPreset index (args.set pos 1) = readPreset index args := by
  have hlt : pos < args.length := by
    refine Nat.lt_of_not_le fun hc => h ?_
    simp [hc]
  have h2 := takeFills_set 8 i (args.drop 261) (pos - 261) i.isLt (by omega)
    (by simpa [show 261 + (pos - 261) = pos by omega] using h)
  unfold readPreset
  rw [takeFields_eq, takeFields_eq, show ([1, 1, 1, 2] : List Nat).sum = 5 from rfl, List.length_set,
    if_pos (by omega), if_pos (by omega)]
  rw [fieldValues_set _ _ _ (by simp; omega)]
  simp only [fieldValues]
  rw [takeFields_eq, takeFields_eq, show (List.replicate 128 2).sum = 256 by simp, List.length_drop, List.length_drop,
    List.length_set, if_pos (by omega), if_pos (by omega)]
  rw [drop_set_le _ 5 _ _ (by omega), drop_set_le _ 256 _ _ (by omega), List.drop_drop, Nat.sub_sub]
  dsimp only
  simp only [Nat.reduceAdd]
  rw [h2]
  rw [fieldValues_set _ _ _ (by simp; omega)]

end Sys2Proof.Machine
end

