-- ==== Sys2Proof/Tests/Slice0.lean ====
section
/-! SUPPORT. The model's own tests: ill-formed commands, the manual's worked examples, and a witness that the
hypotheses of each statement can be met, clause by clause at the boundary values. -/

namespace Sys2Proof.Tests

set_option Elab.async false

open Sys2Proof Sys2Proof.Machine

/-! ## States the tests are about -/

/-- A stream entry on a screen. -/
def entryOf (number : Nat) (screen : ScreenNo) (st : EntryState) : StreamEntry :=
  { StreamEntry.powerOn with number := number, screen := screen, state := st }

/-- A block of one silent channel. -/
def blockOf (pt : ScreenTime) (e : EntryNo) : Block :=
  { pt := pt, present := 1, channels := 1, samples := [silence], entry := e }

/-- Reset with entry 0 ACTIVE, entry 1 PRIMED and entry 2 INACTIVE on screen 0, and one block in each queue. -/
def streams : State :=
  { State.reset with
    entries := ((State.reset.entries.set 0 (entryOf 1 0 .active)).set 1 (entryOf 2 0 .primed)).set 2
      (entryOf 4095 0 .inactive)
    freeSlots := 190
    screens := State.reset.screens.set 0
      { Screen.powerOn with playout := { Playout.powerOn with program := [blockOf 48 0], standby := [blockOf 96 1] } } }

/-- A preset of one channel and one feed. -/
def onePreset : Preset := { Preset.powerOn with used := true, monitored := 1, feedSet := 1 }

/-- A check running on feed 0, at the block before its closing block when `count` is 8. -/
def runningCheck (count : Option Nat) : CheckRecord :=
  { running := true, spec := { kind := .noise, level := 0, dwell := 8, passCount := 1, returnFloor := 1, mask := 1 },
    feeds := [0], count := count }

/-- A cue of screen 0. -/
def cueOf (trigger : Trigger) (st : CueState) : Cue :=
  { Cue.powerOn with spec := { CueSpec.powerOn with used := true, trigger := trigger, action := .mute, delay := 2 }, state := st }

/-- Screen 0 of `busy`: REFERENCED and LOCKED with slip, a fade, an OVERLOAD record in ACTION, bank B in use, two
blocks awaiting on each lane, and a marker. -/
def busyScreen : Screen :=
  { Screen.powerOn with
    settings := { ScreenSettings.powerOn with clockMode := .referenced, meterInterval := 1 }
    playout := { Playout.powerOn with program := [blockOf 48 0], standby := [blockOf 96 1] }
    clock := { Clock.powerOn with state := .locked, slip := -24, inWindow := 3, outWindow := 2, sinceReference := 999 }
    render := { selection := some 0, latched := some { index := 0, preset := onePreset } }
    level :=
      { fader := 100, fade := some { start := 100, target := 40, duration := 4, count := 3 }, muted := false, requested := .b }
    feeds := Vector.replicate 16 { Feed.powerOn with active := .b, trim := 24 }
    lanes := Vector.replicate 2
      { Lane.powerOn with
        nextCount := 2
        awaiting := [{ count := 0, slot := none }, { count := 1, slot := none }]
        transmit := [{ count := 1, samples := Vector.replicate 8 silence }] }
    meterCount := 99
    records := Screen.powerOn.records.set 10
      { AlarmRecord.powerOn with
        state := .action, recorded := some { action := .reduce, amount := 12 }, raised := some 0, occurrences := 1 }
    markers := [{ pt := 24, code := 7 }] }

/-- Screen 1 of `busy`: a check one block before its closing block. -/
def checkingScreen : Screen :=
  { Screen.powerOn with
    playout := { Playout.powerOn with mode := .check }
    signal := { Signal.powerOn with check := runningCheck (some 8) } }

/-- A state with work in every block: the streams, the two screens, a FIRED cue 0 with an ARMED child 1, a timed
cue 2 that is due, a marker cue 3 that is due, and a timed cue 4 whose time has passed. -/
def busy : State :=
  { streams with
    screens := (streams.screens.set 0 busyScreen).set 1 checkingScreen
    presets := streams.presets.set 0 onePreset
    cues := ((((streams.cues.set 0 (cueOf .manual .fired)).set 1
      { cueOf .after .armed with countdown := some 1 }).set 2 (cueOf .atTime .pending)).set 3
      { cueOf .onMarker .pending with
        spec := { (cueOf .onMarker .pending).spec with markerCode := 7 } }).set 4
      { cueOf .atTime .pending with
        spec := { (cueOf .atTime .pending).spec with time := BitVec.ofInt 32 (-48) } } }

/-- A notice of screen 0. -/
def someNotice : Notice := { kind := .clock, screen := 0, subject := 0, state := 0, valueA := 0, valueB := 0, st := 0 }

/-- A reply. -/
def someReply : Reply := { tag := 1, result := .ok, record := [] }

/-- Reset with `n` notices in the Report Queue, at least one. -/
def reporting (n : Nat) : State :=
  { State.reset with reports := List.replicate n (.notice someNotice), sendingSeq := some 0, upSeq := 1 }

/-- A full Report Queue with a reply waiting behind it and `n` requests behind the reply. -/
def waiting (n : Nat) : State :=
  { reporting 32 with replySlot := some someReply, requests := List.replicate n (2, .mute 0) }

/-- Screen 0 of a state changed. -/
def onScreen (s : State) (f : Screen → Screen) : State := s.modScreen 0 f

/-- A record of zeros. -/
def zeroBytes (n : Nat) : List Byte := List.replicate n 0

/-- `streams` with a program block at another PT. -/
def resyncing (pt : ScreenTime) : State :=
  onScreen streams fun x => { x with playout := { x.playout with program := [blockOf pt 0] } }

/-- `busy` before a boundary that deselects the preset of screen 0, with a REF_LOST record one qualifying block short of
WARNING. -/
def alarming : State :=
  onScreen busy fun x =>
    { x with
      render := { x.render with selection := none }
      records := x.records.set 9 { AlarmRecord.powerOn with run := 7 } }

/-- An alarm record in ACTION with an action recorded. -/
def acting (a : AlarmAction) : AlarmRecord :=
  { AlarmRecord.powerOn with state := .action, recorded := some { action := a, amount := 0 }, raised := some 0 }

/-- A screen whose AMP_FAULT record of feed 0 mutes it. -/
def mutedFeed : Screen := { Screen.powerOn with records := Screen.powerOn.records.set 42 (acting .muteFeed) }

/-- A screen whose CH_LOSS record of channel 7 fills it. -/
def filledScreen : Screen := { Screen.powerOn with records := Screen.powerOn.records.set 7 (acting .fill) }

/-- A REF_LOST record that holds the timed cues. -/
def holding : AlarmRecord := acting .holdCues

/-- Settings latched in SHOW with no pattern. -/
def showing : Latched := Screen.powerOn.latchSettings

/-- `busy` with a FIRED child 6 of cue 0 and its ARMED child 7, and timed cues: 8 overdue with CATCH_UP, 9 overdue with
go requested, 10 not yet due. -/
def cueing : State :=
  { busy with
    cues := ((((busy.cues.set 6 (cueOf .after .fired)).set 7
      { cueOf .after .armed with
        spec := { (cueOf .after .armed).spec with parent := 6 }, countdown := some 1 }).set 8
      { cueOf .atTime .pending with
        spec := { (cueOf .atTime .pending).spec with time := BitVec.ofInt 32 (-48), catchUp := true } }).set 9
      { cueOf .atTime .pending with
        spec := { (cueOf .atTime .pending).spec with time := BitVec.ofInt 32 (-48) }, go := true }).set 10
      { cueOf .atTime .pending with spec := { (cueOf .atTime .pending).spec with time := 1 } } }

/-! ## Ill-formed commands (WellFormed) -/

/-- Every number that does not fit the bytes of its field is refused, and so is an index of more than two bytes. -/
theorem test_wf_stream :
    (Instr.writeStream 0 65535 { number := 65535, screen := 255, channels := 255, order := .msbFirst, timing := .timed }).wf ∧
    ¬(Instr.writeStream 0 65536 { number := 0, screen := 0, channels := 0, order := .msbFirst, timing := .timed }).wf ∧
    ¬(Instr.writeStream 0 0 { number := 65536, screen := 0, channels := 0, order := .msbFirst, timing := .timed }).wf ∧
    ¬(Instr.writeStream 0 0 { number := 0, screen := 256, channels := 0, order := .msbFirst, timing := .timed }).wf ∧
    ¬(Instr.writeStream 0 0 { number := 0, screen := 0, channels := 256, order := .msbFirst, timing := .timed }).wf := by
  decide

theorem test_wf_preset :
    (Instr.writePreset 0 0 onePreset).wf ∧ ¬(Instr.writePreset 0 65536 onePreset).wf ∧
    ¬(Instr.writePreset 0 0 { onePreset with channels := 256 }).wf ∧
    ¬(Instr.writePreset 0 0 { onePreset with matrix := Vector.replicate 16 (Vector.replicate 8 32768) }).wf ∧
    ¬(Instr.writePreset 0 0 { onePreset with fill := Vector.replicate 8 { mode := .fill, donorA := 256, coefA := 0, donorB := none } }).wf ∧
    ¬(Instr.writePreset 0 0 { onePreset with fill := Vector.replicate 8 { mode := .fill, donorA := 0, coefA := -32769, donorB := none } }).wf ∧
    ¬(Instr.writePreset 0 0 { onePreset with fill := Vector.replicate 8 { mode := .fill, donorA := 0, coefA := 0, donorB := some (256, 0) } }).wf ∧
    ¬(Instr.writePreset 0 0 { onePreset with fill := Vector.replicate 8 { mode := .fill, donorA := 0, coefA := 0, donorB := some (0, 32768) } }).wf := by
  decide +kernel

theorem test_wf_eqbank :
    (Instr.writeEqbank 0 0 [{ b0 := -8388608, b1 := 8388607, b2 := 0, a1 := 0, a2 := 0 }]).wf ∧
    ¬(Instr.writeEqbank 0 65536 []).wf ∧
    ¬(Instr.writeEqbank 0 0 (List.replicate 256 { b0 := 0, b1 := 0, b2 := 0, a1 := 0, a2 := 0 })).wf ∧
    ¬(Instr.writeEqbank 0 0 [{ b0 := 8388608, b1 := 0, b2 := 0, a1 := 0, a2 := 0 }]).wf ∧
    ¬(Instr.writeEqbank 0 0 [{ b0 := 0, b1 := 8388608, b2 := 0, a1 := 0, a2 := 0 }]).wf ∧
    ¬(Instr.writeEqbank 0 0 [{ b0 := 0, b1 := 0, b2 := -8388609, a1 := 0, a2 := 0 }]).wf ∧
    ¬(Instr.writeEqbank 0 0 [{ b0 := 0, b1 := 0, b2 := 0, a1 := 8388608, a2 := 0 }]).wf ∧
    ¬(Instr.writeEqbank 0 0 [{ b0 := 0, b1 := 0, b2 := 0, a1 := 0, a2 := 8388608 }]).wf := by
  decide +kernel

/-- A cue with one field changed. -/
def wfCue (f : CueSpec → CueSpec) : Bool := (Instr.writeCue 0 0 (f CueSpec.powerOn)).wf

theorem test_wf_cue :
    wfCue id ∧ ¬(Instr.writeCue 0 65536 CueSpec.powerOn).wf ∧ ¬wfCue (fun c => { c with screen := 256 }) ∧
    ¬wfCue (fun c => { c with markerCode := 65536 }) ∧ ¬wfCue (fun c => { c with parent := 256 }) ∧
    ¬wfCue (fun c => { c with delay := 65536 }) ∧ ¬wfCue (fun c => { c with preset := 256 }) ∧
    ¬wfCue (fun c => { c with fadeTarget := 256 }) ∧ ¬wfCue (fun c => { c with fadeDuration := 65536 }) ∧
    ¬wfCue (fun c => { c with entry := 256 }) ∧ ¬wfCue (fun c => { c with notifyCode := 65536 }) ∧
    ¬wfCue (fun c => { c with pattern := { c.pattern with level := 32768 } }) ∧
    ¬wfCue (fun c => { c with check := { c.check with level := -32769 } }) ∧
    ¬wfCue (fun c => { c with check := { c.check with dwell := 65536 } }) ∧
    ¬wfCue (fun c => { c with check := { c.check with passCount := 65536 } }) ∧
    ¬wfCue (fun c => { c with check := { c.check with returnFloor := 65536 } }) := by
  decide

/-- A profile with one field changed. -/
def wfProfile (f : Profile → Profile) : Bool := (Instr.writeProfile 0 0 (f Profile.powerOn)).wf

theorem test_wf_profile :
    wfProfile id ∧ ¬(Instr.writeProfile 0 65536 Profile.powerOn).wf ∧
    ¬wfProfile (fun p => { p with warnAfter := 65536 }) ∧ ¬wfProfile (fun p => { p with actAfter := 65536 }) ∧
    ¬wfProfile (fun p => { p with clearAfter := 65536 }) ∧ ¬wfProfile (fun p => { p with threshold := 4294967296 }) ∧
    ¬wfProfile (fun p => { p with probeLevel := 4294967296 }) ∧ ¬wfProfile (fun p => { p with returnFloor := 65536 }) ∧
    ¬wfProfile (fun p => { p with reduce := 256 }) := by
  decide

/-- Settings with one field changed. -/
def wfSettings (f : ScreenSettings → ScreenSettings) : Bool := (Instr.writeScreen 0 0 (f ScreenSettings.powerOn)).wf

theorem test_wf_screen :
    wfSettings id ∧ ¬(Instr.writeScreen 0 65536 ScreenSettings.powerOn).wf ∧
    ¬wfSettings (fun r => { r with phase := 256 }) ∧ ¬wfSettings (fun r => { r with lateLimit := 65536 }) ∧
    ¬wfSettings (fun r => { r with earlyLimit := 4294967296 }) ∧ ¬wfSettings (fun r => { r with window := 65536 }) ∧
    ¬wfSettings (fun r => { r with lockN := 256 }) ∧ ¬wfSettings (fun r => { r with unlockN := 256 }) ∧
    ¬wfSettings (fun r => { r with referenceOffset := 2147483648 }) ∧
    ¬wfSettings (fun r => { r with referenceTimeout := 65536 }) ∧ ¬wfSettings (fun r => { r with quota := 256 }) ∧
    ¬wfSettings (fun r => { r with meterInterval := 256 }) := by
  decide

theorem test_wf_tables_and_levels :
    ¬(Instr.read 0 .stream 65536).wf ∧ ¬(Instr.writeWave 0 65536 (Vector.replicate 32 0)).wf ∧
    ¬(Instr.writeWave 0 0 (Vector.replicate 32 8388608)).wf ∧ ¬(Instr.writeFeed 0 65536 0).wf ∧
    ¬(Instr.writeFeed 0 0 128).wf ∧ (Instr.writeFeed 0 0 (-128)).wf ∧ ¬(Instr.screenReset 0 65536).wf ∧
    ¬(Instr.mute 0 65536).wf ∧ ¬(Instr.unmute 0 65536).wf ∧ ¬(Instr.setFader 0 65536 0).wf ∧
    ¬(Instr.setFader 0 0 256).wf ∧ ¬(Instr.fade 0 65536 0 0).wf ∧ ¬(Instr.fade 0 0 256 0).wf ∧
    ¬(Instr.fade 0 0 0 65536).wf ∧ ¬(Instr.setPreset 0 65536 none).wf ∧ ¬(Instr.setPreset 0 0 (some 256)).wf ∧
    ¬(Instr.selectBank 0 65536 .a).wf := by
  decide +kernel

theorem test_wf_streams_and_cues :
    ¬(Instr.prime 0 65536).wf ∧ ¬(Instr.activate 0 65536).wf ∧ ¬(Instr.deactivate 0 65536).wf ∧
    ¬(Instr.go 0 65536).wf ∧ ¬(Instr.cancel 0 65536).wf ∧ ¬(Instr.enable 0 65536).wf ∧ ¬(Instr.ack 0 65536).wf ∧
    ¬(Instr.pattern 0 65536 { kind := .off, level := 0, mask := 0 }).wf ∧
    ¬(Instr.pattern 0 0 { kind := .off, level := 32768, mask := 0 }).wf ∧
    ¬(Instr.startCheck 0 65536 CheckRecord.powerOn.spec).wf ∧
    ¬(Instr.startCheck 0 0 { CheckRecord.powerOn.spec with level := 32768 }).wf ∧
    ¬(Instr.startCheck 0 0 { CheckRecord.powerOn.spec with dwell := 65536 }).wf ∧
    ¬(Instr.startCheck 0 0 { CheckRecord.powerOn.spec with passCount := 65536 }).wf ∧
    ¬(Instr.startCheck 0 0 { CheckRecord.powerOn.spec with returnFloor := 65536 }).wf ∧
    ¬(Instr.stopCheck 0 65536).wf := by
  decide

theorem test_wf_reads_and_envelope :
    ¬(Instr.readStatus 0 65536).wf ∧ ¬(Instr.listAlarms 0 65536).wf ∧ ¬(Instr.readTally 0 65536 .port false).wf ∧
    ¬(Instr.readMeter 0 65536 false).wf ∧ ¬(Instr.readCheck 0 65536).wf ∧ ¬(Instr.readSense 0 65536).wf ∧
    (Instr.undefinedRequest 0 1 0 0 []).wf ∧ ¬(Instr.undefinedRequest 0 1 1 0 []).wf ∧
    ¬(Instr.undefinedRequest 0 16 0 0 []).wf ∧ ¬(Instr.undefinedRequest 0 256 0 0 []).wf ∧
    ¬(Instr.undefinedRequest 0 0 256 0 []).wf ∧ ¬(Instr.undefinedRequest 0 0 0 65536 []).wf ∧
    ¬(Instr.undefinedRequest 0 0 0 0 (List.replicate 65531 0)).wf := by
  decide +kernel

/-! ## The manual's worked examples -/

/-- R2: the check of the nine bytes of "123456789". -/
theorem test_frameCheck : frameCheck [0x31, 0x32, 0x33, 0x34, 0x35, 0x36, 0x37, 0x38, 0x39] = 0x29B1 := by decide +kernel

/-- R76: the rows of the fill table. -/
theorem test_fillBlend :
    fillBlend 11585 1000001 0 0 = 707093 ∧ fillBlend 8192 (-3) 0 0 = -1 ∧ fillBlend 8192 (-5) 0 0 = -2 ∧
    fillBlend 16384 8000000 16384 8000000 = 8388607 ∧ fillBlend 8192 1048576 8192 524288 = 786432 := by decide

/-- R77: the render of preset 5. -/
theorem test_render :
    (renderFeed { onePreset with
        channels := 2, feedSet := 7
        matrix := ((onePreset.matrix.set 0 #v[16384, 0, 0, 0, 0, 0, 0, 0]).set 1 #v[8192, 8192, 0, 0, 0, 0, 0, 0]).set 2
          #v[0, 16384, 0, 0, 0, 0, 0, 0] }
      ((Vector.replicate 8 silence).set 0 (List.replicate 48 1048576) |>.set 1 (List.replicate 48 524288)) 1).getD 47 0
      = 786432 := by decide +kernel

/-- 5.2: the three rows of the crossfade. -/
theorem test_crossfade :
    crossfade 1 5 (-7) = 5 ∧ crossfade 12 1000000 600000 = 900000 ∧ crossfade 24 (-1) (-2) = -1 := by decide

/-- 5.6: one sample through the section of feed 33, its gains at five fader values, and the clamp. -/
theorem test_feed_path :
    runSections [{ coeffs := { b0 := 4404019, b1 := -8000000, b2 := 3800000, a1 := -7900000, a2 := 3710000 },
                   x1 := 780000, x2 := 770000, y1 := 790000, y2 := 775000 }] 786432 =
      (838092,
       [{ coeffs := { b0 := 4404019, b1 := -8000000, b2 := 3800000, a1 := -7900000, a2 := 3710000 },
          x1 := 786432, x2 := 780000, y1 := 838092, y2 := 790000 }], 0) ∧
    applyGain (limitCode (-6)) 838092 = 592621 ∧ applyGain (limitCode 14) 838092 = 1881453 ∧
    applyGain (limitCode (-158)) 838092 = 91 ∧ limitCode (-162) = none ∧ applyGain none 838092 = 0 ∧
    applyGain (limitCode 44) 3000000 = 12000000 ∧ satSample 12000000 = 8388607 := by decide +kernel

/-- R95: the selected fader codes. -/
theorem test_faderCode :
    [100, 90, 80, 75, 70, 65, 60, 55, 50, 45, 40, 39, 20, 10, 6, 5, 4, 1, 0].map faderCode =
      [some 20, some 13, some 7, some 3, some 0, some (-3), some (-7), some (-10), some (-13), some (-17), some (-20),
       some (-24), some (-100), some (-140), some (-156), some (-160), some (-164), some (-176), none] := by decide

/-- 5.6: the fade from 70 to 40 in four boundaries. -/
theorem test_fade :
    let l : Level := { fader := 70, fade := some { start := 70, target := 40, duration := 4, count := 0 }, muted := false,
                       requested := .a }
    l.advanceFade.fader = 63 ∧ l.advanceFade.advanceFade.fader = 55 ∧ l.advanceFade.advanceFade.advanceFade.fader = 48 ∧
    l.advanceFade.advanceFade.advanceFade.advanceFade = { l with fader := 40, fade := none } := by decide

/-- R106: the first samples after the seed. -/
theorem test_noise :
    (noiseRun 19 1).1.take 2 = [-8388604, -8388600] ∧ (noiseRun 19 1).1.drop 16 = [-8126464, -7864318, -7340028] ∧
    (noiseRun 19 1).2 = 524290 := by decide +kernel

/-- R108: the rows of the pattern value table. -/
theorem test_patternValue :
    patternValue 0 (-8388604) = -8388604 ∧ patternValue (-12) (-8388604) = -4194302 ∧
    patternValue (-12) (-7864318) = -3932159 ∧ patternValue (-6) 4000000 = 2828427 ∧
    patternValue (-160) (-8388604) = -813 := by decide +kernel

/-- 2.7: the selections b1, b4 and b6 of screen 3. -/
theorem test_selection :
    (selectTimed 1000000 480 4800 [blockOf 999418 9, blockOf 1000010 9, blockOf 1000058 9, blockOf 1000250 9]) =
      { decision := .onTime, played := some (blockOf 1000010 9), rest := [blockOf 1000058 9, blockOf 1000250 9],
        stale := 1, farEarly := 0 } ∧
    (selectTimed 1000144 480 4800 [blockOf 1000250 9]).decision = .wait ∧
    (selectTimed 1000240 480 4800 [blockOf 1000250 9]).decision = .onTime ∧
    (selectTimed 1000336 480 4800 [blockOf 1000298 9]).decision = .latePlay ∧
    (selectTimed 5760144 480 4800 [blockOf 5770000 6]).decision = .underrun := by decide +kernel

/-- 3.8: a difference of half the range is REF_BAD, one less is not. -/
theorem test_half_range :
    signedDiff 2147483748 100 = -2 ^ 31 ∧ signedDiff 2147483747 100 = 2147483647 := by decide

/-- R35: the next boundary after a count, and the last lane of a screen (R120). -/
theorem test_places :
    nextCount 0 0 = 48 ∧ nextCount 47 0 = 48 ∧ nextCount 48 0 = 96 ∧ nextCount 10 47 = 47 ∧ laneScreen 6 = 3 ∧
    laneSide 7 = 1 ∧ (feedSide 9, feedSlot 9) = (1, 1) := by decide

/-- What a frame of the Report Queue is: its kind, and a notice's subject, state and cause. -/
def outline : UpFrame → Nat × Nat × Nat × Nat
  | .reply _ => (9, 0, 0, 0)
  | .notice n => (n.kind.code, n.subject, n.state, n.valueA)
  | .meter _ => (11, 0, 0, 0)

/-- R61, R80, R132, R145: the frames of one boundary in stage order: CLOCK to HOLDOVER, RETIRED of record 10, METER, and
WARN of REF_LOST. -/
theorem test_boundary_frames :
    ((alarming.boundary 0).reports.take 4).map outline =
      [(NoticeKind.clock.code, 0, 3, 0), (NoticeKind.alarm.code, 10, 0, 3), (11, 0, 0, 0),
        (NoticeKind.alarm.code, 9, 1, 0)] := by decide +kernel

/-- R120, R121: a reply's frame as the trunk sends it, a whole frame of kind 9 on stream 0. -/
theorem test_reply_frame :
    ({ State.reset with reports := [.reply someReply], sendingSeq := some 5 } : State).trunkBytes =
      some (trunkFrame 9 0 5 [1, 0]) := by decide +kernel

/-- No row of the table gives bits: no word spells a command. -/
theorem test_decodeTableWord : decodeTableWord 8 0 = none ∧ (State.reset.withFetchWord 8 0).pending = [] := by decide

/-! ## The invariants, met by a state with work in every block -/

theorem reset_free : State.reset.free := ⟨rfl, rfl⟩

theorem streams_free : streams.free := ⟨rfl, rfl⟩

theorem busy_free : busy.free := ⟨rfl, rfl⟩

theorem streams_sources : streams.sourcesSound := by
  unfold State.sourcesSound
  decide +kernel

theorem busy_pool : busy.poolSound := by
  unfold State.poolSound
  decide +kernel

theorem reporting_sound : (reporting 31).reportsSound ∧ (reporting 32).reportsSound ∧ (waiting 16).reportsSound := by
  unfold State.reportsSound
  decide +kernel

theorem busy_reports : busy.reportsSound := by
  unfold State.reportsSound
  decide +kernel

theorem busy_clocks : busy.clocksSound := by
  unfold State.clocksSound Screen.clockSound settingsInRange
  decide +kernel

/-- A level whose fade is named is sound when the numbers are. -/
theorem level_sound_of_fade (l : Level) (f : Fade) (h : l.fade = some f)
    (hn : l.fader ≤ 100 ∧ f.start ≤ 100 ∧ f.target ≤ 100 ∧ 1 ≤ f.duration ∧ f.duration ≤ 60000 ∧ f.count < f.duration) :
    l.sound := by
  refine ⟨hn.1, fun g hg => ?_⟩
  rw [h, Option.some.injEq] at hg
  exact hg ▸ hn.2

theorem level_sound_of_still (l : Level) (h : l.fade = none) (hn : l.fader ≤ 100) : l.sound :=
  ⟨hn, fun g hg => absurd hg (by simp [h])⟩

theorem busy_levels : busy.levelsSound := by
  intro i
  by_cases h : i = 0
  · subst h
    exact level_sound_of_fade _ { start := 100, target := 40, duration := 4, count := 3 } (by decide +kernel)
      (by decide +kernel)
  · have hf : ∀ j : ScreenNo, j ≠ 0 → busy.screens[j].level.fade = none ∧ busy.screens[j].level.fader ≤ 100 := by
      decide +kernel
    exact level_sound_of_still _ (hf i h).1 (hf i h).2

theorem busy_alarms : busy.alarmsSound := by
  unfold State.alarmsSound Screen.recordsSound AlarmRecord.sound
  decide +kernel

theorem busy_sources : busy.sourcesSound := by
  unfold State.sourcesSound
  decide +kernel

theorem busy_lanes : busy.lanesSound := by
  unfold State.lanesSound Lane.sound inSampleRange
  decide +kernel

theorem alarming_lanes : alarming.lanesSound := by
  unfold State.lanesSound Lane.sound inSampleRange
  decide +kernel

/-- An awaiting block whose slot is filled. -/
def fullSlot : Awaiting :=
  { count := 0, slot := some (Vector.replicate 8 { peak := 65535, protect := true, thermal := false }) }

/-- `busy` with a return in the older slot of both lanes of screen 0. -/
def returned : State :=
  onScreen busy fun x =>
    { x with
      lanes := Vector.replicate 2
        { x.lanes[(0 : Fin 2)] with awaiting := [fullSlot, { count := 1, slot := none }] } }

theorem returned_lanes : returned.lanesSound := by
  unfold State.lanesSound Lane.sound inSampleRange
  decide +kernel

theorem busy_feeds : busy.feedsSound := by
  unfold State.feedsSound Feed.sound bankAtRest
  decide +kernel

theorem busy_signals : busy.signalsSound := by
  intro i
  by_cases h : i = 1
  · subst h
    refine ⟨by decide +kernel, by decide +kernel, by decide +kernel, fun _ => ⟨by decide +kernel, fun n hn => ?_⟩⟩
    have : busy.screens[(1 : ScreenNo)].signal.check.count = some 8 := by decide +kernel
    rw [this, Option.some.injEq] at hn
    subst hn
    decide +kernel
  · have hf : ∀ j : ScreenNo, j ≠ 1 → busy.screens[j].signal.noise ≠ 0 ∧ busy.screens[j].playout.mode = .show ∧
        busy.screens[j].signal.check.running = false ∧ busy.screens[j].signal.check.count = none := by decide +kernel
    obtain ⟨h1, h2, h3, h4⟩ := hf i h
    exact ⟨h1, by rw [h2, h3]; decide, fun _ => h4, fun hr => by rw [h3] at hr; exact absurd hr (by decide)⟩

/-- An EMPTY cue is sound. -/
theorem cueSound_of_empty (s : State) (n : CueNo) (h : s.cues[n] = Cue.powerOn) : s.cueSound n := by
  unfold State.cueSound
  rw [h]
  exact ⟨fun _ => rfl, fun hn => absurd rfl hn, fun hn => absurd hn (by decide), fun _ => rfl⟩

/-- A loaded cue that is neither an AFTER cue nor ARMED is sound when it has a screen and no countdown. -/
theorem cueSound_of_plain (s : State) (n : CueNo)
    (h : s.cues[n].state ≠ .empty ∧ s.cues[n].state ≠ .armed ∧ s.cues[n].spec.trigger ≠ .after ∧
      s.cues[n].spec.screen < 6 ∧ s.cues[n].countdown = none) : s.cueSound n :=
  ⟨fun he => absurd he h.1, fun _ => ⟨h.2.2.2.1, fun ht => absurd ht h.2.2.1⟩, fun ha => absurd ha h.2.1,
    fun _ => h.2.2.2.2⟩

theorem busy_cues : busy.cuesSound := by
  refine ⟨fun n => ?_, by decide +kernel⟩
  have hrest : ∀ m : CueNo, 5 ≤ m.val → busy.cues[m] = Cue.powerOn := by decide +kernel
  have hplain : ∀ m : CueNo, m.val < 5 → m ≠ 1 →
      busy.cues[m].state ≠ .empty ∧ busy.cues[m].state ≠ .armed ∧ busy.cues[m].spec.trigger ≠ .after ∧
        busy.cues[m].spec.screen < 6 ∧ busy.cues[m].countdown = none := by decide +kernel
  by_cases h5 : 5 ≤ n.val
  · exact cueSound_of_empty _ _ (hrest n h5)
  · by_cases h1 : n = 1
    · subst h1
      refine ⟨by decide +kernel, fun _ => ⟨by decide +kernel, fun _ => ⟨by decide +kernel, 0, by decide +kernel⟩⟩,
        fun _ => ⟨by decide +kernel, by decide +kernel, 1, by decide +kernel⟩, by decide +kernel⟩
    · exact cueSound_of_plain _ _ (hplain n (by omega) h1)

/-! ## Witnesses of the statements' hypotheses -/

/-- A command at the front. -/
theorem witness_StepRunsTheFrontCommand :
    ({ State.reset with pending := [.blockBoundary 0, .powerOn] } : State).pending = .blockBoundary 0 :: [.powerOn] := rfl

/-- An empty queue. -/
theorem witness_EmptyQueueStepIsOneWordClockPeriod :
    State.reset.pending = [] := rfl

/-- A sound state that steps. -/
theorem witness_EveryStepKeepsClocksAndFadersInRange :
    busy.clocksSound ∧ busy.levelsSound ∧ ∃ t, step busy = .next t := ⟨busy_clocks, busy_levels, step_next busy⟩

/-- A sound state that steps. -/
theorem witness_EveryStepConservesThePool :
    busy.poolSound ∧ ∃ t, step busy = .next t := ⟨busy_pool, step_next busy⟩

/-- A sound state that steps. -/
theorem witness_EveryStepBoundsTheReportQueue :
    busy.reportsSound ∧ ∃ t, step busy = .next t := ⟨busy_reports, step_next busy⟩

/-- A sound state that steps. -/
theorem witness_EveryStepKeepsRetiredRecordsAtRest :
    busy.alarmsSound ∧ ∃ t, step busy = .next t := ⟨busy_alarms, step_next busy⟩

/-- A sound state that steps. -/
theorem witness_EveryStepKeepsOneSourcePerQueue :
    busy.sourcesSound ∧ ∃ t, step busy = .next t := ⟨busy_sources, step_next busy⟩

/-- A sound state that steps. -/
theorem witness_EveryStepKeepsTheLanesInStep :
    busy.lanesSound ∧ ∃ t, step busy = .next t := ⟨busy_lanes, step_next busy⟩

/-- A sound state that steps. -/
theorem witness_EveryStepKeepsInactiveBanksAtRest :
    busy.feedsSound ∧ ∃ t, step busy = .next t := ⟨busy_feeds, step_next busy⟩

/-- A sound state that steps. -/
theorem witness_EveryStepKeepsCheckModeWithTheCheck :
    busy.signalsSound ∧ ∃ t, step busy = .next t := ⟨busy_signals, step_next busy⟩

/-- A sound state that steps. -/
theorem witness_EveryStepArmsOnlyUnderFiredParents :
    busy.cuesSound ∧ ∃ t, step busy = .next t := ⟨busy_cues, step_next busy⟩

/-- A request taken at once, one queued behind fifteen, one dropped behind sixteen; an undefined table on both sides
of 1..8; a kind on both sides of 16..38; a command with a table.
A READ with a record; a record of each table and of each command with operands at its length, one short and one long,
with an undefined code and without; an index outside every table. -/
theorem witness_RequestIsTakenQueuedOrDropped :
    requestOf (.mute 1 0) = some (1, .mute 0) ∧ State.reset.free ∧ ¬(waiting 15).free ∧ (waiting 15).requests.length < 16 ∧
    ¬(waiting 16).free ∧ 16 ≤ (waiting 16).requests.length ∧
    (∀ kind ∈ [1, 2], ∀ table ∈ [0, 9], (kind = 1 ∨ kind = 2) ∧ (table < 1 ∨ 8 < table)) ∧
    (∀ kind ∈ [0, 3, 15, 39], kind ≠ 1 ∧ kind ≠ 2 ∧ (kind < 16 ∨ 38 < kind)) ∧
    (∀ kind ∈ [16, 38], 16 ≤ kind ∧ kind ≤ 38 ∧ 1 ≠ 0) ∧ ([0] : List Byte) ≠ [] ∧
    (∀ p ∈ [(1, 6), (2, 301), (3, 1), (4, 39), (5, 18), (6, 96), (7, 20), (8, 1)],
      1 ≤ p.1 ∧ p.1 ≤ 8 ∧ p.2 = writeLength p.1 (zeroBytes p.2) ∧
      p.2 - 1 ≠ writeLength p.1 (zeroBytes (p.2 - 1)) ∧ p.2 + 1 ≠ writeLength p.1 (zeroBytes (p.2 + 1)) ∧
      ∀ q ∈ writeCodes p.1 (zeroBytes p.2), q.1 < q.2) ∧
    (16 = writeLength 3 (1 :: zeroBytes 15) ∧ 304 = writeLength 2 (zeroBytes 265 ++ 255 :: zeroBytes 38)) ∧
    (∀ p ∈ [(1, 4, 2, 6), (1, 5, 2, 6), (2, 261, 3, 301), (2, 296, 3, 301), (4, 2, 4, 39), (4, 12, 11, 39), (4, 18, 2, 39),
        (4, 19, 3, 39), (4, 24, 3, 39), (5, 6, 5, 18), (7, 7, 2, 20)],
      p.2.2.2 = writeLength p.1 ((zeroBytes p.2.2.2).set p.2.1 (BitVec.ofNat 8 p.2.2.1)) ∧
      (∃ q ∈ writeCodes p.1 ((zeroBytes p.2.2.2).set p.2.1 (BitVec.ofNat 8 p.2.2.1)), q.2 ≤ q.1) ∧
      judgeEnvelope 2 p.1 65535 ((zeroBytes p.2.2.2).set p.2.1 (BitVec.ofNat 8 p.2.2.1)) = .rejected .badValue) ∧
    (∀ p ∈ [(19, 1), (20, 3), (21, 1), (22, 1), (30, 5), (31, 11), (35, 2), (36, 1), (38, 0)],
      p.2 = commandLength p.1 (zeroBytes p.2) ∧ p.2 + 1 ≠ commandLength p.1 (zeroBytes (p.2 + 1)) ∧
      ∀ q ∈ commandCodes p.1 (zeroBytes p.2), q.1 < q.2) ∧ 2 = commandLength 21 [255, 0] ∧
    ∀ p ∈ [(22, 2), (30, 3), (31, 3), (35, 5)],
      ∃ q ∈ commandCodes p.1 (BitVec.ofNat 8 p.2 :: zeroBytes (commandLength p.1 [] - 1)), q.2 ≤ q.1 := by
  unfold State.free
  decide +kernel

/-- The last place of the Report Queue free, and none free. -/
theorem witness_OffersToTheReportQueue :
    (reporting 31).reportsSound ∧ (reporting 31).reports.length < 32 ∧ (reporting 32).reportsSound ∧
    (reporting 32).reports.length = 32 := ⟨reporting_sound.1, by decide, reporting_sound.2.1, by decide⟩

/-- A head frame alone and before another, a reply waiting with no request, and one with requests behind it. -/
theorem witness_SentFrameLeavesAndTheNextEnters :
    (reporting 1).free ∧ (reporting 1).reports = .notice someNotice :: [] ∧ (reporting 2).free ∧
    (reporting 2).reports = .notice someNotice :: [.notice someNotice] ∧ (waiting 0).replySlot = some someReply ∧
    (waiting 0).requests = [] ∧ (waiting 2).replySlot = some someReply ∧
    (waiting 2).requests = (2, .mute 0) :: [(2, .mute 0)] ∧
    (waiting 2).reports = .notice someNotice :: List.replicate 31 (.notice someNotice) := ⟨⟨rfl, rfl⟩, rfl, ⟨rfl, rfl⟩, rfl, rfl, rfl, rfl, rfl, rfl⟩

/-- The first index, number and screen outside the ranges; a held, a taken and a passing write of each entry state. -/
theorem witness_WriteStreamFollowsItsChecks :
    streams.free ∧ 32 ≤ 32 ∧ 4095 < 4096 ∧ 6 ≤ 6 ∧
    (streams.entries[(0 : EntryNo)].state = .active ∧ (2 : Nat) ≠ streams.entries[(0 : EntryNo)].number) ∧
    (streams.entries[(1 : EntryNo)].state = .primed ∧ max 1 (min 8 9) ≠ streams.entries[(1 : EntryNo)].channels) ∧
    ((1 : Nat) ≠ 0 ∧ (0 : EntryNo) ≠ 3 ∧ streams.entries[(0 : EntryNo)].state ≠ .unused ∧
      streams.entries[(0 : EntryNo)].number = 1) ∧
    streams.entries[(3 : EntryNo)].state = .unused ∧ streams.entries[(2 : EntryNo)].state = .inactive ∧
    (streams.entries[(2 : EntryNo)].number = 4095 ∧ streams.entries[(2 : EntryNo)].screen = 0) ∧
    (∀ o : EntryNo, o ≠ 2 → streams.entries[o].number ≠ 4095) := ⟨streams_free, by decide +kernel⟩

/-- An entry in each state, and the first index outside the table. -/
theorem witness_PrimeFollowsTheEntryState :
    streams.free ∧ streams.sourcesSound ∧ 32 ≤ 32 ∧ streams.entries[(0 : EntryNo)].state = .active ∧
    streams.entries[(1 : EntryNo)].state = .primed ∧ streams.entries[(2 : EntryNo)].state = .inactive ∧
    streams.entries[(31 : EntryNo)].state = .unused := ⟨streams_free, streams_sources, by decide +kernel⟩

/-- An entry in each state, and the first index outside the table. -/
theorem witness_ActivateFollowsTheEntryState :
    streams.free ∧ streams.sourcesSound ∧ 32 ≤ 32 ∧ streams.entries[(0 : EntryNo)].state = .active ∧
    streams.entries[(1 : EntryNo)].state = .primed ∧ streams.entries[(2 : EntryNo)].state = .inactive ∧
    streams.entries[(31 : EntryNo)].state = .unused := ⟨streams_free, streams_sources, by decide +kernel⟩

/-- An entry in each state, and the first index outside the table. -/
theorem witness_DeactivateFollowsTheEntryState :
    streams.free ∧ 32 ≤ 32 ∧ streams.entries[(0 : EntryNo)].state = .active ∧ streams.entries[(1 : EntryNo)].state = .primed ∧
    streams.entries[(2 : EntryNo)].state = .inactive ∧ streams.entries[(31 : EntryNo)].state = .unused := ⟨streams_free, by decide +kernel⟩

/-- A preset in use and one not; a bad donor a, a bad donor b and none; the screens and presets at the ends of their
ranges. -/
theorem witness_PresetsAreWrittenAndSelected :
    busy.free ∧ 16 ≤ 16 ∧ 6 ≤ 6 ∧ (∃ i : ScreenNo, busy.screens[i].render.selection = some (0 : PresetNo)) ∧
    ¬(∃ i : ScreenNo, busy.screens[i].render.selection = some (15 : PresetNo)) ∧
    busy.presets[(0 : PresetNo)].used = true ∧ busy.presets[(15 : PresetNo)].used = false ∧
    (∃ c : ChannelNo, c.val < 8 ∧
      (Vector.replicate 8 { mode := .fill, donorA := 7, coefA := 0, donorB := none : FillEntry })[c].donorA = c.val) ∧
    (∃ c : ChannelNo, c.val < 8 ∧
      (Vector.replicate 8 { mode := .fill, donorA := 8, coefA := 0, donorB := some (7, 0) : FillEntry })[c].donorA = 8) ∧
    ¬(∃ c : ChannelNo, c.val < 1 ∧ onePreset.fill[c].mode = .fill) := ⟨busy_free, by decide +kernel⟩

/-- The first indexes outside the tables, eight and nine sections, a bank active, one requested and one free, and trims
at both ends of the range. -/
theorem witness_BankAndTrimWritesFollowTheirChecks :
    busy.free ∧ 192 ≤ 192 ∧ 96 ≤ 96 ∧ 8 < 9 ∧ 8 ≤ 8 ∧ busy.screens[(0 : ScreenNo)].feeds[(15 : FeedNo)].active = .b ∧
    busy.screens[(0 : ScreenNo)].level.requested = .b ∧
    ¬(busy.screens[(0 : ScreenNo)].feeds[(15 : FeedNo)].active = .a ∨ busy.screens[(0 : ScreenNo)].level.requested = .a) ∧
    max (-40) (min 24 (-41)) = (-40 : Int) ∧ max (-40) (min 24 25) = (24 : Int) := ⟨busy_free, by decide +kernel⟩

/-- The first screen outside the range, and the ends of the fader and duration ranges. -/
theorem witness_LevelCommandsStoreTheirValues :
    busy.free ∧ 6 ≤ 6 ∧ min 100 101 = 100 ∧ max 1 (min 60000 0) = 1 ∧ max 1 (min 60000 60001) = 60000 := ⟨busy_free, by decide⟩

/-- Both sides of kind OFF, levels past both ends, the first screen and index outside. -/
theorem witness_PatternAndWaveAreStored :
    busy.free ∧ 6 ≤ 6 ∧ (1 : Nat) ≠ 0 ∧ PatternKind.off = .off ∧ PatternKind.noise ≠ .off ∧ PatternKind.tone ≠ .off ∧
    max (-160) (min 0 (-161)) = (-160 : Int) ∧ max (-160) (min 0 1) = (0 : Int) := ⟨busy_free, by decide⟩

/-- Kind OFF; a running check; an idle screen with a feed of its latched set in the mask, and with none. -/
theorem witness_StartCheckFollowsItsRules :
    busy.free ∧ 6 ≤ 6 ∧ PatternKind.noise ≠ .off ∧ busy.screens[(1 : ScreenNo)].signal.check.running = true ∧
    busy.screens[(0 : ScreenNo)].signal.check.running = false ∧
    (List.finRange 16).filter (fun k : FeedNo => (1 : BitVec 16).getLsbD k.val &&
      busy.screens[(0 : ScreenNo)].render.latched.any fun l => l.preset.feedSet.getLsbD k.val) = [0] ∧
    (List.finRange 16).filter (fun k : FeedNo => (2 : BitVec 16).getLsbD k.val &&
      busy.screens[(0 : ScreenNo)].render.latched.any fun l => l.preset.feedSet.getLsbD k.val) = [] := ⟨busy_free, by decide +kernel⟩

/-- A running check and an idle screen. -/
theorem witness_StopCheckEndsARunningCheck :
    busy.free ∧ 6 ≤ 6 ∧ busy.screens[(1 : ScreenNo)].signal.check.running = true ∧
    busy.screens[(0 : ScreenNo)].signal.check.running = false := ⟨busy_free, by decide +kernel⟩

/-- The first index outside the table, an action its kind allows and one it does not. -/
theorem witness_WriteProfileFollowsItsChecks :
    busy.free ∧ 36 ≤ 36 ∧ ((5 : Fin 6) = 5 ∧ AlarmAction.muteFeed = .muteFeed) ∧
    ¬(AlarmAction.fill = .none ∨ ((1 : Fin 6) = 0 ∧ AlarmAction.fill = .fill) ∨
      ((1 : Fin 6) = 2 ∧ AlarmAction.fill = .holdCues) ∨ ((1 : Fin 6) = 3 ∧ AlarmAction.fill = .reduce) ∨
      ((1 : Fin 6) = 5 ∧ AlarmAction.fill = .muteFeed)) := ⟨busy_free, by decide⟩

/-- A record in each state, and the first number outside the range. -/
theorem witness_AckFollowsTheRecordState :
    busy.free ∧ 348 ≤ 348 ∧ busy.screens[(5 : ScreenNo)].records[(57 : RecordNo)].state = .normal ∧
    busy.screens[(0 : ScreenNo)].records[(10 : RecordNo)].state = .action ∧
    (∀ st ∈ [AlarmState.warning, .acked],
      (onScreen busy fun x => { x with records := x.records.set 0 { AlarmRecord.powerOn with state := st } }).screens[
        (0 : ScreenNo)].records[(0 : RecordNo)].state = st) ∧
    (onScreen busy fun x => { x with records := x.records.set 0 { AlarmRecord.powerOn with state := .warning } }).requests = [] := ⟨busy_free, by decide +kernel⟩

/-- Each limit just reached and just missed: N, E and K of 2 at counts 0 and 1, and E of 0. -/
theorem witness_EscalationFollowsItsTable :
    min (1 + 1) 65535 = 2 ∧ ¬(2 : Nat) < 2 ∧ min (0 + 1) 65535 < 2 ∧ (2 : Nat) ≤ 2 ∧ 0 < 2 ∧ (0 = 0 ∨ (2 : Nat) < 0) ∧
    (∀ st ∈ [AlarmState.normal, .warning, .acked, .action], ({ AlarmRecord.powerOn with state := st, run := 1 } : AlarmRecord).state = st) := by decide +kernel

/-- A boundary with a timeout, a record that leaves use raised, a meter due and a record in use at its limit; one whose
frames meet a full Report Queue; one with a resync that is a step; lanes in step; a record in use of each sort, and none. -/
theorem witness_BoundaryEvaluatesAndReports :
    (∀ s ∈ [alarming, { alarming with reports := (reporting 31).reports }, resyncing 100],
      s.screens[(0 : ScreenNo)].playout.voidedAt ≠ some s.wordClock) ∧
    alarming.lanesSound ∧ alarming.screens[(0 : ScreenNo)].clock.state = .locked ∧
    alarming.screens[(0 : ScreenNo)].settings.referenceTimeout ≤
      min (alarming.screens[(0 : ScreenNo)].clock.sinceReference + 1) 65535 ∧
    (recordInUse alarming.screens[(0 : ScreenNo)].render.latched 10 = true ∧
      recordInUse (alarming.latchedScreen 0).render.latched 10 = false ∧
      alarming.screens[(0 : ScreenNo)].records[(10 : RecordNo)].state ≠ .normal) ∧
    100 * alarming.screens[(0 : ScreenNo)].settings.meterInterval ≤ alarming.screens[(0 : ScreenNo)].meterCount + 1 ∧
    (recordInUse (alarming.latchedScreen 0).render.latched 9 = true ∧
      alarming.screens[(0 : ScreenNo)].profiles[(2 : Fin 6)].warnAfter ≤
        (alarming.latchedScreen 0).records[(9 : RecordNo)].run + 1) ∧
    (∀ k ∈ [(0 : RecordNo), 8, 9, 10, 26, 42], recordInUse (some { index := 0, preset := onePreset }) k = true) ∧
    (∀ k ∈ [(0 : RecordNo), 10, 26, 42], recordInUse none k = false) ∧
    recordInUse (some { index := 0, preset := onePreset }) 57 = false := ⟨by decide +kernel, alarming_lanes, by decide +kernel⟩

/-- The first and last record of each kind. -/
theorem witness_EachKindJudgesItsOwnInput :
    (7 : ChannelNo).val = (7 : RecordNo).val ∧ (8 : RecordNo).val = 8 ∧ (9 : RecordNo).val = 9 ∧
    (10 : RecordNo).val = 10 + (0 : FeedNo).val ∧ (25 : RecordNo).val = 10 + (15 : FeedNo).val ∧
    (26 : RecordNo).val = 26 + (0 : FeedNo).val ∧ (41 : RecordNo).val = 26 + (15 : FeedNo).val ∧
    (42 : RecordNo).val = 42 + (0 : FeedNo).val ∧ (57 : RecordNo).val = 42 + (15 : FeedNo).val := by decide +kernel

/-- A cue with a child and one without; the first screen outside the range; an AFTER write with a good parent, with itself
and with an EMPTY cue; each action refused; a move of a parent to another screen. -/
theorem witness_WriteCueFollowsItsChecks :
    busy.free ∧ 256 ≤ 256 ∧ 6 ≤ 6 ∧
    (∃ m : CueNo, busy.cues[m].state ≠ .empty ∧ busy.cues[m].spec.trigger = .after ∧ busy.cues[m].spec.parent = (0 : CueNo).val) ∧
    ¬(∃ m : CueNo, busy.cues[m].state ≠ .empty ∧ busy.cues[m].spec.trigger = .after ∧ busy.cues[m].spec.parent = (5 : CueNo).val) ∧
    (∃ p : CueNo, (0 : Nat) = p.val ∧ p ≠ 5 ∧ busy.cues[p].state ≠ .empty ∧ busy.cues[p].spec.screen = 0) ∧
    ¬(∃ p : CueNo, (5 : Nat) = p.val ∧ p ≠ 5 ∧ busy.cues[p].state ≠ .empty ∧ busy.cues[p].spec.screen = 0) ∧
    busy.cues[(0 : CueNo)].state = .fired ∧ busy.cues[(1 : CueNo)].state = .armed ∧ busy.cues[(0 : CueNo)].spec.screen ≠ 1 ∧
    16 ≤ 16 ∧ 32 ≤ 32 ∧ CheckRecord.powerOn.spec.kind ≠ .off := ⟨busy_free, by decide +kernel⟩

/-- A cue EMPTY, FIRED, ARMED, PENDING and DISABLED, and the first number outside the table. -/
theorem witness_GoCancelEnableFollowTheCueState :
    busy.free ∧ 256 ≤ 256 ∧ busy.cues[(255 : CueNo)].state = .empty ∧ busy.cues[(0 : CueNo)].state = .fired ∧
    busy.cues[(1 : CueNo)].state = .armed ∧ busy.cues[(2 : CueNo)].state = .pending ∧
    (busy.modCue 2 fun c => { c with state := .disabled }).cues[(2 : CueNo)].state = .disabled ∧
    (busy.modCue 2 fun c => { c with state := .disabled }).requests = [] := ⟨busy_free, by decide +kernel⟩

/-- A FIRED REARM cue ahead of the new time, and one at it. -/
theorem witness_BackwardStepRearmsCues :
    -2147483648 < (-48 : Int) ∧ (2147483647 : Int) ≤ 2147483647 ∧ 0 < signedDiff 1 (busy.stNow 1 + BitVec.ofInt 32 0) ∧
    ¬0 < signedDiff 0 (busy.stNow 1 + BitVec.ofInt 32 0) := by decide +kernel

/-- A changed phase on a screen with an ACTIVE entry, in CHECK, and on a free one, with a boundary due at the count and
not; both clock modes, with space for the notice and without; the ends of the ranges. -/
theorem witness_WriteScreenStoresElevenSettings :
    busy.free ∧ 6 ≤ 6 ∧ min 47 48 = 47 ∧ max 4 (min 64 3) = 4 ∧ max 4 (min 64 65) = 64 ∧
    (∃ e : EntryNo, busy.entries[e].state = .active ∧ busy.entries[e].screen = 0) ∧
    busy.screens[(1 : ScreenNo)].playout.mode = .check ∧ 47 ≠ busy.screens[(2 : ScreenNo)].settings.phase ∧
    ¬((∃ e : EntryNo, busy.entries[e].state = .active ∧ busy.entries[e].screen = 2) ∨
      busy.screens[(2 : ScreenNo)].playout.mode = .check) ∧
    busy.screens[(0 : ScreenNo)].settings.clockMode = .referenced ∧
    busy.screens[(2 : ScreenNo)].settings.clockMode ≠ .referenced ∧ busy.reports.length < 32 ∧
    busy.screens[(2 : ScreenNo)].playout.nextBoundary ≠ busy.wordClock ∧
    (busy.modScreen 2 fun x => { x with playout := { x.playout with nextBoundary := 0 } }).screens[
      (2 : ScreenNo)].playout.nextBoundary = busy.wordClock ∧
    (reporting 32).requests = [] ∧ (reporting 32).replySlot = none ∧ (reporting 32).reports.length = 32 ∧
    (reporting 32).screens[(2 : ScreenNo)].settings.clockMode ≠ .referenced := ⟨busy_free, by decide +kernel⟩

/-- A screen with a running check, one at rest whose clock stands in its starting state, and one whose clock does not. -/
theorem witness_ScreenResetKeepsTheLoadedSettings :
    busy.free ∧ 6 ≤ 6 ∧ busy.screens[(1 : ScreenNo)].signal.check.running = true ∧
    busy.screens[(2 : ScreenNo)].signal.check.running = false ∧ busy.screens[(2 : ScreenNo)].clock.state = .unreferenced ∧
    busy.screens[(0 : ScreenNo)].settings.clockMode = .referenced ∧ busy.screens[(0 : ScreenNo)].clock.state ≠ .acquiring := ⟨busy_free, by decide +kernel⟩

/-- A free handler, the first index outside each table, and a screen with a raised record. -/
theorem witness_ReadsAndListsReturnWhatStands :
    busy.free ∧ 32 ≤ 32 ∧ 6 ≤ 6 ∧ 96 ≤ 96 ∧
    (List.finRange 58).filter (fun k : RecordNo => busy.screens[(0 : ScreenNo)].records[k].state ≠ .normal) = [10] := ⟨busy_free, by decide +kernel⟩

/-- A free handler and the first screen outside the range. -/
theorem witness_StatusAndMeterReadsReturnAndClear :
    busy.free ∧ 6 ≤ 6 := ⟨busy_free, by decide⟩

/-- A free handler and the first subject outside each scope. -/
theorem witness_ReadTallyReturnsAndClears :
    busy.free ∧ 1 ≤ 1 ∧ 32 ≤ 32 ∧ 6 ≤ 6 ∧ 96 ≤ 96 ∧ 12 ≤ 12 := ⟨busy_free, by decide⟩

/-- A frame that is too short; a kind error of each sort; a number no entry holds, and one an INACTIVE entry holds. -/
theorem witness_StoppedFrameRaisesOnePortTally :
    ([] : List Byte).length < 7 ∧ (0 : Nat) < 16 ∧ (5 : Nat) < 16 ∧ ((4 : Nat) ≠ 0 ∧ ([0, 0, 0, 0] : List Byte).length < 5) ∧
    streams.sourcesSound ∧ (∀ e : EntryNo, streams.entries[e].state ≠ .unused → streams.entries[e].number ≠ 3) ∧
    (∃ e : EntryNo, streams.entries[e].state = .inactive ∧ streams.entries[e].number = 4095) := ⟨by decide, by decide, by decide, by decide, streams_sources, by decide +kernel, by decide +kernel⟩

/-- The empty run of bytes is no whole frame. -/
theorem witness_NotAFrame :
    ¬∃ kind stream seq body, kind < 16 ∧ stream < 4096 ∧ body.length < 65536 ∧ ([] : List Byte) = trunkFrame kind stream seq body := by
  rintro ⟨kind, stream, seq, body, -, -, -, h⟩
  have := congrArg List.length h
  simp [trunkFrame, withCheck] at this

/-- The shortest and the longest argument record. -/
theorem witness_ManageFrameHandsOnItsRequest :
    ([] : List Byte).length ≤ 65530 ∧ (List.replicate 65530 (0 : Byte)).length ≤ 65530 := ⟨by decide, Nat.le_of_eq List.length_replicate⟩

/-- A PRIMED and an ACTIVE entry; a body of each kind one byte short, exact and one byte long. -/
theorem witness_StreamFrameIsTrackedAndHandedOn :
    streams.sourcesSound ∧ streams.entries[(1 : EntryNo)].state = .primed ∧ streams.entries[(0 : EntryNo)].state = .active ∧
    ([0, 0, 0, 0] : List Byte).length < 5 ∧ ([0, 0, 0, 0, 0] : List Byte) = fourBytes 0 ++ [0] ∧
    5 < ([0, 0, 0, 0, 0, 0] : List Byte).length ∧ ([0, 0, 0, 0, 0, 7] : List Byte) = fourBytes 0 ++ twoBytes 7 ∧
    6 < ([0, 0, 0, 0, 0, 0, 0] : List Byte).length ∧
    1 = ((fourBytes 0 ++ [1, BitVec.ofNat 8 1] ++ List.replicate 144 0).getD 5 0).toNat ∧
    1 = streams.entries[(0 : EntryNo)].channels ∧ (List.replicate 144 (0 : Byte)).length = 144 * 1 ∧
    (fourBytes 0 ++ [1, BitVec.ofNat 8 1] ++ List.replicate 143 0).length < 6 + 144 * 1 ∧
    6 + 144 * 1 < (fourBytes 0 ++ [1, BitVec.ofNat 8 1] ++ List.replicate 145 0).length ∧
    ((fourBytes 0 ++ [1, BitVec.ofNat 8 2] ++ List.replicate 288 0).length = 6 + 144 * 2 ∧
      2 ≠ streams.entries[(0 : EntryNo)].channels) ∧ (9 < 1 ∨ 8 < 9) := ⟨streams_sources, by decide +kernel⟩

/-- No free slot; the quota reached; an equal PT queued; a PT later than LT by one, and at LT. -/
theorem witness_OfferIsJudgedByFourTests :
    streams.entries[(0 : EntryNo)].state = .active ∧ streams.entries[(1 : EntryNo)].state = .primed ∧
    streams.entries[(0 : EntryNo)].timing = .timed ∧ ({ streams with freeSlots := 0 } : State).freeSlots = 0 ∧ streams.freeSlots ≠ 0 ∧
    (onScreen streams fun x => { x with settings := { x.settings with quota := 2 } }).screens[(0 : ScreenNo)].settings.quota ≤
      streams.screens[(0 : ScreenNo)].playout.held ∧
    ¬streams.screens[(0 : ScreenNo)].settings.quota ≤ streams.screens[(0 : ScreenNo)].playout.held ∧
    (∃ q ∈ streams.screens[(0 : ScreenNo)].playout.program, q.pt = 48) ∧
    ¬(∃ q ∈ streams.screens[(0 : ScreenNo)].playout.program, q.pt = 49) ∧
    busy.screens[(0 : ScreenNo)].settings.clockMode = .referenced ∧
    (busy.screens[(0 : ScreenNo)].settings.lateLimit : Int) < signedDiff (busy.stNow 0) (BitVec.ofInt 32 (-481)) ∧
    ¬(busy.screens[(0 : ScreenNo)].settings.lateLimit : Int) < signedDiff (busy.stNow 0) (BitVec.ofInt 32 (-480)) := by decide +kernel

/-- A clock in each state; a difference of half the range, a backward one and a forward one; the Report Queue with space
and full; one at the window and one past it; a count at its limit and one
short of it. -/
theorem witness_ReferenceIsDecidedByTheClockState :
    busy.screens[(2 : ScreenNo)].clock.state = .unreferenced ∧ busy.screens[(0 : ScreenNo)].clock.state = .locked ∧
    (∀ st ∈ [ClockState.acquiring, .holdover],
      (onScreen busy fun x => { x with clock := { x.clock with state := st } }).screens[(0 : ScreenNo)].clock.state = st) ∧
    signedDiff (2147483648 + BitVec.ofInt 32 0) (busy.stNow 0) = -2147483648 ∧
    (signedDiff (24 + BitVec.ofInt 32 0) (busy.stNow 0)).natAbs ≤ busy.screens[(0 : ScreenNo)].settings.window ∧
    ¬(signedDiff (25 + BitVec.ofInt 32 0) (busy.stNow 0)).natAbs ≤ busy.screens[(0 : ScreenNo)].settings.window ∧
    busy.screens[(0 : ScreenNo)].settings.lockN ≤ busy.screens[(0 : ScreenNo)].clock.inWindow + 1 ∧
    busy.screens[(2 : ScreenNo)].clock.inWindow + 1 < busy.screens[(2 : ScreenNo)].settings.lockN ∧
    busy.screens[(0 : ScreenNo)].settings.unlockN ≤ busy.screens[(0 : ScreenNo)].clock.outWindow + 1 ∧
    busy.screens[(2 : ScreenNo)].clock.outWindow + 1 < busy.screens[(2 : ScreenNo)].settings.unlockN ∧
    busy.reports.length < 32 ∧ 32 ≤ ({ busy with reports := (reporting 32).reports } : State).reports.length ∧
    signedDiff (BitVec.ofInt 32 (-4800)) (busy.stNow 0) < 0 ∧ 0 ≤ signedDiff 4800 (busy.stNow 0) := by decide +kernel

/-- A marker at LT and one past it; a list of seven and one of eight. -/
theorem witness_MarkerIsJudgedAtArrival :
    busy.screens[(0 : ScreenNo)].settings.clockMode = .referenced ∧
    (busy.screens[(0 : ScreenNo)].settings.lateLimit : Int) < signedDiff (busy.stNow 0) (BitVec.ofInt 32 (-481)) ∧
    ¬(busy.screens[(0 : ScreenNo)].settings.lateLimit : Int) < signedDiff (busy.stNow 0) (BitVec.ofInt 32 (-480)) ∧
    8 ≤ (onScreen busy fun x => { x with markers := List.replicate 8 { pt := 0, code := 0 } }).screens[(0 : ScreenNo)].markers.length ∧
    (onScreen busy fun x => { x with markers := List.replicate 7 { pt := 0, code := 0 } }).screens[(0 : ScreenNo)].markers.length < 8 := by decide +kernel

/-- A withdrawn boundary and one that falls; slip of each sign and 0; a fade at its last advance and before it; a count at the
timeout timeout and one short of it, in LOCKED and UNREFERENCED; a feed whose bank is the requested one, and one whose is not. -/
theorem witness_BoundaryAdvancesTheScreen :
    (onScreen busy fun x => { x with playout := { x.playout with voidedAt := some 0 } }).screens[(0 : ScreenNo)].playout.voidedAt =
      some busy.wordClock ∧
    busy.screens[(0 : ScreenNo)].playout.voidedAt ≠ some busy.wordClock ∧
    busy.screens[(0 : ScreenNo)].settings.clockMode ≠ .selfTimed ∧ busy.screens[(2 : ScreenNo)].playout.program = [] ∧
    busy.screens[(0 : ScreenNo)].clock.slip < 0 ∧ busy.screens[(2 : ScreenNo)].clock.slip = 0 ∧
    busy.screens[(2 : ScreenNo)].level.fade = none ∧
    busy.screens[(0 : ScreenNo)].level.fade = some { start := 100, target := 40, duration := 4, count := 3 } ∧
    4 ≤ 3 + 1 ∧ 2 + 1 < 4 ∧
    (busy.screens[(0 : ScreenNo)].clock.state = .locked ∧ busy.screens[(2 : ScreenNo)].clock.state = .unreferenced) ∧
    (1000 = (if busy.screens[(0 : ScreenNo)].clock.state = .unreferenced then 0
        else min (busy.screens[(0 : ScreenNo)].clock.sinceReference + 1) 65535) ∧
      busy.screens[(0 : ScreenNo)].settings.referenceTimeout = 1000 ∧ ¬1000 ≤ 999) ∧
    min (65535 + 1) 65535 = 65535 ∧
    (onScreen busy fun x => { x with level := { x.level with fade := some {
      start := 100, target := 40, duration := 4, count := 2 } } }).screens[(0 : ScreenNo)].level.fade =
      some { start := 100, target := 40, duration := 4, count := 2 } ∧
    busy.screens[(0 : ScreenNo)].level.requested = busy.screens[(0 : ScreenNo)].feeds[(15 : FeedNo)].active ∧
    (onScreen busy fun x => { x with level := { x.level with requested := .a } }).screens[(0 : ScreenNo)].level.requested ≠
      busy.screens[(0 : ScreenNo)].feeds[(15 : FeedNo)].active := by decide +kernel

/-- A SELF_TIMED screen with the resync flag set and a block queued, its LT at least 48: a head at the advanced ST, one
past it, with space for the notice and without, and one behind it. -/
theorem witness_DueResyncTakesTheHeadsTime :
    (∀ s ∈ [streams, resyncing 100, resyncing 40, { resyncing 100 with reports := (reporting 32).reports }],
      s.screens[(0 : ScreenNo)].playout.voidedAt ≠ some s.wordClock ∧
      s.screens[(0 : ScreenNo)].settings.clockMode = .selfTimed ∧ s.screens[(0 : ScreenNo)].playout.resync = true ∧
      48 ≤ s.screens[(0 : ScreenNo)].settings.lateLimit ∧
      s.screens[(0 : ScreenNo)].clock.base + BitVec.ofNat 32 s.screens[(0 : ScreenNo)].clock.advance = 48 ∧ s.clocksSound) ∧
    streams.screens[(0 : ScreenNo)].playout.program = blockOf 48 0 :: [] ∧
    (resyncing 100).screens[(0 : ScreenNo)].playout.program = blockOf 100 0 :: [] ∧ (100 : ScreenTime) ≠ 48 ∧
    (resyncing 40).screens[(0 : ScreenNo)].playout.program = blockOf 40 0 :: [] ∧ signedDiff 40 48 < 0 ∧
    0 ≤ signedDiff 100 48 ∧ (resyncing 100).reports.length < 32 ∧ 32 ≤ (reporting 32).reports.length := by
  unfold State.clocksSound Screen.clockSound settingsInRange
  decide +kernel

/-- A lateness at both ends of each row, for limits of 48. -/
theorem witness_SelectionFollowsTheTable :
    (48 : Int) ≤ 48 ∧ signedDiff 100 124 = -24 ∧ signedDiff 100 77 = 23 ∧ signedDiff 100 76 = 24 ∧ signedDiff 100 52 = 48 ∧
    signedDiff 100 51 = 49 ∧ signedDiff 100 125 = -25 ∧ signedDiff 100 148 = -48 ∧ signedDiff 100 149 = -49 := by decide +kernel

/-- A screen with an ACTIVE and a PRIMED entry, an ARRIVAL one, a pending resync, and a screen with neither. -/
theorem witness_SelectionAndPruningChargeTheEntries :
    streams.activeEntry 0 = some 0 ∧ busy.primedEntry 0 = some 1 ∧ busy.entries[(1 : EntryNo)].timing = .timed ∧
    busy.screens[(0 : ScreenNo)].settings.clockMode ≠ .selfTimed ∧ streams.screens[(0 : ScreenNo)].playout.resync = true ∧
    streams.screens[(0 : ScreenNo)].settings.clockMode = .selfTimed ∧
    (busy.modEntry 1 fun e => { e with timing := .arrival }).entries[(1 : EntryNo)].timing = .arrival ∧
    busy.primedEntry 5 = none ∧ busy.activeEntry 5 = none ∧ busy.screens[(5 : ScreenNo)].playout.standby = [] := by decide +kernel

/-- A boundary with a resync due and one with none, the flag set with nothing queued among them. -/
theorem witness_BoundarySelectsAndPrunes :
    (∀ s ∈ [streams, busy, onScreen streams fun x => { x with playout := { x.playout with program := [] } }],
      s.screens[(0 : ScreenNo)].playout.voidedAt ≠ some s.wordClock) ∧
    (streams.screens[(0 : ScreenNo)].settings.clockMode = .selfTimed ∧
      streams.screens[(0 : ScreenNo)].playout.resync = true ∧
      streams.screens[(0 : ScreenNo)].playout.program = blockOf 48 0 :: []) ∧
    busy.screens[(0 : ScreenNo)].settings.clockMode ≠ .selfTimed ∧ (4 : Fin 7) ≠ 2 ∧ (4 : Fin 7) ≠ 3 := by decide +kernel

/-- A muted screen in SHOW; a running check on feed 0, so that feed 15 is not under test at its last block; a gain above 24,
at it and below -160, with a reduction and without; a muted feed, in SHOW and under test; a feed under test and one not. -/
theorem witness_MutedScreenAndUntestedFeedsSendSilence :
    busy.screens[(2 : ScreenNo)].playout.voidedAt ≠ some busy.wordClock ∧ busy.screens[(2 : ScreenNo)].playout.mode = .show ∧
    busy.screens[(2 : ScreenNo)].level.muted = true ∧ busy.screens[(1 : ScreenNo)].playout.mode = .check ∧
    busy.screens[(1 : ScreenNo)].signal.check.running = true ∧
    busy.screens[(1 : ScreenNo)].signal.check.blockAt busy.screens[(1 : ScreenNo)].signal.check.nextCount = .closing ∧
    (runningCheck none).blockAt (runningCheck none).nextCount = .dwell 0 0 ∧ (0 : FeedNo) ≠ 15 ∧
    (10 : RecordNo).val = 10 + (0 : FeedNo).val ∧ (42 : RecordNo).val = 42 + (0 : FeedNo).val ∧
    busyScreen.playout.mode = .show ∧ busyScreen.level.muted = false ∧
    busyScreen.records[(10 : RecordNo)].state = .action ∧
    busyScreen.records[(10 : RecordNo)].recorded = some { action := .reduce, amount := 12 } ∧
    busyScreen.records[(11 : RecordNo)].state ≠ .action ∧ busyScreen.records[(42 : RecordNo)].state ≠ .action ∧
    faderCode busyScreen.level.fader = some 20 ∧ busyScreen.feeds[(0 : FeedNo)].trim + 20 - 12 = 32 ∧
    faderCode 1 = some (-176) ∧ (-40 : Int) + -176 - 0 < -160 ∧ faderCode 70 = some 0 ∧ (24 : Int) + 0 - 0 = 24 ∧
    mutedFeed.records[(42 : RecordNo)].state = .action ∧
    mutedFeed.records[(42 : RecordNo)].recorded = some { action := .muteFeed, amount := 0 } ∧
    ({ Signal.powerOn with check := runningCheck (some 7) } : Signal).checkBlock = some (.dwell 0 0) ∧
    ({ Signal.powerOn with check := runningCheck (some 8) } : Signal).checkBlock = some .gap := by decide +kernel

/-- A boundary of a screen in SHOW and one in CHECK; a check running, and none. -/
theorem witness_BoundarySendsTheGainedWords :
    busy.screens[(0 : ScreenNo)].playout.voidedAt ≠ some busy.wordClock ∧
    busy.screens[(1 : ScreenNo)].playout.voidedAt ≠ some busy.wordClock ∧
    (busy.latchedScreen 0).latchSettings.mode = .show ∧ (busy.latchedScreen 1).latchSettings.mode = .check ∧
    busy.screens[(1 : ScreenNo)].signal.check.running = true ∧
    busy.screens[(0 : ScreenNo)].signal.check.running = false := by decide +kernel

/-- Sound cues, another screen, and entries and cues of it. -/
theorem witness_BoundaryLeavesOtherScreensAlone :
    busy.cuesSound ∧ (1 : ScreenNo) ≠ 0 ∧ busy.entries[(0 : EntryNo)].screen ≠ 1 ∧ busy.cues[(0 : CueNo)].spec.screen ≠ (1 : ScreenNo).val := ⟨busy_cues, by decide +kernel⟩

/-- A lane with no block awaiting, one with two whose older slot is empty, and one whose older slot is filled. -/
theorem witness_BoundaryHandsOverTheReturnTwoBack :
    busy.lanesSound ∧ busy.screens[(0 : ScreenNo)].playout.voidedAt ≠ some busy.wordClock ∧
    busy.screens[(1 : ScreenNo)].playout.voidedAt ≠ some busy.wordClock ∧
    busy.screens[(1 : ScreenNo)].lanes[(0 : Fin 2)].awaiting.length < 2 ∧
    busy.screens[(0 : ScreenNo)].lanes[(1 : Fin 2)].awaiting = { count := 0, slot := none } :: [{ count := 1, slot := none }] ∧
    returned.lanesSound ∧ returned.screens[(0 : ScreenNo)].playout.voidedAt ≠ some returned.wordClock ∧
    returned.screens[(0 : ScreenNo)].lanes[(1 : Fin 2)].awaiting = fullSlot :: [{ count := 1, slot := none }] ∧
    fullSlot.slot = some (Vector.replicate 8 { peak := 65535, protect := true, thermal := false }) := ⟨busy_lanes, by decide +kernel, by decide +kernel, by decide +kernel, by decide +kernel, returned_lanes, by decide +kernel⟩

/-- A LOCKED clock one block short of the timeout and two short of it; a fade at its last advance and before it. -/
theorem witness_FadeEndAndReferenceTimeoutFallDue :
    min (busy.screens[(0 : ScreenNo)].clock.sinceReference + 1) 65535 = busy.screens[(0 : ScreenNo)].settings.referenceTimeout ∧
    busy.screens[(0 : ScreenNo)].clock.state = .locked ∧ ¬busy.screens[(2 : ScreenNo)].clock.state = .locked ∧
    busy.screens[(0 : ScreenNo)].level.fade = some { start := 100, target := 40, duration := 4, count := 3 } ∧
    4 ≤ 3 + 1 ∧ 2 + 1 < 4 := by decide +kernel

/-- A meter due with space and without, one not due; a check at its closing block and none; the last dwell block of a feed,
its gap and the closing block; the first block of a check and a later one; a return that is a hit, and none. -/
theorem witness_MeterAndCheckFallDue :
    busy.reportsSound ∧ (reporting 32).reportsSound ∧ busy.reports.length < 32 ∧ (reporting 32).reports.length = 32 ∧
    (0 < busy.screens[(0 : ScreenNo)].settings.meterInterval ∧
      100 * busy.screens[(0 : ScreenNo)].settings.meterInterval ≤ busy.screens[(0 : ScreenNo)].meterCount + 1) ∧
    ¬0 < busy.screens[(1 : ScreenNo)].settings.meterInterval ∧ busy.screens[(1 : ScreenNo)].signal.check.running = true ∧
    busy.screens[(1 : ScreenNo)].signal.check.count = some 8 ∧
    busy.screens[(1 : ScreenNo)].signal.check.feeds.length * (busy.screens[(1 : ScreenNo)].signal.check.spec.dwell + 1) ≤ 8 + 1 ∧
    ¬busy.screens[(0 : ScreenNo)].signal.check.running = true ∧
    (7 < 1 * 9 ∧ 7 % 9 < 8 ∧ (runningCheck none).feeds[7 / 9]? = some 0) ∧ (8 < 1 * 9 ∧ 8 % 9 = 8) ∧ 1 * 9 ≤ 9 ∧
    ((runningCheck none).running = true ∧ (runningCheck none).blockAt 0 = .dwell 0 0 ∧ 0 % (8 + 1) = 0) ∧
    ((runningCheck (some 0)).count = some 0 ∧ 1 % (8 + 1) ≠ 0) ∧
    (2 ≤ 9 ∧ (runningCheck (some 9)).blockAt (9 - 2) = .dwell 0 0 ∧
      feedReturn (Vector.replicate 2 (.received (Vector.replicate 8 { peak := 1, protect := false, thermal := false }))) 0 =
        .received { peak := 1, protect := false, thermal := false } ∧
      feedReturn (Vector.replicate 2 .lost) 0 = .lost) ∧
    (0 < 9 ∧ 9 % (8 + 1) = 0 ∧ (runningCheck (some 9)).feeds[9 / (8 + 1) - 1]? = some 0) ∧
    (runningCheck (some 9)).feeds.length * (8 + 1) = 9 ∧ 8 ≠ (runningCheck (some 8)).feeds.length * (8 + 1) := ⟨busy_reports, reporting_sound.2.1, by decide +kernel⟩

/-- A boundary with the meter due, with space and without; with none due, the interval 0 and above it; lanes in step; a check
running, and none; a peak of 0 and one of a full-scale word. -/
theorem witness_BoundaryMeasuresAndChecks :
    (∀ s ∈ [busy, { busy with reports := (reporting 32).reports }, onScreen busy fun x => { x with meterCount := 98 }],
      s.screens[(0 : ScreenNo)].playout.voidedAt ≠ some s.wordClock) ∧
    busy.screens[(1 : ScreenNo)].playout.voidedAt ≠ some busy.wordClock ∧ busy.lanesSound ∧
    (0 < busy.screens[(0 : ScreenNo)].settings.meterInterval ∧
      100 * busy.screens[(0 : ScreenNo)].settings.meterInterval ≤ busy.screens[(0 : ScreenNo)].meterCount + 1) ∧
    ¬100 * busy.screens[(0 : ScreenNo)].settings.meterInterval ≤ 98 + 1 ∧
    busy.screens[(1 : ScreenNo)].settings.meterInterval = 0 ∧
    busy.screens[(1 : ScreenNo)].signal.check.running = true ∧
    busy.screens[(0 : ScreenNo)].signal.check.running = false ∧ peakOf silence = 0 ∧ peakOf [-8388608, 1] = 8388608 := ⟨by decide +kernel, by decide +kernel, busy_lanes, by decide +kernel⟩

/-- An ARMED cue at its last block; a timed cue due, one overdue with CATCH_UP, one missed, one kept from it by its go
request, one not yet; a marker due with a cue of its code, and none due. -/
theorem witness_CueEventsFireTheDueCues :
    cueing.cues[(1 : CueNo)].spec.screen = (0 : ScreenNo).val ∧ cueing.cues[(1 : CueNo)].state = .armed ∧
    cueing.cues[(1 : CueNo)].countdown = some 1 ∧ cueing.screens[(0 : ScreenNo)].cuesHeld = false ∧
    (∀ n ∈ [(2 : CueNo), 4, 8, 9, 10], cueing.cues[n].state = .pending ∧ cueing.cues[n].spec.trigger = .atTime) ∧
    (∀ d ∈ [((2 : CueNo), (0 : Int)), (4, 48), (8, 48), (9, 48), (10, -1)],
      signedDiff cueing.screens[(0 : ScreenNo)].clock.base cueing.cues[d.1].spec.time = d.2) ∧
    (cueing.cues[(4 : CueNo)].spec.catchUp = false ∧ cueing.cues[(4 : CueNo)].go = false) ∧
    cueing.cues[(8 : CueNo)].spec.catchUp = true ∧ cueing.cues[(9 : CueNo)].go = true ∧
    (false = true ↔ ∃ e, cueing.activeEntry 0 = some e ∧ cueing.entries[e].timing = .arrival) ∧
    (∃ m ∈ cueing.screens[(0 : ScreenNo)].markers,
      -24 ≤ signedDiff cueing.screens[(0 : ScreenNo)].clock.base m.pt ∧ m.code = cueing.cues[(3 : CueNo)].spec.markerCode) ∧
    cueing.cues[(3 : CueNo)].state = .pending ∧ cueing.cues[(3 : CueNo)].spec.trigger = .onMarker ∧
    cueing.screens[(1 : ScreenNo)].markers = [] ∧ ¬-24 ≤ signedDiff (0 : ScreenTime) 25 := by decide +kernel

/-- A preset in use, one not and one outside the table; a check running and none; an entry of the screen in each state, one
of another screen and one outside the table; a child armed, one so released, and one neither. -/
theorem witness_CueActions :
    (cueing.presets[(0 : PresetNo)].used = true ∧ cueing.presets[(15 : PresetNo)].used = false ∧ ¬∃ p : PresetNo, 16 = p.val) ∧
    cueing.screens[(1 : ScreenNo)].signal.check.running = true ∧ cueing.screens[(0 : ScreenNo)].signal.check.running = false ∧
    CheckRecord.powerOn.spec.kind ≠ .off ∧
    (∀ d ∈ [((0 : EntryNo), EntryState.active), (1, .primed), (2, .inactive)],
      cueing.entries[d.1].screen = 0 ∧ cueing.entries[d.1].state = d.2) ∧
    cueing.entries[(31 : EntryNo)].state = .unused ∧ cueing.entries[(1 : EntryNo)].screen ≠ 1 ∧ (¬∃ e : EntryNo, 32 = e.val) ∧
    (∀ d ∈ [((1 : CueNo), CueState.armed, 0), (6, .fired, 0), (7, .armed, 6)],
      cueing.cues[d.1].spec.trigger = .after ∧ cueing.cues[d.1].state = d.2.1 ∧ cueing.cues[d.1].spec.parent = d.2.2) ∧
    cueing.cues[(2 : CueNo)].spec.trigger ≠ .after := by decide +kernel

/-- A cue stage with an ARMED, a timed, an overdue, a marker and a requested cue due, and one MISSED. -/
theorem witness_CueStage :
    ∃ (u : State) (isDue : CueNo → Bool),
    (∀ n : CueNo, isDue n = true ↔ cueing.cues[n].spec.screen = (0 : ScreenNo).val ∧
      ((cueing.cues[n].state = .armed ∧ ∃ c, cueing.cues[n].countdown = some c ∧ c ≤ 1) ∨
        (false = false ∧ cueing.cues[n].state = .pending ∧ cueing.cues[n].spec.trigger = .atTime ∧
          0 ≤ signedDiff 0 cueing.cues[n].spec.time ∧
          (signedDiff 0 cueing.cues[n].spec.time ≤ 47 ∨ cueing.cues[n].spec.catchUp = true)) ∨
        (cueing.cues[n].state = .pending ∧ cueing.cues[n].spec.trigger = .onMarker ∧
          ∃ m ∈ cueing.dueMarkers 0 0, m.code = cueing.cues[n].spec.markerCode) ∨ cueing.cues[n].go = true)) ∧
    u = { cueing with
      screens := cueing.screens.set 0
        { cueing.screens[(0 : ScreenNo)] with
          markers := cueing.screens[(0 : ScreenNo)].markers.filter fun m => !markerIsDue (cueing.arrivalScreen 0) 0 m }
      cues := u.cues } ∧
    (∀ n : CueNo, u.cues[n] =
      if cueing.cues[n].spec.screen = (0 : ScreenNo).val then
        if false = false ∧ cueing.cues[n].timeMissed 0 = true then { cueing.cues[n] with state := .missed }
        else
          { cueing.cues[n] with
            go := false
            countdown :=
              match cueing.cues[n].state, cueing.cues[n].countdown with
              | .armed, some c => if c ≤ 1 then none else some (c - 1)
              | _, c => c }
      else cueing.cues[n]) ∧
    (List.finRange 256).filter isDue = [1, 2, 3, 7, 8, 9] ∧ cueing.cues[(4 : CueNo)].timeMissed 0 = true := by
  refine ⟨cueing.judgeCues 0 0 false, fun n =>
    cueing.cues[n].spec.screen = (0 : ScreenNo).val && cueing.cues[n].isDue 0 false (cueing.dueMarkers 0 0), fun n => ?_,
    State.judgeCues_eq 0 0 false cueing, fun n => State.judgeCues_get 0 0 false cueing n, by decide +kernel,
    by decide +kernel⟩
  rw [Bool.and_eq_true, decide_eq_true_eq, Cue.isDue_iff]

/-- A boundary that falls, with the timed cues held and not, and a resync due and not. -/
theorem witness_CueStageEndsTheBoundary :
    cueing.screens[(0 : ScreenNo)].playout.voidedAt ≠ some cueing.wordClock ∧
    cueing.screens[(0 : ScreenNo)].records[(9 : RecordNo)].state ≠ .action ∧
    (onScreen cueing fun x => { x with records := x.records.set 9 holding }).screens[(0 : ScreenNo)].records[
      (9 : RecordNo)] = holding ∧
    holding.state = .action ∧ holding.recorded = some { action := .holdCues, amount := 0 } ∧
    cueing.screens[(0 : ScreenNo)].settings.clockMode ≠ .selfTimed ∧
    streams.screens[(0 : ScreenNo)].settings.clockMode = .selfTimed ∧
    streams.screens[(0 : ScreenNo)].playout.resync = true ∧ streams.screens[(0 : ScreenNo)].playout.program ≠ [] := by decide +kernel

/-- The last lane; a record of a wrong length; a count awaited, one awaited twice, and one not awaited. -/
theorem witness_LaneRecordsAreSentAndMatched :
    (11 : LaneNo).val = 2 * (5 : ScreenNo).val + (1 : Fin 2).val ∧
    busy.screens[(0 : ScreenNo)].lanes[(0 : Fin 2)].awaiting =
      [{ count := 0, slot := none }] ++ { count := 1, slot := none } :: [] ∧
    (∀ a ∈ [({ count := 0, slot := none } : Awaiting)], a.count ≠ 1) ∧
    (∀ a ∈ busy.screens[(0 : ScreenNo)].lanes[(0 : Fin 2)].awaiting, a.count ≠ 2) ∧
    (List.replicate 24 (0 : Byte)).length = 24 := by decide +kernel

/-- The empty run of bytes is no sense record. -/
theorem witness_NotASenseRecord :
    ¬∃ body, body.length = 26 ∧ ([] : List Byte) = withCheck body := by
  rintro ⟨body, -, h⟩
  have := congrArg List.length h
  simp [withCheck] at this

/-- The ends of the fader and code ranges. -/
theorem witness_FaderAndGainFollowTheirScales :
    (1 : Nat) ≤ 1 ∧ 39 ≤ 39 ∧ 40 ≤ 40 ∧ 100 ≤ 100 ∧ (-160 : Int) = 12 * (-14) + (8 : Fin 12).val ∧ (24 : Int) = 12 * 2 + (0 : Fin 12).val ∧
    (-2147483648 : Int) ≤ -2147483648 ∧ (2147483647 : Int) ≤ 2147483647 := by decide +kernel

/-- A bank run on no word and on one; the active bank requested, and the other; the last sample of a block. -/
theorem witness_BanksRunTheDirectFormAndCrossfade :
    runSections [] 5 = (5, [], 0) ∧ runBank [] [5] = runBank [] (5 :: []) ∧
    runBank [] silence = runBank (Feed.powerOn.bank Feed.powerOn.active) silence ∧ Bank.b ≠ Feed.powerOn.active ∧
    runBank [] silence = runBank (restBank (Feed.powerOn.bank .b)) silence ∧ 47 < silence.length ∧
    max (-2147483648) (min 2147483647 (((4194304 : Int) * 5 + 2097152).fdiv 4194304)) = 5 := by decide +kernel

/-- A channel present, one whose present bit is clear and one past n; a CH_LOSS record in ACTION with FILL; a fill of each
mode, with one donor and with two; a feed in the set and one outside it; the ends of the ranges. -/
theorem witness_RenderNeedsNoSaturation :
    47 < 48 ∧ (∀ c : ChannelNo, (Vector.replicate 8 silence)[c].length = 48) ∧ onePreset.feedSet.getLsbD 0 = true ∧
    onePreset.feedSet.getLsbD 15 = false ∧ (-32768 : Int) ≤ -32768 ∧ (32767 : Int) ≤ 32767 ∧ (-8388608 : Int) ≤ -8388608 ∧
    (8388607 : Int) ≤ 8388607 ∧ (blockOf 48 0).samples[(0 : ChannelNo).val]? = some silence ∧
    (0 < (blockOf 48 0).channels ∧ (blockOf 48 0).present.getLsbD 0 = true) ∧ ¬1 < (blockOf 48 0).channels ∧
    ({ blockOf 48 0 with present := 0 } : Block).present.getLsbD 0 = false ∧
    (filledScreen.records[(7 : RecordNo)].state = .action ∧
      filledScreen.records[(7 : RecordNo)].recorded = some { action := .fill, amount := 0 }) ∧
    (7 < ({ onePreset with channels := 8 } : Preset).channels ∧ filledScreen.filled 7 = true) ∧
    (0 < onePreset.channels ∧ filledScreen.filled 0 = false ∧ onePreset.fill[(0 : ChannelNo)].mode = .none) ∧
    (∀ m ∈ [FillMode.none, .mute, .fill], ({ onePreset.fill[(0 : ChannelNo)] with mode := m } : FillEntry).mode = m) ∧
    (∀ d ∈ [none, some ((7 : ChannelNo).val, (32767 : Int))],
      ({ mode := .fill, donorA := 0, coefA := -32768, donorB := d } : FillEntry).donorB = d) := by decide +kernel

/-- The seed, and a bit below the top; a tone place past the end of the table; a level at each end; a pattern with a feed in
its mask and one outside; a feed under test, one not, and the gap. -/
theorem witness_NoiseRegisterStepsAndNeverStops :
    (1 : BitVec 23) ≠ 0 ∧ 21 < 22 ∧ (47 < 48 ∧ (30 : Fin 32).val = ((15 : Fin 32).val + 47) % 32) ∧
    ((-160 : Int) = 12 * (-14) + (8 : Fin 12).val ∧ (0 : Int) = 12 * 0 + (0 : Fin 12).val) ∧ inSampleRange (-8388608) ∧
    (∀ kind ∈ [PatternKind.noise, .tone], ∀ k ∈ [(0 : FeedNo), 15],
      ({ showing with pattern := some { kind := kind, level := 0, mask := 1 } } : Latched).pattern =
        some { kind := kind, level := 0, mask := 1 } ∧ ((1 : BitVec 16).getLsbD k.val = true ↔ k = 0)) ∧
    showing.mode = .show ∧ showing.pattern = none ∧
    (∀ b ∈ [CheckBlock.dwell 0 0, .gap, .closing],
      ({ showing with mode := .check, checkBlock := some b } : Latched).checkBlock = some b) ∧
    (runningCheck none).spec.kind = .noise := by
  unfold inSampleRange
  decide

/-- A record of each table at an end of its byte ranges; a flag and the first presence byte of a PRESET and the flags of a CUE
above 1. -/
theorem witness_RecordReadBackIsTheRecordWritten :
    ({ onePreset with channels := 255 } : Preset).wf = true ∧ ([] : List Section).length < 256 ∧
    ([{ b0 := -8388608, b1 := 8388607, b2 := 0, a1 := 0, a2 := 0 }] : List Section).all Section.wf = true ∧
    ({ Profile.powerOn with threshold := 4294967295 } : Profile).wf = true ∧
    (Vector.replicate 32 (-8388608 : Int)).toList.all (fitsInt 3) = true ∧
    ({ ScreenSettings.powerOn with referenceOffset := -2147483648 } : ScreenSettings).wf = true ∧ fitsInt 1 (-128) = true ∧
    ({ kind := .tone, level := -32768, mask := 65535 } : PatternSpec).wf = true ∧ CheckRecord.powerOn.spec.wf = true ∧
    ({ number := 65535, screen := 255, channels := 255, order := .lsbFirst, timing := .arrival } : StreamWrite).wf = true ∧
    ({ CueSpec.powerOn with delay := 65535, time := 4294967295 } : CueSpec).wf = true ∧ (255 : Byte) ≠ 0 ∧
    plainFlag 255 = 1 ∧ 265 = 265 + fillsLength 0 ((zeroBytes 304).drop 261) ∧ ((zeroBytes 304).set 265 255).getD 265 0 ≠ 0 ∧
    (zeroBytes 36).length = 36 := by decide +kernel

end Sys2Proof.Tests
end

section
/-! PROOFS. R95 and R103: the fader code and the mantissa method of the gain stage. -/

namespace Sys2Proof.Machine

/-! ## The fader code -/

/-- R95: the fader value 0 is silent. -/
@[simp] theorem faderCode_zero : faderCode 0 = none := rfl

/-- R95: the steep slope. -/
theorem faderCode_steep {f : Nat} (h1 : 1 ≤ f) (h39 : f ≤ 39) : faderCode f = some (-20 + 4 * ((f : Int) - 40)) := by
  rw [faderCode, if_neg (by omega), if_pos (by omega)]

/-- Rounding 2n/3 half up in natural numbers gives the integer less than a half away from it; 2n/3 is never a half. -/
theorem two_thirds_nearest (n : Nat) :
    2 * (3 * (((2 * (2 * n) + 3) / 6 : Nat) : Int) - 2 * (n : Int)) < 3 ∧
      -3 < 2 * (3 * (((2 * (2 * n) + 3) / 6 : Nat) : Int) - 2 * (n : Int)) := by
  omega

/-- R95: from 40 up the code is the integer nearest to 2(f - 70)/3; below 70 it is rounded in magnitude and negated. -/
theorem faderCode_nearest {f : Nat} (h40 : 40 ≤ f) :
    ∃ c : Int, faderCode f = some c ∧
      2 * (3 * c - 2 * ((f : Int) - 70)) < 3 ∧ -3 < 2 * (3 * c - 2 * ((f : Int) - 70)) := by
  rw [faderCode, if_neg (by omega), if_neg (by omega)]
  by_cases h70 : f < 70
  · have hn := two_thirds_nearest (70 - f)
    exact ⟨_, if_pos h70, by omega, by omega⟩
  · have hn := two_thirds_nearest (f - 70)
    exact ⟨_, if_neg h70, by omega, by omega⟩

/-! ## The mantissa method -/

/-- Round half up of a value within `b` units lies within `b`. -/
theorem roundShift_mem {v b : Int} {k : Nat} (hk : 1 ≤ k) (hlo : -(b * 2 ^ k) ≤ v) (hhi : v ≤ b * 2 ^ k) :
    -b ≤ roundShift v k ∧ roundShift v k ≤ b := by
  have hhalf : (0 : Int) < 2 ^ (k - 1) := Int.pow_pos (by decide)
  have hunit : (2 : Int) ^ k = 2 ^ (k - 1) * 2 := by rw [← Int.pow_succ, Nat.succ_eq_add_one, Nat.sub_add_cancel hk]
  have hpos : (0 : Int) < 2 ^ k := by omega
  constructor
  · rw [roundShift, Int.le_ediv_iff_mul_le hpos, Int.neg_mul]
    omega
  · rw [roundShift, ← Int.lt_add_one_iff, Int.ediv_lt_iff_lt_mul hpos, Int.add_mul]
    omega

/-- R103: each mantissa lies between 0 and 2. -/
theorem mantissa_range (r : Fin 12) : 0 ≤ mantissa r.val ∧ mantissa r.val ≤ 2 ^ 24 := by
  revert r
  decide

/-- R103: a code of at most 24 scales by at most 4: in the octave 2 only the mantissa 1 is left, and a lower octave
scales by at most 2 times its mantissa. -/
theorem mantissa_le_four {q : Int} {r : Fin 12} (h : 12 * q + r.val ≤ 24) :
    mantissa r.val ≤ 4 * 2 ^ (23 - q).toNat := by
  by_cases hq : q = 2
  · have hr : r.val = 0 := by omega
    rw [hq, hr]
    decide
  · have hk : 22 ≤ (23 - q).toNat := by omega
    have hpow : (2 : Int) ^ 22 ≤ 2 ^ (23 - q).toNat := by exact_mod_cast Nat.pow_le_pow_right (by decide) hk
    calc mantissa r.val ≤ 4 * 2 ^ 22 := (mantissa_range r).2
      _ ≤ 4 * 2 ^ (23 - q).toNat := Int.mul_le_mul_of_nonneg_left hpow (by decide)

/-- R103: a gain code 12q + r is applied by its mantissa and a shift right of 23 - q, rounded half up. -/
theorem applyGain_eq (y : Int) {q : Int} (r : Fin 12) (hq : q ≤ 22) :
    applyGain (some (12 * q + r.val)) y =
      (y * mantissa r.val + 2 ^ (22 - q).toNat).fdiv (2 ^ (23 - q).toNat) := by
  have hk : (23 - q).toNat - 1 = (22 - q).toNat := by omega
  rw [applyGain, scaleByCode_eq, roundShift_eq_fdiv, hk]

/-- R103: a 32-bit word under a gain of at most 24 stays within 2^33, four times its range. -/
theorem applyGain_mem {y q : Int} {r : Fin 12} (hg : 12 * q + r.val ≤ 24) (hlo : -2147483648 ≤ y)
    (hhi : y ≤ 2147483647) :
    -8589934592 ≤ applyGain (some (12 * q + r.val)) y ∧ applyGain (some (12 * q + r.val)) y ≤ 8589934592 := by
  have hm0 := (mantissa_range r).1
  have hm4 := mantissa_le_four hg
  have hk : 1 ≤ (23 - q).toNat := by omega
  rw [applyGain, scaleByCode_eq]
  apply roundShift_mem hk
  · have := Int.mul_le_mul_of_nonneg_right hlo hm0
    omega
  · have := Int.mul_le_mul_of_nonneg_right hhi hm0
    omega

/-- Settles O56: the slopes of the fader code, then the mantissa method and its bound for a code 12q + r. -/
theorem faderAndGainFollowTheirScales : Obligations.FaderAndGainFollowTheirScales := by
  refine ⟨⟨faderCode_zero, fun _ h1 h39 => faderCode_steep h1 h39, fun _ h40 _ => faderCode_nearest h40⟩, ?_⟩
  intro y g q r m hg _ hg24 hm
  have hmantissa : m = mantissa r.val := hm
  subst hg hmantissa
  exact ⟨applyGain_none y, applyGain_eq y r (by omega), applyGain_mem hg24⟩

end Sys2Proof.Machine
end

section
/-! PROOFS. R134 and R143 to R145: the table of escalation, the records a latched preset puts in use (R78), and the
records and frames a boundary leaves by them. -/

namespace Sys2Proof.Machine

/-! ## The table of escalation -/

/-- R143: a neutral judgement changes no field in any state. -/
theorem AlarmRecord.evaluate_neutral (r : AlarmRecord) (p : Profile) (t : ScreenTime) :
    r.evaluate p t .neutral = (r, none) := rfl

/-- R143: a clearing block below K. -/
theorem AlarmRecord.clearing_of_lt {r : AlarmRecord} {p : Profile} (h : satInc r.clear < p.clearAfter) :
    r.clearing p = ({ r with clear := satInc r.clear }, none) :=
  if_neg (Nat.not_le.mpr h)

/-- R143, R144: the clearing block that reaches K. -/
theorem AlarmRecord.clearing_of_le {r : AlarmRecord} {p : Profile} (h : p.clearAfter ≤ satInc r.clear) :
    r.clearing p = (r.settle, some 2) :=
  if_pos h

/-- R143, R144: the row of NORMAL. -/
theorem AlarmRecord.evaluate_of_normal {r : AlarmRecord} (h : r.state = .normal) (p : Profile) (t : ScreenTime) :
    r.evaluate p t .clearing = ({ r with run := 0 }, none) ∧
    (satInc r.run < p.warnAfter → r.evaluate p t .qualifying = ({ r with run := satInc r.run }, none)) ∧
    (p.warnAfter ≤ satInc r.run → r.evaluate p t .qualifying = (r.warn t, some 0)) := by
  unfold AlarmRecord.evaluate
  rw [h]
  exact ⟨rfl, fun hn => if_neg (Nat.not_le.mpr hn), fun hn => if_pos hn⟩

/-- R143, R144: the row of WARNING; an E of 0 never acts. -/
theorem AlarmRecord.evaluate_of_warning {r : AlarmRecord} (h : r.state = .warning) (p : Profile) (t : ScreenTime) :
    (p.actAfter = 0 ∨ satInc r.run < p.actAfter →
      r.evaluate p t .qualifying = ({ r with run := satInc r.run, clear := 0 }, none)) ∧
    (0 < p.actAfter → p.actAfter ≤ satInc r.run → r.evaluate p t .qualifying = (r.act p, some 1)) ∧
    r.evaluate p t .clearing = ({ r with run := 0 } : AlarmRecord).clearing p := by
  unfold AlarmRecord.evaluate
  rw [h]
  exact ⟨fun hn => if_neg (by omega), fun h0 hn => if_pos ⟨h0, hn⟩, rfl⟩

/-- R143: the rows of ACKED and ACTION agree. -/
theorem AlarmRecord.evaluate_of_held {r : AlarmRecord} (h : r.state = .acked ∨ r.state = .action) (p : Profile)
    (t : ScreenTime) :
    r.evaluate p t .qualifying = ({ r with clear := 0 }, none) ∧ r.evaluate p t .clearing = r.clearing p := by
  unfold AlarmRecord.evaluate
  rcases h with h | h <;> rw [h] <;> exact ⟨rfl, rfl⟩

/-! ## Records in use -/

/-- R133: the kind and the subject of a record, by its place among the 58: channels, the two screen kinds, and the three
kinds of the sixteen feeds. -/
theorem recordKind_cases (k : RecordNo) :
    (k.val < 8 ∧ recordKind k = .chLoss ∧ recordSubject k = k.val) ∨
    ((k.val = 8 ∨ k.val = 9) ∧ (recordKind k = .starve ∨ recordKind k = .refLost)) ∨
    ∃ f : FeedNo, (k.val = 10 + f.val ∨ k.val = 26 + f.val ∨ k.val = 42 + f.val) ∧
      (recordKind k = .overload ∨ recordKind k = .feedOpen ∨ recordKind k = .ampFault) ∧ recordSubject k = f.val := by
  revert k
  decide

/-- R78: a CH_LOSS record is in use for a monitored channel of the latched preset. -/
theorem recordInUse_of_channel {k : RecordNo} (hk : recordKind k = .chLoss) (latched : Option LatchedPreset) :
    recordInUse latched k = true ↔ ∃ l, latched = some l ∧ recordSubject k < l.preset.channels ∧
      l.preset.monitored.getLsbD (recordSubject k) = true := by
  unfold recordInUse
  rw [hk]
  cases latched <;> simp

/-- R78: STARVE and REF_LOST are in use always. -/
theorem recordInUse_of_screen {k : RecordNo} (hk : recordKind k = .starve ∨ recordKind k = .refLost)
    (latched : Option LatchedPreset) : recordInUse latched k = true := by
  unfold recordInUse
  rcases hk with hk | hk <;> rw [hk]

/-- R78: a feed's records are in use while the latched preset's feed set has the feed. -/
theorem recordInUse_of_feed {k : RecordNo}
    (hk : recordKind k = .overload ∨ recordKind k = .feedOpen ∨ recordKind k = .ampFault)
    (latched : Option LatchedPreset) :
    recordInUse latched k = true ↔ ∃ l, latched = some l ∧ l.preset.feedSet.getLsbD (recordSubject k) = true := by
  unfold recordInUse
  rcases hk with hk | hk | hk <;> rw [hk] <;> cases latched <;> simp

/-- R78, R133: the records in use, by their places. -/
theorem recordInUse_iff (latched : Option LatchedPreset) (k : RecordNo) :
    recordInUse latched k = true ↔
      k.val = 8 ∨ k.val = 9 ∨ ∃ l, latched = some l ∧
        ((k.val < 8 ∧ k.val < l.preset.channels ∧ l.preset.monitored.getLsbD k.val = true) ∨
          ∃ f : FeedNo, (k.val = 10 + f.val ∨ k.val = 26 + f.val ∨ k.val = 42 + f.val) ∧
            l.preset.feedSet.getLsbD f.val = true) := by
  rcases recordKind_cases k with ⟨hk, hkind, hsub⟩ | ⟨hk, hkind⟩ | ⟨f, hk, hkind, hsub⟩
  · rw [recordInUse_of_channel hkind, hsub]
    constructor
    · rintro ⟨l, hl, hc, hm⟩
      exact .inr (.inr ⟨l, hl, .inl ⟨hk, hc, hm⟩⟩)
    · rintro (h | h | ⟨l, hl, ⟨-, hc, hm⟩ | ⟨g, hg, -⟩⟩)
      · omega
      · omega
      · exact ⟨l, hl, hc, hm⟩
      · omega
  · exact iff_of_true (recordInUse_of_screen hkind latched) (hk.imp_right .inl)
  · rw [recordInUse_of_feed hkind, hsub]
    constructor
    · rintro ⟨l, hl, hf⟩
      exact .inr (.inr ⟨l, hl, .inr ⟨f, hk, hf⟩⟩)
    · rintro (h | h | ⟨l, hl, ⟨h, -⟩ | ⟨g, hg, hset⟩⟩)
      · omega
      · omega
      · omega
      · have hfg : f = g := Fin.ext (by omega)
        exact ⟨l, hl, hfg ▸ hset⟩

/-! ## The CLOCK notices of a boundary -/

/-- R64: a CLOCK notice of screen i. -/
def clockNotice (i : ScreenNo) (state : Nat) (d : Int) (st : ScreenTime) : UpFrame :=
  .notice { kind := .clock, screen := i, subject := 0, state := state, valueA := 0, valueB := d, st := st }

/-- R50: the advance leaves e at 0. -/
theorem Clock.advanced_now (c : Clock) : c.advanced.now = c.base + BitVec.ofNat 32 c.advance := by
  simp [Clock.now, Clock.advanced]

/-- R61: a LOCKED clock counts the block, up to 65535. -/
theorem Clock.countBlock_sinceReference {c : Clock} (h : c.state = .locked) :
    c.countBlock.sinceReference = min (c.sinceReference + 1) 65535 := by
  simp [Clock.countBlock, h, satInc_eq]

/-- R61, R64: the notice of a timeout carries HOLDOVER, no step and the advanced ST. -/
theorem Clock.timeoutFrames_advanced (i : ScreenNo) (c : Clock) (timeout : Nat) :
    c.advanced.timeoutFrames i timeout =
      if c.state = .locked ∧ timeout ≤ min (c.sinceReference + 1) 65535 then
        [clockNotice i 3 0 (c.base + BitVec.ofNat 32 c.advance)] else [] := by
  have hdue : (c.advanced.state = .locked ∧ timeout ≤ c.advanced.countBlock.sinceReference) ↔
      (c.state = .locked ∧ timeout ≤ min (c.sinceReference + 1) 65535) :=
    and_congr_right fun h => Eq.to_iff (congrArg (timeout ≤ ·) (Clock.countBlock_sinceReference h))
  unfold Clock.timeoutFrames clockNotice
  simp only [hdue, Clock.advanced_now]

/-- R61: neither the count nor the timeout moves ST. -/
theorem Clock.counted_base (c : Clock) (timeout : Nat) : (c.counted timeout).base = c.base := by
  unfold Clock.counted
  split <;> rfl

/-- R44, R64: the notice of a due resync that is a step carries the clock's state, the step and the time stepped to. -/
theorem Clock.resyncFrames_eq (i : ScreenNo) (c : Clock) (pt : Option ScreenTime) :
    c.resyncFrames i pt =
      if pt.isSome ∧ (c.resynced pt).base ≠ c.base then
        [clockNotice i (c.resynced pt).state.code (signedDiff (c.resynced pt).base c.base) (c.resynced pt).base]
      else [] := by
  cases pt with
  | none => rfl
  | some time =>
    unfold Clock.resyncFrames Clock.resynced clockNotice
    by_cases h : time = c.base <;> simp [h]

/-- R39, R44, R61, R64: the CLOCK notices of stage 2 from the clock it begins with and the one it leaves. -/
theorem Screen.clockFrames_eq (i : ScreenNo) (x : Screen) (advanced : ScreenTime)
    (ha : advanced = x.clock.base + BitVec.ofNat 32 x.clock.advance) :
    x.clockFrames i =
      (if x.clock.state = .locked ∧ x.settings.referenceTimeout ≤ min (x.clock.sinceReference + 1) 65535 then
        [clockNotice i 3 0 advanced] else []) ++
      (if (x.settings.clockMode = .selfTimed ∧ x.playout.resync = true ∧ x.playout.program ≠ []) ∧
          x.timed.base ≠ advanced then
        [clockNotice i x.timed.state.code (signedDiff x.timed.base advanced) x.timed.base] else []) := by
  have hbase : (x.clock.advanced.counted x.settings.referenceTimeout).base = advanced := by
    rw [Clock.counted_base, ha]
    rfl
  unfold Screen.clockFrames
  rw [Clock.timeoutFrames_advanced, Clock.resyncFrames_eq, hbase, ← ha]
  simp only [Screen.resyncTime_isSome]
  rfl

/-! ## What stage 6 evaluates -/

/-- R134: a record is judged by the clock state, the sent peaks and the profiles of its screen, and by the report. -/
theorem Screen.judge_congr {x z : Screen} (hc : z.clock.state = x.clock.state) (hp : z.profiles = x.profiles)
    (hs : ∀ f : FeedNo, z.feeds[f].sentTwo = x.feeds[f].sentTwo) (b : BlockReport) (k : RecordNo) :
    z.judge b k = x.judge b k := by
  unfold Screen.judge
  rw [hc, hp, hs]

/-- R134, R143: the evaluation of record k of a screen `x` whose stage 1 leaves `y` and whose stage 2 leaves the clock
`c`. -/
def Screen.outcomeAt (x y : Screen) (c : Clock) (b : BlockReport) (k : RecordNo) : AlarmRecord × Option Nat :=
  y.records[k].evaluate x.profiles[(recordKind k).profileIndex] c.base (({ x with clock := c } : Screen).judge b k)

/-- What stage 6 reads of the screen `z` it begins with: the clock `c` of stage 2, the latch and the records of `y`, the
profiles and the sent peaks of `x`. -/
structure Screen.ReadsFrom (x y : Screen) (c : Clock) (z : Screen) : Prop where
  clock : z.clock = c
  render : z.render = y.render
  records : z.records = y.records
  profiles : z.profiles = x.profiles
  sentTwo : ∀ f : FeedNo, z.feeds[f].sentTwo = x.feeds[f].sentTwo

/-- R134: the hand-off of the lanes leaves what the evaluation reads. -/
theorem Screen.ReadsFrom.evaluated {x y z : Screen} {c : Clock} (h : x.ReadsFrom y c z) (he : c.elapsed = 0)
    (b : BlockReport) (k : RecordNo) : z.handLanes.evaluated b k = x.outcomeAt y c b k := by
  have hj : z.handLanes.judge b k = ({ x with clock := c } : Screen).judge b k :=
    Screen.judge_congr (x := { x with clock := c }) (congrArg Clock.state h.clock) h.profiles h.sentTwo b k
  have hn : z.handLanes.clock.now = c.base := by
    rw [show z.handLanes.clock = c from h.clock, Clock.now, he, BitVec.add_zero]
  unfold Screen.evaluated Screen.outcomeAt
  rw [hj, hn, show z.handLanes.records = y.records from h.records,
    show z.handLanes.profiles = x.profiles from h.profiles]

/-- R145: an ALARM notice of record k of screen i. -/
def alarmNotice (i : ScreenNo) (t : ScreenTime) (k : RecordNo) (state cause : Nat) : UpFrame :=
  .notice { kind := .alarm, screen := i, subject := 58 * i.val + k.val, state := state, valueA := cause, valueB := 0
            st := t }

/-- R145: the ALARM notices of the transitions, in ascending record number. -/
def Screen.alarmNotices (i : ScreenNo) (x y : Screen) (c : Clock) (b : BlockReport) : List UpFrame :=
  ((List.finRange 58).filter fun k => recordInUse y.render.latched k).filterMap fun k =>
    (x.outcomeAt y c b k).2.map fun cause => alarmNotice i c.base k (x.outcomeAt y c b k).1.state.code cause

/-- R134, R145: the notices of stage 6. -/
theorem Screen.ReadsFrom.alarmFrames {x y z : Screen} {c : Clock} (h : x.ReadsFrom y c z) (he : c.elapsed = 0)
    (i : ScreenNo) (b : BlockReport) :
    (List.finRange 58).filterMap (z.handLanes.alarmFrame i b) = x.alarmNotices i y c b := by
  unfold Screen.alarmNotices
  rw [List.filterMap_filter]
  refine filterMap_eq_of_mem _ fun k _ => ?_
  unfold Screen.alarmFrame
  rw [h.evaluated he, show z.handLanes.render = y.render from h.render,
    show z.handLanes.clock = c from h.clock, Clock.now, he, BitVec.add_zero]
  rfl

/-! ## The records, the report and the frames of a boundary -/

/-- R37: the clock of stage 2 stands at e = 0. -/
theorem Screen.timed_elapsed (x : Screen) : x.timed.elapsed = 0 := Clock.counted_elapsed _ _

/-- R37: stages 3 to 5 change the feeds, the holds, the meter count, the lanes and the signal state alone. -/
theorem Screen.metered_measured_eq (x : Screen) (played : Option Block) (blocks : Vector FeedBlock 16) (room : Bool) :
    (x.measured played blocks).metered room =
      { x with
        feeds := ((x.measured played blocks).metered room).feeds
        channelHolds := ((x.measured played blocks).metered room).channelHolds
        meterCount := ((x.measured played blocks).metered room).meterCount
        lanes := ((x.measured played blocks).metered room).lanes
        signal := ((x.measured played blocks).metered room).signal } := by
  rw [Screen.metered_eq]
  rfl

/-- R134: the report stage 6 is given of a boundary of screen i: what of it is read before the lanes hand over. -/
theorem State.blockReport_boundary (i : ScreenNo) (s : State) (r : Selection) (handed : Vector Handed 2)
    (hadActive : Bool) (b : BlockReport)
    (hb : b = blockReport (s.latchedScreen i).latchSettings r.decision hadActive r.played (s.feedBlocks i r.played)
      handed) :
    b.decision = r.decision ∧ b.hadActive = hadActive ∧ b.mode = s.screens[i].playout.mode ∧
      b.muted = s.screens[i].level.muted ∧ (∀ c : ChannelNo, b.status[c] = channelStatus r.played c) ∧
      (∀ f : FeedNo, b.prePeaks[f] = peakOf (s.gainedWords i f r.played)) ∧ b.handed = handed := by
  subst hb
  refine ⟨rfl, rfl, rfl, (Level.advanceFade_keeps _).2, fun c => tabulate_get _ c, fun f => ?_, rfl⟩
  exact (tabulate_get _ f).trans (congrArg peakOf (State.feedBlocks_pre i r.played s f))

/-- The two ways to say that a record is raised. -/
theorem AlarmState.bne_normal (a : AlarmState) : (a != .normal) = decide (a ≠ .normal) := by
  cases a <;> rfl

/-- R80: the RETIRED notices, record by record. -/
theorem State.retiredFrames_eq (i : ScreenNo) (s : State) (t : ScreenTime) :
    (s.retiredAt i).map (retiredFrame i t) =
      ((List.finRange 58).filter fun k => recordInUse s.screens[i].render.latched k &&
        !recordInUse (s.latchedScreen i).render.latched k &&
        decide (s.screens[i].records[k].state ≠ .normal)).map fun k => alarmNotice i t k 0 3 := by
  have hl : s.toLatch i = (s.latchedScreen i).render.latched :=
    congrArg (fun x : Screen => x.render.latched) (State.stageOne_eq i s)
  unfold State.retiredAt Screen.retiredRaised
  rw [hl, indexes_eq_finRange]
  refine congrArg (List.map (retiredFrame i t)) (List.filter_congr fun k _ => ?_)
  rw [leavesUse, AlarmState.bne_normal]

/-- R35, R37: a boundary that was not withdrawn takes its stages. -/
theorem State.exec_blockBoundary_of_falls {i : ScreenNo} {s : State}
    (h : s.screens[i].playout.voidedAt ≠ some s.wordClock) : exec (.blockBoundary i) s = .next (s.boundary i) :=
  if_neg h

/-- R134, R145: what the stages of a boundary before its cue stage leave of the clock and the records of screen i, and
the frames they offer. -/
theorem State.boundary_reports (i : ScreenNo) (s : State) (x y : Screen) (r : Selection) (hx : x = s.screens[i])
    (hy : y = s.latchedScreen i) (hr : r = s.selectionAt i x.timed.base) :
    ∃ (u : State) (handed : Vector Handed 2) (b : BlockReport) (meter done : List UpFrame),
      s.boundary i = u.cueStage i u.screens[i].clock.base y.cuesHeld ∧ u.screens[i].clock = x.timed ∧
      b = blockReport y.latchSettings r.decision (s.activeEntry i).isSome r.played (s.feedBlocks i r.played) handed ∧
      (∀ l : Fin 2, x.lanes[l].sound → handed[l] = x.lanes[l].twoBack) ∧
      (∀ k : RecordNo, u.screens[i].records[k] =
        if recordInUse y.render.latched k then (x.outcomeAt y x.timed b k).1 else y.records[k]) ∧
      meter.length =
        (if 0 < x.settings.meterInterval ∧ 100 * x.settings.meterInterval ≤ x.meterCount + 1 then 1 else 0) ∧
      (∀ f ∈ meter, ∃ m, f = .meter m) ∧ done.length ≤ 1 ∧ (∀ f ∈ done, ∃ n, f = .notice n ∧ n.kind = .checkDone) ∧
      State.offers i (s.earlyFrames i ++ (meter ++ x.alarmNotices i y x.timed b) ++ done) s u := by
  obtain ⟨a, p, v, u, m, z, b, hbd, has, -, -, -, -, hkp, ⟨lost, hm⟩, hz, hb, -, -, hvs, hoff, hu⟩ :=
    State.boundary_stages i s x y r _ hx hy hr rfl
  obtain ⟨done, ⟨hlen, hkind⟩, hck, -⟩ := State.checkStage_shiftPeaks_leaves i b.handed _ v u hu
  have hps := hkp.1
  rw [has] at hps
  have hzeq := Screen.metered_measured_eq { p.screens[i] with noticeLost := lost } r.played (s.feedBlocks i r.played)
    (decide (s.reports.length + (s.earlyFrames i).length < 32))
  rw [← hm, ← hz] at hzeq
  have hsent : ∀ f : FeedNo, z.feeds[f].sentTwo = x.feeds[f].sentTwo := by
    intro f
    rw [hz, Screen.metered_feed, hm, Screen.measured_feed, hx]
    exact (State.feedBlocks_feed i r.played s f).2.2
  have hread : x.ReadsFrom y x.timed z :=
    { clock := by rw [hzeq, hps]
      render := by rw [hzeq, hps]
      records := by rw [hzeq, hps]
      profiles := by rw [hzeq, hps, hy, hx]; rfl
      sentTwo := hsent }
  have hfall : m.meterFalls = x.meterFalls := by
    rw [hm, hps, hy, hx]
    rfl
  rw [hread.alarmFrames x.timed_elapsed] at hoff
  refine ⟨u, z.handedLanes, b, _, done, hbd, ?_, hb, ?_, ?_, ?_, ?_, hlen, hkind, hoff.trans hck.2.1⟩
  · rw [hck.screen, hvs]
    exact hread.clock
  · intro l hl
    have hlanes : p.screens[i].lanes = x.lanes := by rw [hps, hy, hx]; rfl
    rw [← hlanes] at hl ⊢
    exact Screen.metered_handed { p.screens[i] with noticeLost := lost } z _ _ _ (by rw [hz, hm]) l hl
  · intro k
    rw [hck.screen, hvs]
    dsimp only
    rw [tabulate_get, hread.evaluated x.timed_elapsed, hread.render, hread.records]
  · rw [hfall]
    simp only [Screen.meterFalls_iff]
    split <;> rfl
  · split <;> simp

/-- Settles O30: the rows of the table, the records in use, then the stages of a boundary. -/
theorem escalationFollowsItsTable : Obligations.EscalationFollowsItsTable := by
  refine ⟨?_, recordInUse_iff, ?_⟩
  · intro r p t run clear hrun hclear
    subst hrun hclear
    refine ⟨r.evaluate_neutral p t, fun h => r.evaluate_of_normal h p t, fun h => ?_, fun h => ?_⟩
    · obtain ⟨hstay, hact, hclearing⟩ := AlarmRecord.evaluate_of_warning h p t
      exact ⟨hstay, hact, fun hk => hclearing.trans (AlarmRecord.clearing_of_lt hk),
        fun hk => hclearing.trans (AlarmRecord.clearing_of_le hk)⟩
    · obtain ⟨hqualifying, hclearing⟩ := AlarmRecord.evaluate_of_held h p t
      exact ⟨hqualifying, fun hk => hclearing.trans (AlarmRecord.clearing_of_lt hk),
        fun hk => hclearing.trans (AlarmRecord.clearing_of_le hk)⟩
  · intro s i x y advanced hx hy hvoid hadv
    obtain ⟨u, handed, b, meter, done, hbd, hclock, hb, hhand, hrec, hmlen, hmkind, hdlen, hdkind, hrep, hlost⟩ :=
      State.boundary_reports i s x y _ hx hy rfl
    obtain ⟨hdec, hhad, hmode, hmuted, hstatus, hpeaks, hhanded⟩ :=
      State.blockReport_boundary i s _ handed _ b (hy ▸ hb)
    have hcues : s.reachesCues i u :=
      ⟨y.cuesHeld, hbd ▸ State.exec_blockBoundary_of_falls (hx ▸ hvoid)⟩
    have hearly : s.earlyFrames i = x.clockFrames i ++ (s.retiredAt i).map (retiredFrame i x.timed.base) := by
      rw [hx]
      rfl
    rw [hearly, Screen.clockFrames_eq i x advanced hadv, State.retiredFrames_eq, ← hx, ← hy] at hrep hlost
    simp only [← List.append_assoc] at hrep hlost
    refine ⟨u, b, x.timed.base, _, _, _, meter, _, done, hcues, by rw [hclock], rfl, hdec, hhad, hx ▸ hmode, hx ▸ hmuted,
      hstatus, hpeaks, ?_, ?_, ?_, rfl, hmlen, hmkind, ?_, hdlen, hdkind, hrep, hlost⟩
    · intro hs l
      rw [hhanded]
      exact hhand l (hx ▸ (hs i).1 l)
    · rw [hclock]
      exact hrec
    · rw [hclock]
      rfl
    · rw [hclock]
      rfl

end Sys2Proof.Machine
end

section
/-! PROOFS. One step, POWER_ON, the hand-off of a request (R166, R167) and the Report Queue (R168, R174). -/

namespace Sys2Proof.Machine

/-! ## The step -/

/-- Settles O1: a nonempty queue is the second case of `step`. -/
theorem stepRunsTheFrontCommand : Obligations.StepRunsTheFrontCommand := by
  intro c rest s h
  unfold step
  rw [h]

/-- R49: a word-clock period adds 1 to e of every screen. -/
theorem State.tick_screen (s : State) (i : ScreenNo) :
    s.tick.screens[i] =
      { s.screens[i] with clock := { s.screens[i].clock with elapsed := s.screens[i].clock.elapsed + 1 } } :=
  tabulate_get _ i

/-- The boundaries of a count are those of the screens whose next boundary falls at it. -/
theorem State.mem_boundariesAt {count : Nat} {s : State} {c : Instr} :
    c ∈ s.boundariesAt count ↔ ∃ i : ScreenNo, c = .blockBoundary i ∧ s.screens[i].playout.nextBoundary = count := by
  simp only [State.boundariesAt, List.mem_map, List.mem_filter, mem_indexes, true_and, decide_eq_true_eq]
  exact exists_congr fun i => by rw [and_comm, eq_comm]

/-- No screen's boundary stands twice among those of a count. -/
theorem State.boundariesAt_nodup (count : Nat) (s : State) : (s.boundariesAt count).Nodup :=
  List.pairwise_map.mpr (((indexes_nodup 6).filter _).imp fun hne h => hne (Instr.blockBoundary.inj h))

/-- Settles O2: the fields of `State.tick`, and the boundaries of the new count on an empty queue. -/
theorem emptyQueueStepIsOneWordClockPeriod : Obligations.EmptyQueueStepIsOneWordClockPeriod := by
  intro s h
  have hstep : step s = .next s.tick := by
    unfold step
    rw [h]
  have hpending : s.tick.pending = s.boundariesAt (s.wordClock + 1) := by
    simp only [State.tick, h, List.nil_append]
  refine ⟨s.tick, hstep, rfl, s.tick_screen, fun c => ?_, ?_⟩
  · rw [hpending]
    exact State.mem_boundariesAt
  · rw [hpending]
    exact State.boundariesAt_nodup _ s

/-! ## POWER_ON -/

/-- Every screen after reset is a screen at power-on. -/
@[simp] theorem State.reset_screen (i : ScreenNo) : State.reset.screens[i] = Screen.powerOn := Vector.getElem_replicate _

/-- Every entry after reset is an entry at power-on. -/
@[simp] theorem State.reset_entry (e : EntryNo) : State.reset.entries[e] = StreamEntry.powerOn :=
  Vector.getElem_replicate _

/-- Every cue after reset is EMPTY. -/
@[simp] theorem State.reset_cue (n : CueNo) : State.reset.cues[n] = Cue.powerOn := Vector.getElem_replicate _

/-- Every preset after reset is the empty preset. -/
@[simp] theorem State.reset_preset (p : PresetNo) : State.reset.presets[p] = Preset.powerOn :=
  Vector.getElem_replicate _

/-- R67: every coefficient of the empty preset is 0. -/
theorem Preset.powerOn_matrix (f : FeedNo) (c : ChannelNo) : Preset.powerOn.matrix[f][c] = 0 := by
  simp [Preset.powerOn]

/-- R67: every fill entry of the empty preset is the power-on one. -/
theorem Preset.powerOn_fill (c : ChannelNo) :
    Preset.powerOn.fill[c] = { mode := .none, donorA := 0, coefA := 0, donorB := none } :=
  Vector.getElem_replicate _

/-- R120: a lane feed's view at power-on. -/
theorem Lane.powerOn_view (j : Fin 8) :
    Lane.powerOn.views[j] = { outcome := .none, outcomeCount := none, last := none } :=
  Vector.getElem_replicate _

/-- Settles O3: the tables of the reset state, entry by entry. -/
theorem powerOnRestoresTheManualsValues : Obligations.PowerOnRestoresTheManualsValues := by
  intro s
  have entry {α : Type} {n : Nat} (a : α) (k : Fin n) : (Vector.replicate n a)[k] = a := Vector.getElem_replicate _
  refine ⟨{ State.reset with pending := s.pending }, rfl, rfl, rfl, rfl, rfl, rfl, rfl, rfl, rfl, entry 0, entry 0,
    State.reset_entry, fun p => ?_, State.reset_cue, fun i => ?_⟩
  · show State.reset.presets[p].used = false ∧ _
    rw [show ({ State.reset with pending := s.pending } : State).presets[p] = Preset.powerOn from State.reset_preset p]
    exact ⟨rfl, rfl, rfl, rfl, Preset.powerOn_matrix, Preset.powerOn_fill⟩
  · rw [show ({ State.reset with pending := s.pending } : State).screens[i] = Screen.powerOn from State.reset_screen i]
    refine ⟨rfl, rfl, rfl, rfl, rfl, rfl, rfl, entry 0, rfl, rfl, rfl, rfl, entry _, rfl, rfl, rfl, rfl, entry _,
      fun l => ?_, entry 0, rfl, entry _, entry _, rfl, rfl⟩
    rw [show Screen.powerOn.lanes[l] = Lane.powerOn from entry _ l]
    exact ⟨rfl, rfl, rfl, rfl, rfl, Lane.powerOn_view⟩

/-! ## A request handed on -/

/-- R19, R166: MANAGE_DROP is the fifth port tally. -/
theorem State.bumpPort_manageDrop (s : State) :
    s.bumpPort .manageDrop = { s with portTallies := s.portTallies.set 4 (min (s.portTallies[4] + 1) 65535) } := rfl

/-- Settles O14: the three outcomes of the hand-off, then the envelope, field lengths and named-value codes. -/
theorem requestIsTakenQueuedOrDropped : Obligations.RequestIsTakenQueuedOrDropped := by
  refine ⟨fun c tag r s hc => ?_, fun tag kind table index args s hs => ?_⟩
  · rw [exec_request c tag r s hc]
    refine ⟨fun h => ?_, fun h hlt => ?_, fun h hge => ?_⟩
    · rw [State.submit_of_free s tag r h]
      rfl
    · rw [State.submit_of_space s tag r h hlt]
    · rw [State.submit_of_full s tag r h (by omega), State.bumpPort_manageDrop]
  · have rejected {e : Result} (h : judgeEnvelope kind table index args = .rejected e) :=
      exec_undefinedRequest_rejected index args tag kind table e s hs h
    refine ⟨fun hk ht => rejected ?_, fun h1 h2 hk => rejected ?_, fun h16 h38 ht => rejected ?_,
      fun hk h1 h8 ha => ?_, fun hk h1 h8 hl => ?_, fun hk h1 h8 hl => ?_, fun h16 h38 ht hl => ?_,
      fun h16 h38 ht hl => ?_⟩
    · have hnone : Table.ofCode table = none := by
        obtain rfl | ⟨n, rfl⟩ : table = 0 ∨ ∃ n, table = n + 9 := by
          rcases ht with h | h
          · exact .inl (by omega)
          · exact .inr ⟨table - 9, by omega⟩
        · rfl
        · rfl
      rcases hk with rfl | rfl <;> simp [judgeEnvelope, hnone]
    · have hcmd : isCommandKind kind = false := by simp [isCommandKind]; omega
      simp [judgeEnvelope, h1, h2, hcmd]
    · have hcmd : isCommandKind kind = true := by simp [isCommandKind]; omega
      have h1 : kind ≠ 1 := by omega
      have h2 : kind ≠ 2 := by omega
      simp [judgeEnvelope, h1, h2, hcmd, ht]
    · subst hk
      exact rejected ((judgeEnvelope_read index args table h1 h8).1 (by simpa using ha))
    · subst hk
      exact rejected ((judgeEnvelope_write index args table h1 h8).1 hl)
    · subst hk
      obtain ⟨-, hvalue, hpasses⟩ := judgeEnvelope_write index args table h1 h8
      exact ⟨fun h => rejected (hvalue hl h), hpasses hl⟩
    · subst ht
      exact rejected ((judgeEnvelope_command index args kind h16 h38).1 hl)
    · subst ht
      obtain ⟨-, hvalue, hpasses⟩ := judgeEnvelope_command index args kind h16 h38
      exact ⟨fun h => rejected (hvalue hl h), hpasses hl⟩

/-! ## The Report Queue -/

/-- Settles O15: the two cases of each offer, a frame placed as `State.placed` says. -/
theorem offersToTheReportQueue : Obligations.OffersToTheReportQueue := by
  intro s hs
  obtain ⟨-, -, -, -, hseq⟩ := hs
  refine ⟨fun r => ⟨fun h => ?_, fun h => ?_⟩, fun n => ⟨fun h => ?_, fun h => ?_⟩⟩
  · rw [State.offerReply_of_space s r h, State.place_eq_placed s _ hseq]
  · exact State.offerReply_of_full s r (by omega)
  · rw [State.offerNotice_of_space s n h, State.place_eq_placed s _ hseq]
  · exact State.offerNotice_of_full s n (by omega)

/-- R11, R174: with nothing being sent the head frame, if there is one, takes the upstream sequence. -/
theorem State.startSending_of_idle (s : State) (h : s.sendingSeq = none) :
    s.startSending =
      { s with
        sendingSeq := if s.reports = [] then none else some s.upSeq
        upSeq := if s.reports = [] then s.upSeq else s.upSeq + 1 } := by
  obtain ⟨pending, wordClock, screens, entries, freeSlots, portTallies, presets, tone, cues, requests, replySlot,
    reports, upSeq, sendingSeq⟩ := s
  subst h
  cases reports <;> rfl

/-- R174: the head frame sent, before the handler takes its next request. -/
theorem State.frameSent_of_cons {s : State} {f : UpFrame} {rest : List UpFrame} (h : s.reports = f :: rest) :
    s.frameSent =
      (State.startSending (State.enterReply { s with reports := rest, sendingSeq := none })).takeRequests := by
  unfold State.frameSent
  rw [h]

/-- R166: with no request waiting the handler takes none. -/
theorem State.takeRequests_of_empty (s : State) (h : s.requests = []) : s.takeRequests = s := by
  unfold State.takeRequests State.takeFrom
  rw [h]
  dsimp only
  rw [← h]

/-- R166: with the reply slot empty the handler takes the request at the head. -/
theorem State.takeRequests_of_cons (s : State) {tag : Byte} {q : Request} {more : List (Byte × Request)}
    (h : s.requests = (tag, q) :: more) (hr : s.replySlot = none) :
    s.takeRequests = (s.carryOut tag q).takeFrom more := by
  unfold State.takeRequests
  rw [h]
  show (if s.replySlot.isNone then State.takeFrom more (s.carryOut tag q) else _) = _
  rw [hr]
  rfl

end Sys2Proof.Machine
end

section
/-! PROOFS. What every operation keeps of one screen: the six invariants of a screen and the depth of its marker list,
carried together, so that an operation gives a proof for the parts it touches alone. -/

namespace Sys2Proof.Machine

/-! ## The invariants of one screen -/

/-- R120: what `State.lanesSound` says of one screen. -/
def Screen.lanesSound (x : Screen) : Prop :=
  (∀ l : Fin 2, x.lanes[l].sound) ∧ x.lanes[(0 : Fin 2)].nextCount = x.lanes[(1 : Fin 2)].nextCount ∧
    x.lanes[(0 : Fin 2)].awaiting.length = x.lanes[(1 : Fin 2)].awaiting.length

theorem State.lanesSound_iff (s : State) : s.lanesSound ↔ ∀ i : ScreenNo, s.screens[i].lanesSound := Iff.rfl

/-- R85: what `State.feedsSound` says of one screen. -/
def Screen.feedsSound (x : Screen) : Prop :=
  ∀ k : FeedNo, x.feeds[k].sound ∧ x.feeds[k].active = x.feeds[(0 : FeedNo)].active

theorem State.feedsSound_iff (s : State) : s.feedsSound ↔ ∀ i : ScreenNo, s.screens[i].feedsSound := Iff.rfl

/-- An operation takes screen `x` to `y` and keeps each invariant of a screen by itself. A part the operation does not
touch is closed by the default proof. -/
structure Screen.Keeps (x y : Screen) : Prop where
  clock : x.clockSound → y.clockSound := by exact id
  level : x.level.sound → y.level.sound := by exact id
  records : x.recordsSound → y.recordsSound := by exact id
  lanes : x.lanesSound → y.lanesSound := by exact id
  feeds : x.feedsSound → y.feedsSound := by exact id
  signal : x.signalSound → y.signalSound := by exact id
  markers : x.markers.length ≤ 8 → y.markers.length ≤ 8 := by exact id

theorem Screen.Keeps.refl (x : Screen) : x.Keeps x := {}

theorem Screen.Keeps.trans {x y z : Screen} (h : x.Keeps y) (g : y.Keeps z) : x.Keeps z where
  clock := g.clock ∘ h.clock
  level := g.level ∘ h.level
  records := g.records ∘ h.records
  lanes := g.lanes ∘ h.lanes
  feeds := g.feeds ∘ h.feeds
  signal := g.signal ∘ h.signal
  markers := g.markers ∘ h.markers

theorem Screen.bump_keeps (t : ScreenTally) (x : Screen) : x.Keeps (x.bump t) := {}

theorem Screen.noticeLost_keeps (b : Bool) (x : Screen) : x.Keeps { x with noticeLost := b } := {}

theorem Screen.clock_keeps {x : Screen} {c : Clock} (h : x.clockSound → { x with clock := c }.clockSound) :
    x.Keeps { x with clock := c } := { clock := h }

/-! ## The tables -/

/-- The queues, the quotas and the free list stand as they were. -/
structure State.SameQueues (s t : State) : Prop where
  free : t.freeSlots = s.freeSlots
  program : ∀ i : ScreenNo, t.screens[i].playout.program = s.screens[i].playout.program
  standby : ∀ i : ScreenNo, t.screens[i].playout.standby = s.screens[i].playout.standby
  quota : ∀ i : ScreenNo, t.screens[i].settings.quota = s.screens[i].settings.quota

/-- Every entry keeps its number, its screen and its state. -/
structure State.SameRoles (s t : State) : Prop where
  number : ∀ e : EntryNo, t.entries[e].number = s.entries[e].number
  screen : ∀ e : EntryNo, t.entries[e].screen = s.entries[e].screen
  state : ∀ e : EntryNo, t.entries[e].state = s.entries[e].state

/-- R168, R174: an operation places frames in the Report Queue as long as it has space, and leaves the requests and the
reply slot alone. -/
structure State.OnlyOffers (s t : State) : Prop where
  requests : t.requests = s.requests
  replySlot : t.replySlot = s.replySlot
  reports : s.reports <+: t.reports
  depth : t.reports.length ≤ max 32 s.reports.length
  sending : (s.sendingSeq.isSome ↔ s.reports ≠ []) → (t.sendingSeq.isSome ↔ t.reports ≠ [])

theorem State.SameQueues.refl (s : State) : s.SameQueues s := ⟨rfl, fun _ => rfl, fun _ => rfl, fun _ => rfl⟩

theorem State.SameRoles.refl (s : State) : s.SameRoles s := ⟨fun _ => rfl, fun _ => rfl, fun _ => rfl⟩

theorem State.OnlyOffers.refl (s : State) : s.OnlyOffers s :=
  ⟨rfl, rfl, List.prefix_rfl, Nat.le_max_right _ _, id⟩

theorem State.OnlyOffers.trans {s t u : State} (h : s.OnlyOffers t) (g : t.OnlyOffers u) : s.OnlyOffers u where
  requests := g.requests.trans h.requests
  replySlot := g.replySlot.trans h.replySlot
  reports := h.reports.trans g.reports
  depth := by
    have := h.depth
    have := g.depth
    omega
  sending := g.sending ∘ h.sending

theorem State.held_of_sameQueues {s t : State} (h : s.SameQueues t) (i : ScreenNo) :
    t.screens[i].playout.held = s.screens[i].playout.held := by
  rw [Playout.held, Playout.held, h.program, h.standby]

/-- R28: the held counts of the six screens, added up. -/
theorem State.held_sum (s : State) :
    (s.screens.toList.map fun x => x.playout.held).sum =
      ((List.finRange 6).map fun i : ScreenNo => s.screens[i].playout.held).sum := by
  refine congrArg List.sum (List.ext_getElem ?_ fun n h1 h2 => ?_)
  · rw [List.length_map, Vector.length_toList, List.length_map, List.length_finRange]
  · rw [List.getElem_map, List.getElem_map, List.getElem_finRange]
    rfl

/-- R28, R29: slots and quotas, screen by screen. -/
theorem State.poolSound_iff (s : State) :
    s.poolSound ↔ s.freeSlots + ((List.finRange 6).map fun i : ScreenNo => s.screens[i].playout.held).sum = 192 ∧
      ∀ i : ScreenNo, s.screens[i].playout.held ≤ s.screens[i].settings.quota := by
  rw [State.poolSound, State.held_sum]

theorem State.SameQueues.poolSound {s t : State} (h : s.SameQueues t) (hs : s.poolSound) : t.poolSound := by
  rw [State.poolSound_iff] at hs ⊢
  simp only [State.held_of_sameQueues h, h.free, h.quota]
  exact hs

theorem State.SameRoles.sourcesSound {s t : State} (h : s.SameRoles t) (g : s.SameQueues t) (hs : s.sourcesSound) :
    t.sourcesSound := by
  unfold State.sourcesSound at hs ⊢
  simp only [h.number, h.screen, h.state, g.program, g.standby]
  exact hs

/-- R151: what the table holds about its cues. -/
def State.cueTableSound (s : State) : Prop := ∀ n : CueNo, s.cueSound n

theorem State.cueTableSound_of_same {s t : State} (h : t.cues = s.cues) (hs : s.cueTableSound) : t.cueTableSound := by
  intro n
  have hn := hs n
  unfold State.cueSound at hn ⊢
  rw [h]
  exact hn

/-- What an operation keeps outside the screens' own blocks: the pool and the sources with the queues that hold their
blocks, the cue table, and the Report Queue. -/
structure State.KeepsTables (s t : State) : Prop where
  pool : s.poolSound → t.poolSound
  sources : s.sourcesSound → t.sourcesSound
  cues : s.cueTableSound → t.cueTableSound
  offers : s.OnlyOffers t

theorem State.KeepsTables.trans {s t u : State} (h : s.KeepsTables t) (g : t.KeepsTables u) : s.KeepsTables u :=
  ⟨g.pool ∘ h.pool, g.sources ∘ h.sources, g.cues ∘ h.cues, h.offers.trans g.offers⟩

/-- An operation that leaves the queues and the roles as they were. -/
theorem State.KeepsTables.of_same {s t : State} (queues : s.SameQueues t)
    (roles : s.SameRoles t := by exact ⟨fun _ => rfl, fun _ => rfl, fun _ => rfl⟩) (cues : t.cues = s.cues := by rfl)
    (offers : s.OnlyOffers t := by exact ⟨rfl, rfl, List.prefix_rfl, Nat.le_max_right _ _, id⟩) : s.KeepsTables t :=
  ⟨queues.poolSound, roles.sourcesSound queues, State.cueTableSound_of_same cues, offers⟩

theorem State.KeepsTables.refl (s : State) : s.KeepsTables s := .of_same (.refl s)

/-- What an operation keeps. -/
structure State.Keeps (s t : State) : Prop where
  screens : ∀ i : ScreenNo, s.screens[i].Keeps t.screens[i]
  tables : s.KeepsTables t

theorem State.Keeps.refl (s : State) : s.Keeps s := ⟨fun _ => .refl _, .refl s⟩

theorem State.Keeps.trans {s t u : State} (h : s.Keeps t) (g : t.Keeps u) : s.Keeps u :=
  ⟨fun i => (h.screens i).trans (g.screens i), h.tables.trans g.tables⟩

theorem State.Keeps.ite {s t u : State} {p : Prop} [Decidable p] (ht : p → s.Keeps t) (hu : ¬p → s.Keeps u) :
    s.Keeps (if p then t else u) := by
  split
  · exact ht ‹_›
  · exact hu ‹_›

/-- An operation that leaves the screens, the entries and the cues alone. -/
theorem State.Keeps.of_same {s t : State} (screens : t.screens = s.screens := by rfl)
    (entries : t.entries = s.entries := by rfl) (cues : t.cues = s.cues := by rfl)
    (free : t.freeSlots = s.freeSlots := by rfl)
    (offers : s.OnlyOffers t := by exact ⟨rfl, rfl, List.prefix_rfl, Nat.le_max_right _ _, id⟩) : s.Keeps t where
  screens i := by
    rw [screens]
    exact .refl _
  tables := by
    refine .of_same ⟨free, fun i => ?_, fun i => ?_, fun i => ?_⟩ ⟨fun e => ?_, fun e => ?_, fun e => ?_⟩ cues offers <;>
      simp only [screens, entries]

/-! ## One screen or one entry changed -/

theorem State.modScreen_sameQueues (i : ScreenNo) (f : Screen → Screen) (s : State)
    (program : (f s.screens[i]).playout.program = s.screens[i].playout.program := by rfl)
    (standby : (f s.screens[i]).playout.standby = s.screens[i].playout.standby := by rfl)
    (quota : (f s.screens[i]).settings.quota = s.screens[i].settings.quota := by rfl) :
    s.SameQueues (s.modScreen i f) where
  free := rfl
  program j := by
    by_cases h : j = i
    · rw [h, State.modScreen_same, program]
    · rw [State.modScreen_other _ _ _ _ h]
  standby j := by
    by_cases h : j = i
    · rw [h, State.modScreen_same, standby]
    · rw [State.modScreen_other _ _ _ _ h]
  quota j := by
    by_cases h : j = i
    · rw [h, State.modScreen_same, quota]
    · rw [State.modScreen_other _ _ _ _ h]

theorem State.modScreen_screens_keep (i : ScreenNo) (f : Screen → Screen) (s : State)
    (h : s.screens[i].Keeps (f s.screens[i])) (j : ScreenNo) : s.screens[j].Keeps (s.modScreen i f).screens[j] := by
  by_cases hj : j = i
  · rw [hj, State.modScreen_same]
    exact h
  · rw [State.modScreen_other _ _ _ _ hj]
    exact .refl _

/-- A screen changed outside its queues and its quota. -/
theorem State.modScreen_keeps (i : ScreenNo) (f : Screen → Screen) (s : State)
    (h : s.screens[i].Keeps (f s.screens[i]) := by exact {})
    (program : (f s.screens[i]).playout.program = s.screens[i].playout.program := by rfl)
    (standby : (f s.screens[i]).playout.standby = s.screens[i].playout.standby := by rfl)
    (quota : (f s.screens[i]).settings.quota = s.screens[i].settings.quota := by rfl) : s.Keeps (s.modScreen i f) :=
  ⟨s.modScreen_screens_keep i f h, .of_same (s.modScreen_sameQueues i f program standby quota)⟩

/-- An entry changed outside its number, its screen and its state. -/
theorem State.modEntry_keeps (e : EntryNo) (f : StreamEntry → StreamEntry) (s : State)
    (number : (f s.entries[e]).number = s.entries[e].number := by rfl)
    (screen : (f s.entries[e]).screen = s.entries[e].screen := by rfl)
    (state : (f s.entries[e]).state = s.entries[e].state := by rfl) : s.Keeps (s.modEntry e f) := by
  refine ⟨fun _ => .refl _, .of_same ⟨rfl, fun _ => rfl, fun _ => rfl, fun _ => rfl⟩ ⟨fun o => ?_, fun o => ?_, fun o => ?_⟩⟩
  all_goals
    by_cases h : o = e
    · rw [h, State.modEntry_same]
      assumption
    · rw [State.modEntry_other _ _ _ _ h]

theorem State.bumpEntry_keeps (e : EntryNo) (t : EntryTally) (n : Nat) (s : State) : s.Keeps (s.bumpEntry e t n) :=
  s.modEntry_keeps e _

theorem State.bumpEntry?_keeps (e : Option EntryNo) (t : EntryTally) (n : Nat) (s : State) :
    s.Keeps (s.bumpEntry? e t n) := by
  cases e with
  | none => exact .refl s
  | some e => exact s.bumpEntry_keeps e t n

theorem State.bumpPort_keeps (t : PortTally) (s : State) : s.Keeps (s.bumpPort t) := .of_same

theorem State.bumpScreen_keeps (i : ScreenNo) (t : ScreenTally) (s : State) : s.Keeps (s.bumpScreen i t) :=
  s.modScreen_keeps i _

/-! ## Frames offered -/

/-- R174: a frame placed while the queue has space. -/
theorem State.place_onlyOffers (f : UpFrame) (s : State) (h : s.reports.length < 32) : s.OnlyOffers (s.place f) where
  requests := s.place_requests f
  replySlot := s.place_replySlot f
  reports := by
    rw [State.place_reports]
    exact List.prefix_append _ _
  depth := by
    rw [State.place_reports, List.length_append, List.length_singleton]
    omega
  sending hs := by
    rw [State.place_eq_placed s f hs]
    unfold State.placed
    dsimp only
    split
    · simp
    · next hne => simpa using hs.mpr hne

theorem State.place_keeps (f : UpFrame) (s : State) (h : s.reports.length < 32) : s.Keeps (s.place f) :=
  .of_same (s.place_screens f) (s.place_entries f) (s.place_cues f) (s.place_freeSlots f) (s.place_onlyOffers f h)

/-- R174, R175: a notice is placed, or its screen's notice-lost flag is set. -/
theorem State.offerNotice_keeps (n : Notice) (s : State) : s.Keeps (s.offerNotice n) := by
  by_cases h : s.reports.length < 32
  · rw [State.offerNotice_of_space s n h]
    exact s.place_keeps _ h
  · rw [State.offerNotice_of_full s n h]
    exact s.modScreen_keeps n.screen _

theorem State.raise_keeps (kind : NoticeKind) (i : ScreenNo) (a b c : Nat) (d : Int) (s : State) :
    s.Keeps (s.raise kind i a b c d) := s.offerNotice_keeps _

theorem State.raiseClock_keeps (i : ScreenNo) (d : Int) (s : State) : s.Keeps (s.raiseClock i d) := s.raise_keeps ..

theorem State.raiseAlarm_keeps (i : ScreenNo) (k : RecordNo) (a : AlarmState) (cause : Nat) (s : State) :
    s.Keeps (s.raiseAlarm i k a cause) := s.raise_keeps ..

theorem State.raiseCheckDone_keeps (i : ScreenNo) (cause : Nat) (s : State) : s.Keeps (s.raiseCheckDone i cause) :=
  s.raise_keeps ..

/-- A left fold of operations each of which keeps. -/
theorem State.foldl_keeps {α : Type} (f : State → α → State) (h : ∀ (s : State) a, s.Keeps (f s a)) (l : List α) (s : State) :
    s.Keeps (l.foldl f s) := by
  induction l generalizing s with
  | nil => exact .refl s
  | cons a l ih => exact (h s a).trans (ih _)

theorem State.raiseRetired_keeps (i : ScreenNo) (ks : List RecordNo) (s : State) : s.Keeps (s.raiseRetired i ks) :=
  State.foldl_keeps _ (fun s k => s.raiseAlarm_keeps i k _ _) ks s

end Sys2Proof.Machine
end

section
/-! PROOFS. What the Screen Clocks keep: the advance, steps, reference decisions, timeout and resync (R44, R49 to R61),
with the cues a backward step rearms (R161). -/

namespace Sys2Proof.Machine

/-! ## A clock under its settings -/

/-- R54, R55: a clock that agrees with the settings `r`: the part of `Screen.clockSound` that reads the clock. -/
def Clock.soundUnder (r : ScreenSettings) (c : Clock) : Prop :=
  (c.state = .unreferenced ↔ r.clockMode = .selfTimed) ∧ (c.slip ≠ 0 → c.state = .locked) ∧
    c.slip.natAbs ≤ r.window ∧ c.inWindow < r.lockN ∧ c.outWindow < r.unlockN ∧ c.sinceReference ≤ 65535

theorem Screen.clockSound_iff (x : Screen) :
    x.clockSound ↔ settingsInRange x.settings ∧ x.clock.soundUnder x.settings := Iff.rfl

/-- R52: a limit of the lock counts is at least 1. -/
theorem settingsInRange.limits {r : ScreenSettings} (h : settingsInRange r) : 1 ≤ r.lockN ∧ 1 ≤ r.unlockN := by
  obtain ⟨-, -, -, -, ⟨hlock, -⟩, ⟨hunlock, -⟩, -⟩ := h
  exact ⟨hlock, hunlock⟩

/-- A change of one screen's clock keeps everything when it keeps the clock's own invariant. -/
theorem State.modClock_keeps (i : ScreenNo) (f : Clock → Clock) (s : State)
    (h : settingsInRange s.screens[i].settings → s.screens[i].clock.soundUnder s.screens[i].settings →
      (f s.screens[i].clock).soundUnder s.screens[i].settings) : s.Keeps (s.modClock i f) :=
  s.modScreen_keeps i _ { clock := fun hx => ⟨hx.1, h hx.1 hx.2⟩ }

/-! ## The advance and the timeout -/

theorem Clock.advanced_sound {r : ScreenSettings} {c : Clock} (h : c.soundUnder r) : c.advanced.soundUnder r := by
  obtain ⟨hstate, hslip, hwindow, hin, hout, hsince⟩ := h
  have habs := c.slipAfter_natAbs
  refine ⟨hstate, fun hne => hslip ?_, ?_, hin, hout, hsince⟩
  · rintro h0
    exact hne (by simp [Clock.advanced, Clock.slipAfter, h0])
  · show c.slipAfter.natAbs ≤ r.window
    omega

/-- R50: the advance of a block. -/
theorem State.advanceClock_keeps (i : ScreenNo) (s : State) : s.Keeps (s.advanceClock i) := by
  have h : s.Keeps (s.modClock i Clock.advanced) := s.modClock_keeps i _ fun _ => Clock.advanced_sound
  exact .ite (fun _ => h) fun _ => h.trans (State.bumpScreen_keeps ..)

theorem Clock.countBlock_sound {r : ScreenSettings} {c : Clock} (h : c.soundUnder r) : c.countBlock.soundUnder r := by
  obtain ⟨hstate, hslip, hwindow, hin, hout, hsince⟩ := h
  refine ⟨hstate, hslip, hwindow, hin, hout, ?_⟩
  show (if _ then _ else _) ≤ 65535
  split
  · omega
  · exact satAdd_le _ 1

theorem Clock.toHoldover_sound {r : ScreenSettings} {c : Clock} (hr : settingsInRange r) (hl : c.state = .locked)
    (h : c.soundUnder r) : c.toHoldover.soundUnder r := by
  obtain ⟨hstate, -, -, -, -, hsince⟩ := h
  have hne : r.clockMode ≠ .selfTimed := fun hm => by simp [hl] at hstate; exact hstate hm
  exact ⟨⟨nofun, fun hm => absurd hm hne⟩, fun h0 => absurd rfl h0, Nat.zero_le _, hr.limits.1, hr.limits.2, hsince⟩

/-- R61: the fall of a LOCKED clock to HOLDOVER. -/
theorem State.timeoutReference_keeps (i : ScreenNo) (s : State) : s.Keeps (s.timeoutReference i) := by
  refine .ite (fun hlost => ?_) fun _ => .refl s
  have hl : s.screens[i].clock.state = .locked := by
    simp only [Screen.referenceLost, Bool.and_eq_true, decide_eq_true_eq] at hlost
    exact hlost.1
  exact (s.modClock_keeps i _ fun hr => Clock.toHoldover_sound hr hl).trans (State.raiseClock_keeps ..)

/-- R61: the count of a boundary. -/
theorem State.countReference_keeps (i : ScreenNo) (s : State) : s.Keeps (s.countReference i) :=
  (s.modClock_keeps i _ fun _ => Clock.countBlock_sound).trans (State.timeoutReference_keeps ..)

/-! ## Cues of a backward step -/

/-- R163: what the release leaves of a cue, field by field: a released cue is PENDING, every other as it was. -/
theorem State.releaseChildren_cases (left : CueNo → Bool) (s : State) (n : CueNo) :
    (s.cues[n].releasedBy left = true ∧ (s.releaseChildren left).cues[n] = s.cues[n].toPending) ∨
      (s.cues[n].releasedBy left = false ∧ (s.releaseChildren left).cues[n] = s.cues[n]) := by
  rw [State.releaseChildren_get]
  cases h : s.cues[n].releasedBy left <;> simp

end Sys2Proof.Machine
end

section
/-! PROOFS. What keeps the cue table sound (R151, R163): operations that arm no cue, the release of children, rearm,
the requests on cues and the screen reset. -/

namespace Sys2Proof.Machine

/-! ## The two halves of the table's invariant -/

/-- R151, R152: the part of `State.cueSound` about the written fields: an EMPTY cue has its power-on values, and a loaded
AFTER cue names a loaded parent of its own screen. -/
def State.cueLoadedSound (s : State) (n : CueNo) : Prop :=
  (s.cues[n].state = .empty → s.cues[n] = Cue.powerOn) ∧
    (s.cues[n].state ≠ .empty → s.cues[n].spec.screen < 6 ∧
      (s.cues[n].spec.trigger = .after → 1 ≤ s.cues[n].spec.delay ∧
        ∃ p : CueNo, s.cues[n].spec.parent = p.val ∧ p ≠ n ∧ s.cues[p].state ≠ .empty ∧
          s.cues[p].spec.screen = s.cues[n].spec.screen))

/-- R157, R163: the part of `State.cueSound` about the countdowns, the cues of `due` left out: an ARMED cue is an AFTER
cue under a FIRED parent, with a countdown in 1..delay unless it is about to fire. -/
def State.cueArmedSound (s : State) (due : List CueNo) (n : CueNo) : Prop :=
  (s.cues[n].state = .armed → s.cues[n].spec.trigger = .after ∧
    (∀ p : CueNo, s.cues[n].spec.parent = p.val → s.cues[p].state = .fired) ∧
    (n ∉ due → ∃ c, s.cues[n].countdown = some c ∧ 1 ≤ c ∧ c ≤ s.cues[n].spec.delay)) ∧
  (s.cues[n].state ≠ .armed → s.cues[n].countdown = none)

theorem State.cueSound_iff (s : State) (n : CueNo) : s.cueSound n ↔ s.cueLoadedSound n ∧ s.cueArmedSound [] n := by
  simp only [State.cueSound, State.cueLoadedSound, State.cueArmedSound, List.not_mem_nil, not_false_eq_true,
    true_implies, and_assoc]

theorem State.cueTableSound_iff (s : State) :
    s.cueTableSound ↔ (∀ n, s.cueLoadedSound n) ∧ ∀ n, s.cueArmedSound [] n := by
  simp only [State.cueTableSound, State.cueSound_iff, forall_and]

/-- Every cue keeps its written fields, an EMPTY one all of them, and a loaded one stays loaded. -/
def State.SameLoaded (s t : State) : Prop :=
  ∀ n : CueNo, t.cues[n].spec = s.cues[n].spec ∧ (s.cues[n].state = .empty → t.cues[n] = s.cues[n]) ∧
    (s.cues[n].state ≠ .empty → t.cues[n].state ≠ .empty)

theorem State.SameLoaded.sound {s t : State} (h : s.SameLoaded t) (hs : ∀ n, s.cueLoadedSound n) (n : CueNo) :
    t.cueLoadedSound n := by
  obtain ⟨hspec, hempty, hloaded⟩ := h n
  obtain ⟨hpower, hafter⟩ := hs n
  by_cases h0 : s.cues[n].state = .empty
  · have heq := hempty h0
    exact ⟨fun _ => heq.trans (hpower h0), fun hne => absurd (heq ▸ h0) hne⟩
  · refine ⟨fun hemp => absurd hemp (hloaded h0), fun _ => ?_⟩
    obtain ⟨hscreen, hparent⟩ := hafter h0
    rw [hspec]
    refine ⟨hscreen, fun ht => ?_⟩
    obtain ⟨hdelay, p, hp, hpn, hpe, hps⟩ := hparent ht
    exact ⟨hdelay, p, hp, hpn, (h p).2.2 hpe, by rw [(h p).1, hps]⟩

/-- An operation that arms no cue: a cue that is ARMED after it was so before, with its countdown, and its parent, if it
was FIRED, still is; a cue that is not ARMED has no countdown. -/
structure State.ArmsNone (s t : State) : Prop where
  loaded : s.SameLoaded t
  armed : ∀ n : CueNo, t.cues[n].state = .armed → s.cues[n].state = .armed ∧ t.cues[n].countdown = s.cues[n].countdown ∧
    ∀ p : CueNo, s.cues[n].spec.parent = p.val → s.cues[p].state = .fired → t.cues[p].state = .fired
  idle : ∀ n : CueNo, t.cues[n].state ≠ .armed → t.cues[n].countdown = none

theorem State.ArmsNone.cueTableSound {s t : State} (h : s.ArmsNone t) (hs : s.cueTableSound) : t.cueTableSound := by
  rw [State.cueTableSound_iff] at hs ⊢
  refine ⟨h.loaded.sound hs.1, fun n => ⟨fun hn => ?_, h.idle n⟩⟩
  obtain ⟨hsn, hcount, hfired⟩ := h.armed n hn
  obtain ⟨htrig, hparent, hc⟩ := (hs.2 n).1 hsn
  rw [(h.loaded n).1, hcount]
  exact ⟨htrig, fun p hp => hfired p hp (hparent p hp), hc⟩

/-! ## Children released -/

theorem Cue.armed_of_releasedBy {c : Cue} {left : CueNo → Bool} (h : c.releasedBy left = true) : c.state = .armed :=
  ((Cue.releasedBy_iff c left).mp h).1

theorem State.releaseChildren_of_not_armed (left : CueNo → Bool) (s : State) (n : CueNo) (h : s.cues[n].state ≠ .armed) :
    (s.releaseChildren left).cues[n] = s.cues[n] := by
  rw [State.releaseChildren_get, if_neg fun hr => h (Cue.armed_of_releasedBy hr)]

theorem State.releaseChildren_of_armed (left : CueNo → Bool) (s : State) (n : CueNo)
    (h : (s.releaseChildren left).cues[n].state = .armed) :
    s.cues[n].releasedBy left = false ∧ (s.releaseChildren left).cues[n] = s.cues[n] := by
  rcases s.releaseChildren_cases left n with ⟨-, heq⟩ | hkeep
  · rw [heq] at h
    exact absurd h nofun
  · exact hkeep

theorem State.releaseChildren_sameLoaded (left : CueNo → Bool) (s : State) : s.SameLoaded (s.releaseChildren left) := by
  intro n
  rcases s.releaseChildren_cases left n with ⟨hr, heq⟩ | ⟨-, heq⟩
  · have harmed := Cue.armed_of_releasedBy hr
    rw [heq]
    exact ⟨rfl, fun h => absurd (harmed ▸ h) nofun, fun _ => nofun⟩
  · rw [heq]
    exact ⟨rfl, fun _ => rfl, id⟩

theorem State.releaseChildren_idle (left : CueNo → Bool) (s : State) (n : CueNo)
    (h : s.cues[n].state ≠ .armed → s.cues[n].countdown = none)
    (hn : (s.releaseChildren left).cues[n].state ≠ .armed) : (s.releaseChildren left).cues[n].countdown = none := by
  rcases s.releaseChildren_cases left n with ⟨-, heq⟩ | ⟨-, heq⟩
  · rw [heq]
    rfl
  · rw [heq] at hn ⊢
    exact h hn

theorem State.SameLoaded.trans {s t u : State} (h : s.SameLoaded t) (g : t.SameLoaded u) : s.SameLoaded u := by
  intro n
  obtain ⟨hspec, hempty, hloaded⟩ := h n
  obtain ⟨gspec, gempty, gloaded⟩ := g n
  refine ⟨gspec.trans hspec, fun h0 => ?_, fun h0 => gloaded (hloaded h0)⟩
  have heq := hempty h0
  exact (gempty (heq ▸ h0)).trans heq

/-- The step shared by rearm, CANCEL and the rewriting of a cue: `f` takes cues out of ARMED or FIRED without arming any,
and the ARMED children of those it takes out of FIRED are released. -/
theorem State.release_armsNone {s t : State} (left : CueNo → Bool) (hs : s.cueTableSound) (hl : s.SameLoaded t)
    (harmed : ∀ n : CueNo, t.cues[n].state = .armed → t.cues[n] = s.cues[n])
    (hidle : ∀ n : CueNo, t.cues[n].state ≠ .armed → t.cues[n].countdown = none)
    (hfired : ∀ p : CueNo, s.cues[p].state = .fired → t.cues[p].state = .fired ∨ left p = true) :
    s.ArmsNone (t.releaseChildren left) where
  loaded := hl.trans (t.releaseChildren_sameLoaded left)
  idle n := t.releaseChildren_idle left n (hidle n)
  armed n hn := by
    obtain ⟨hkept, heq⟩ := t.releaseChildren_of_armed left n hn
    rw [heq] at hn
    have hsame := harmed n hn
    rw [heq, hsame]
    rw [hsame] at hkept hn
    refine ⟨hn, rfl, fun p hp hpf => ?_⟩
    rcases hfired p hpf with hf | hleft
    · rw [t.releaseChildren_of_not_armed left p (by rw [hf]; nofun)]
      exact hf
    · have hafter := ((hs n).2.2.1 hn).1
      exact absurd ((Cue.releasedBy_iff _ left).mpr ⟨hn, hafter, p, hp, hleft⟩) (by rw [hkept]; nofun)

/-! ## Rearm -/

theorem Cue.rearmedBy_iff (c : Cue) (i : ScreenNo) (t : ScreenTime) :
    c.rearmedBy i t = true ↔ c.spec.screen = i.val ∧ c.spec.trigger = .atTime ∧ c.spec.rearm = true ∧
      (c.state = .fired ∨ c.state = .missed) ∧ 0 < signedDiff c.spec.time t := by
  simp only [Cue.rearmedBy, Bool.and_eq_true, Bool.or_eq_true, decide_eq_true_eq, and_assoc]

/-- R161: the cues a backward step rearms, before their children are released. -/
theorem State.rearmed_get (i : ScreenNo) (t : ScreenTime) (s : State) (n : CueNo) :
    (s.mapCues fun _ c => if c.rearmedBy i t then c.toPending else c).cues[n] =
      if s.cues[n].rearmedBy i t then s.cues[n].toPending else s.cues[n] := State.mapCues_get _ s n

/-- R161, R163: a backward step's rearm keeps the table. -/
theorem State.rearmCues_cueTableSound (i : ScreenNo) (t : ScreenTime) (s : State) (hs : s.cueTableSound) :
    (s.rearmCues i t).cueTableSound := by
  have hstate {n : CueNo} (h : s.cues[n].rearmedBy i t = true) : s.cues[n].state = .fired ∨ s.cues[n].state = .missed :=
    ((Cue.rearmedBy_iff _ i t).mp h).2.2.2.1
  refine (State.release_armsNone _ hs (fun n => ?_) (fun n hn => ?_) (fun n hn => ?_) fun p hp => ?_).cueTableSound hs
  · rw [State.rearmed_get]
    split
    · next hr => exact ⟨rfl, fun h0 => by rcases hstate hr with h | h <;> exact absurd (h ▸ h0) nofun, fun _ => nofun⟩
    · exact ⟨rfl, fun _ => rfl, id⟩
  · rw [State.rearmed_get] at hn ⊢
    split at hn
    · exact absurd hn nofun
    · rw [if_neg ‹_›]
  · rw [State.rearmed_get] at hn ⊢
    split at hn
    · next hr => rw [if_pos hr]; rfl
    · next hr =>
      rw [if_neg hr]
      exact (hs n).2.2.2 hn
  · rw [State.rearmed_get]
    split
    · next hr => exact .inr (by simp [-Fin.getElem_fin, hr, hp])
    · exact .inl hp

/-- R51, R161: a step of ST keeps everything. -/
theorem State.stepClock_keeps (i : ScreenNo) (d : Int) (s : State) : s.Keeps (s.stepClock i d) := by
  refine .ite (fun _ => .refl s) fun _ => ?_
  have hstep : s.Keeps ((s.modClock i fun c => { c with base := c.base + BitVec.ofInt 32 d }).bumpScreen i .step) :=
    (s.modClock_keeps i _ fun _ h => h).trans (State.bumpScreen_keeps ..)
  refine .ite (fun _ => hstep.trans ?_) fun _ => hstep
  rw [State.rearmCues_eq]
  refine ⟨fun _ => .refl _, ⟨id, id, fun h => ?_, ⟨rfl, rfl, List.prefix_rfl, Nat.le_max_right _ _, id⟩⟩⟩
  exact State.cueTableSound_of_same rfl (State.rearmCues_cueTableSound i _ _ h)

/-! ## One cue replaced -/

/-- An operation on the cue table alone keeps everything when it keeps the table sound. -/
theorem State.Keeps.of_cues {s t : State} (h : t = { s with cues := t.cues })
    (hc : s.cueTableSound → t.cueTableSound) : s.Keeps t := by
  have hsame := State.Keeps.refl s
  rw [h]
  exact ⟨hsame.screens, ⟨hsame.tables.pool, hsame.tables.sources, fun hs => State.cueTableSound_of_same rfl (hc hs),
    ⟨rfl, rfl, List.prefix_rfl, Nat.le_max_right _ _, id⟩⟩⟩

/-- Cue n replaced by one that is not ARMED: its children stay under a loaded parent of their screen, and none of them
is ARMED. -/
theorem State.modCue_cueTableSound {n : CueNo} {f : Cue → Cue} {c : Cue} {s : State} (hf : f s.cues[n] = c)
    (hs : s.cueTableSound) (harmed : c.state ≠ .armed) (hcount : c.countdown = none)
    (hempty : c.state = .empty → c = Cue.powerOn)
    (hloaded : c.state ≠ .empty → c.spec.screen < 6 ∧ (c.spec.trigger = .after → 1 ≤ c.spec.delay ∧
      ∃ p : CueNo, c.spec.parent = p.val ∧ p ≠ n ∧ s.cues[p].state ≠ .empty ∧ s.cues[p].spec.screen = c.spec.screen))
    (hchild : ∀ m : CueNo, m ≠ n → s.cues[m].state ≠ .empty → s.cues[m].spec.trigger = .after →
      s.cues[m].spec.parent = n.val →
        c.state ≠ .empty ∧ c.spec.screen = s.cues[m].spec.screen ∧ s.cues[m].state ≠ .armed) :
    (s.modCue n f).cueTableSound := by
  have same : (s.modCue n f).cues[n] = c := (State.modCue_same n f s).trans hf
  have other {m : CueNo} (h : m ≠ n) : (s.modCue n f).cues[m] = s.cues[m] := State.modCue_other n m f s h
  intro m
  by_cases hm : m = n
  · subst hm
    unfold State.cueSound
    rw [same]
    refine ⟨hempty, fun hne => ⟨(hloaded hne).1, fun ht => ?_⟩, fun h => absurd h harmed, fun _ => hcount⟩
    obtain ⟨hd, p, hp, hpm, hpe, hps⟩ := (hloaded hne).2 ht
    exact ⟨hd, p, hp, hpm, by rw [other hpm]; exact hpe, by rw [other hpm]; exact hps⟩
  · obtain ⟨hpower, hload, harm, hidle⟩ := hs m
    unfold State.cueSound
    rw [other hm]
    refine ⟨hpower, fun hne => ⟨(hload hne).1, fun ht => ?_⟩, fun ha => ?_, hidle⟩
    · obtain ⟨hd, p, hp, hpm, hpe, hps⟩ := (hload hne).2 ht
      refine ⟨hd, p, hp, hpm, ?_⟩
      by_cases hpn : p = n
      · obtain ⟨hce, hcs, -⟩ := hchild m hm hne ht (hpn ▸ hp)
        rw [hpn, same]
        exact ⟨hce, hcs⟩
      · rw [other hpn]
        exact ⟨hpe, hps⟩
    · obtain ⟨ht, hfired, hc⟩ := harm ha
      refine ⟨ht, fun p hp => ?_, hc⟩
      by_cases hpn : p = n
      · exact absurd ha (hchild m hm (by rw [ha]; nofun) ht (hpn ▸ hp)).2.2
      · rw [other hpn]
        exact hfired p hp

/-! ## Children released when their parent leaves FIRED -/

/-- R163: the release before cue n is rewritten or cancelled keeps the table. -/
theorem State.releaseIfFired_cueTableSound (n : CueNo) (s : State) (hs : s.cueTableSound) :
    (s.releaseIfFired n).cueTableSound := by
  unfold State.releaseIfFired
  split
  · exact (State.release_armsNone _ hs (fun _ => ⟨rfl, fun _ => rfl, id⟩) (fun _ _ => rfl) (fun m => (hs m).2.2.2)
      fun _ => .inl).cueTableSound hs
  · exact hs

/-- R163: the release changes no cue but ARMED children, and leaves cue n no ARMED child. -/
theorem State.releaseIfFired_get (n : CueNo) (s : State) (hs : s.cueTableSound) (m : CueNo) :
    (s.releaseIfFired n).cues[m].spec = s.cues[m].spec ∧
      (s.cues[m].state = .empty ↔ (s.releaseIfFired n).cues[m].state = .empty) ∧
      (s.cues[m].spec.parent = n.val → (s.releaseIfFired n).cues[m].state ≠ .armed) := by
  unfold State.releaseIfFired
  split
  · obtain ⟨hspec, hempty, hloaded⟩ := s.releaseChildren_sameLoaded (fun m => m = n) m
    refine ⟨hspec, ⟨fun h => hempty h ▸ h, fun h => Classical.byContradiction fun h0 => hloaded h0 h⟩, fun hp ha => ?_⟩
    obtain ⟨hkept, heq⟩ := s.releaseChildren_of_armed _ m ha
    rw [heq] at ha
    have hafter := ((hs m).2.2.1 ha).1
    exact absurd ((Cue.releasedBy_iff _ _).mpr ⟨ha, hafter, n, hp, decide_eq_true rfl⟩) (by rw [hkept]; nofun)
  · next hnf => exact ⟨rfl, Iff.rfl, fun hp ha => hnf (((hs m).2.2.1 ha).2.1 n hp)⟩

theorem State.releaseIfFired_eq (n : CueNo) (s : State) :
    s.releaseIfFired n = { s with cues := (s.releaseIfFired n).cues } := by
  unfold State.releaseIfFired
  split <;> rfl

/-- R163: an EMPTY cue is no loaded cue's parent. -/
theorem State.cueTableSound.loaded_parent {s : State} (hs : s.cueTableSound) {m n : CueNo} (hm : s.cues[m].state ≠ .empty)
    (ht : s.cues[m].spec.trigger = .after) (hp : s.cues[m].spec.parent = n.val) :
    s.cues[n].state ≠ .empty ∧ s.cues[n].spec.screen = s.cues[m].spec.screen := by
  obtain ⟨-, p, hpp, -, hpe, hps⟩ := ((hs m).2.1 hm).2 ht
  obtain rfl : p = n := Fin.ext (hpp.symm.trans hp)
  exact ⟨hpe, hps⟩

/-! ## The requests on cues -/

theorem State.hasChildren_iff (n : CueNo) (s : State) :
    s.hasChildren n = true ↔
      ∃ m : CueNo, s.cues[m].state ≠ .empty ∧ s.cues[m].spec.trigger = .after ∧ s.cues[m].spec.parent = n.val := by
  unfold State.hasChildren
  simp only [any_indexes, decide_eq_true_eq]

theorem State.parentAllowed_iff (n : CueNo) (w : CueSpec) (s : State) :
    s.parentAllowed n w = true ↔ ∃ p : CueNo, w.parent = p.val ∧ p ≠ n ∧ s.cues[p].state ≠ .empty ∧
      s.cues[p].spec.screen = w.screen := by
  unfold State.parentAllowed
  constructor
  · intro h
    split at h
    · next hlt =>
      rw [Bool.and_eq_true, Bool.and_eq_true, bne_iff_ne, bne_iff_ne, beq_iff_eq] at h
      exact ⟨⟨w.parent, hlt⟩, rfl, fun he => h.1.1 (congrArg Fin.val he), h.1.2, h.2⟩
    · exact absurd h nofun
  · rintro ⟨p, hp, hpn, hpe, hps⟩
    obtain ⟨v, hv⟩ := p
    subst hp
    rw [dif_pos hv]
    simp only [Bool.and_eq_true, bne_iff_ne, beq_iff_eq]
    exact ⟨⟨fun he => hpn (Fin.ext he), hpe⟩, hps⟩

/-- R152: the action's clamps leave the screen, the trigger, the parent and the delay. -/
theorem clampAction_keeps (w : CueSpec) :
    (clampAction w).screen = w.screen ∧ (clampAction w).trigger = w.trigger ∧ (clampAction w).parent = w.parent ∧
      (clampAction w).delay = w.delay := by
  unfold clampAction
  split <;> exact ⟨rfl, rfl, rfl, rfl⟩

/-- R152: the clamps leave the screen, the trigger and the parent. -/
theorem clampCue_keeps (w : CueSpec) :
    (clampCue w).screen = w.screen ∧ (clampCue w).trigger = w.trigger ∧ (clampCue w).parent = w.parent := by
  obtain ⟨hscreen, htrigger, hparent, -⟩ := clampAction_keeps (clampTrigger w)
  rw [clampCue, hscreen, htrigger, hparent]
  unfold clampTrigger
  split <;> exact ⟨rfl, rfl, rfl⟩

/-- R152: the delay of a stored AFTER cue is at least 1. -/
theorem clampCue_delay (w : CueSpec) (h : w.trigger = .after) : 1 ≤ (clampCue w).delay := by
  rw [clampCue, (clampAction_keeps _).2.2.2, clampTrigger, h]
  exact le_clampNat 1 60000 w.delay

/-- R152: a CUE write keeps the table, whether it clears the cue or loads it. -/
theorem doWriteCue_keeps (index : Nat) (w : CueSpec) (s : State) : s.Keeps (doWriteCue index w s).state := by
  unfold doWriteCue
  split
  case isFalse => exact .refl s
  next h =>
  dsimp only
  split
  · split
    · exact .refl s
    next hnone =>
    refine .of_cues rfl fun hs => State.modCue_cueTableSound rfl hs nofun rfl (fun _ => rfl)
      (fun hne => absurd rfl hne) fun m _ hm ht hp => absurd ?_ hnone
    exact (State.hasChildren_iff _ s).mpr ⟨m, hm, ht, hp⟩
  split
  · exact .refl s
  next hscreen =>
  split
  · exact .refl s
  next hafter =>
  split
  · exact .refl s
  split
  · exact .refl s
  next hmoved =>
  have heq := State.releaseIfFired_eq ⟨index, h⟩ s
  refine .of_cues (by rw [accept, State.modCue, heq]) fun hs => ?_
  have hget := State.releaseIfFired_get ⟨index, h⟩ s hs
  obtain ⟨hcs, hct, hcp⟩ := clampCue_keeps w
  refine State.modCue_cueTableSound rfl (State.releaseIfFired_cueTableSound _ s hs) nofun rfl nofun
    (fun _ => ⟨hcs ▸ Nat.lt_of_not_le hscreen, fun ht => ?_⟩) fun m hmn hm ht hp => ?_
  · have hw : w.trigger = .after := hct ▸ ht
    have hallowed : s.parentAllowed ⟨index, h⟩ w = true := by
      refine Decidable.byContradiction fun hn => ?_
      exact hafter ⟨hw, by simpa using hn⟩
    obtain ⟨p, hp, hpn, hpe, hps⟩ := (State.parentAllowed_iff _ w s).mp hallowed
    exact ⟨clampCue_delay w hw, p, hcp.trans hp, hpn, fun h0 => hpe ((hget p).2.1.mpr h0),
      (congrArg CueSpec.screen (hget p).1).trans (hps.trans hcs.symm)⟩
  · obtain ⟨hspec, hempty, hnone⟩ := hget m
    rw [hspec] at ht hp ⊢
    have hme : s.cues[m].state ≠ .empty := fun h0 => hm (hempty.mp h0)
    obtain ⟨hne, hsame⟩ := hs.loaded_parent hme ht hp
    refine ⟨nofun, ?_, hnone hp⟩
    have hkeep : s.cues[(⟨index, h⟩ : CueNo)].spec.screen = w.screen := by
      refine Decidable.byContradiction fun hdiff => ?_
      exact hmoved ⟨hne, hdiff, (State.hasChildren_iff _ s).mpr ⟨m, hme, ht, hp⟩⟩
    exact hcs.trans (hkeep.symm.trans hsame)

/-- A change of one loaded cue that leaves its written fields, its state and its countdown. -/
theorem State.modCue_keeps_same (n : CueNo) (f : Cue → Cue) (s : State) (hne : s.cues[n].state ≠ .empty)
    (hspec : (f s.cues[n]).spec = s.cues[n].spec) (hstate : (f s.cues[n]).state = s.cues[n].state)
    (hcount : (f s.cues[n]).countdown = s.cues[n].countdown) : s.Keeps (s.modCue n f) := by
  have hget (m : CueNo) : (s.modCue n f).cues[m].spec = s.cues[m].spec ∧
      (s.modCue n f).cues[m].state = s.cues[m].state ∧ (s.modCue n f).cues[m].countdown = s.cues[m].countdown := by
    by_cases h : m = n
    · rw [h, State.modCue_same]
      exact ⟨hspec, hstate, hcount⟩
    · rw [State.modCue_other _ _ _ _ h]
      exact ⟨rfl, rfl, rfl⟩
  refine .of_cues rfl fun hs => State.ArmsNone.cueTableSound ⟨fun m => ⟨(hget m).1, fun h0 => ?_, fun hm => ?_⟩,
    fun m hm => ⟨(hget m).2.1 ▸ hm, (hget m).2.2, fun p _ hf => (hget p).2.1.trans hf⟩,
    fun m hm => (hget m).2.2.trans ((hs m).2.2.2 ((hget m).2.1 ▸ hm))⟩ hs
  · exact State.modCue_other n m f s fun he => hne (he ▸ h0)
  · rw [(hget m).2.1]
    exact hm

/-- R156: a GO request. -/
theorem doGo_keeps (cue : Nat) (s : State) : s.Keeps (doGo cue s).state := by
  unfold doGo
  split
  · dsimp only
    split
    · exact .refl s
    · exact .refl s
    all_goals next h => exact s.modCue_keeps_same _ _ (by rw [h]; nofun) rfl rfl rfl
  · exact .refl s

/-- A loaded cue that leaves its state for one that is not ARMED, once its ARMED children are released. -/
theorem State.idled_keeps (n : CueNo) (f : Cue → Cue) (s : State) (hne : s.cues[n].state ≠ .empty)
    (hspec : ∀ c, (f c).spec = c.spec) (hempty : ∀ c, (f c).state ≠ .empty) (harmed : ∀ c, (f c).state ≠ .armed)
    (hcount : (f (s.releaseIfFired n).cues[n]).countdown = none) : s.Keeps ((s.releaseIfFired n).modCue n f) := by
  have heq := State.releaseIfFired_eq n s
  refine .of_cues (by rw [State.modCue, heq]) fun hs => ?_
  have hget := State.releaseIfFired_get n s hs
  have hr := State.releaseIfFired_cueTableSound n s hs
  have hrn : (s.releaseIfFired n).cues[n].state ≠ .empty := fun h0 => hne ((hget n).2.1.mpr h0)
  refine State.modCue_cueTableSound rfl hr (harmed _) hcount (fun h0 => absurd h0 (hempty _)) (fun _ => ?_)
    fun m _ hm ht hp => ?_
  · rw [hspec]
    exact (hr n).2.1 hrn
  · rw [hspec]
    exact ⟨hempty _, (hr.loaded_parent hm ht hp).2, (hget m).2.2 (by rw [← (hget m).1]; exact hp)⟩

/-- R162: CANCEL. -/
theorem doCancel_keeps (cue : Nat) (s : State) : s.Keeps (doCancel cue s).state := by
  unfold doCancel
  split
  · dsimp only
    split
    · exact .refl s
    · exact .refl s
    all_goals
      next h => exact s.idled_keeps _ _ (by rw [h]; nofun) (fun _ => rfl) (fun _ => nofun) (fun _ => nofun) rfl
  · exact .refl s

/-- R162: ENABLE. -/
theorem doEnable_keeps (cue : Nat) (s : State) : s.Keeps (doEnable cue s).state := by
  unfold doEnable
  split
  · dsimp only
    split
    · exact .refl s
    · next h =>
      refine .of_cues rfl fun hs => State.modCue_cueTableSound rfl hs nofun ?_ nofun (fun _ => ?_) fun m _ hm ht hp => ?_
      · exact (hs _).2.2.2 (by rw [h]; nofun)
      · exact (hs _).2.1 (by rw [h]; nofun)
      · refine ⟨nofun, (hs.loaded_parent hm ht hp).2, fun ha => ?_⟩
        exact absurd (((hs m).2.2.1 ha).2.1 _ hp) (by rw [h]; nofun)
    all_goals exact .refl s
  · exact .refl s

/-! ## The screen reset -/

theorem Cue.afterReset_cases (c : Cue) :
    c.afterReset.spec = c.spec ∧ (c.state = .empty → c.afterReset = c) ∧ (c.state ≠ .empty → c.afterReset.state ≠ .empty) ∧
      c.afterReset.state ≠ .armed ∧ (c.countdown = none → c.afterReset.countdown = none) ∧
      (c.state = .armed → c.afterReset.countdown = none) := by
  unfold Cue.afterReset
  split
  · next h => exact ⟨rfl, fun _ => rfl, fun hne => absurd h hne, by rw [h]; nofun, id, fun ha => by simp [h] at ha⟩
  · next h => exact ⟨rfl, fun h0 => by simp [h] at h0, fun _ => by simp [h], by simp [h], id, fun ha => by simp [h] at ha⟩
  all_goals next h => exact ⟨rfl, fun h0 => by simp [h] at h0, fun _ => nofun, nofun, fun _ => rfl, fun _ => rfl⟩

/-- R164: the cues of a screen at its reset: parent and child stand on one screen, so both leave their states. -/
theorem State.resetCues_keeps (i : ScreenNo) (s : State) : s.Keeps (s.resetCues i) := by
  have hget (n : CueNo) : (s.resetCues i).cues[n] =
      if s.cues[n].spec.screen = i.val then s.cues[n].afterReset else s.cues[n] := State.mapCues_get _ s n
  refine .of_cues rfl fun hs => State.ArmsNone.cueTableSound ⟨fun n => ?_, fun n hn => ?_, fun n hn => ?_⟩ hs
  · rw [hget]
    obtain ⟨hspec, hempty, hloaded, -⟩ := s.cues[n].afterReset_cases
    split
    · exact ⟨hspec, hempty, hloaded⟩
    · exact ⟨rfl, fun _ => rfl, id⟩
  · rw [hget] at hn ⊢
    split at hn
    · exact absurd hn s.cues[n].afterReset_cases.2.2.2.1
    next hoff =>
    rw [if_neg hoff]
    refine ⟨hn, rfl, fun p hp hf => ?_⟩
    have hafter := ((hs n).2.2.1 hn).1
    rw [hget, if_neg ((hs.loaded_parent (by rw [hn]; nofun) hafter hp).2 ▸ hoff)]
    exact hf
  · obtain ⟨-, -, -, -, hnone, harmed⟩ := s.cues[n].afterReset_cases
    rw [hget] at hn ⊢
    split at hn
    · next hon =>
      rw [if_pos hon]
      by_cases ha : s.cues[n].state = .armed
      · exact harmed ha
      · exact hnone ((hs n).2.2.2 ha)
    · next hoff =>
      rw [if_neg hoff]
      exact (hs n).2.2.2 hn

end Sys2Proof.Machine
end

section
/-! PROOFS. Source changes (R22 to R26): what PRIME, ACTIVATE and DEACTIVATE leave entry by entry and queue by queue, and
what they keep of the pool and the sources. -/

namespace Sys2Proof.Machine

/-! ## The pool under a change of one screen's queues -/

/-- A sum over a list in which one entry's term alone changes. -/
theorem sum_map_of_changed_at {α : Type} {l : List α} {f g : α → Nat} {i : α} (hl : l.Nodup) (hi : i ∈ l)
    (other : ∀ j, j ≠ i → g j = f j) : (l.map g).sum + f i = (l.map f).sum + g i := by
  induction l with
  | nil => exact absurd hi List.not_mem_nil
  | cons a l ih =>
    obtain ⟨hnot, hl⟩ := List.nodup_cons.mp hl
    rw [List.map_cons, List.map_cons, List.sum_cons, List.sum_cons]
    rcases List.mem_cons.mp hi with rfl | hi
    · have hrest : l.map g = l.map f := List.map_congr_left fun j hj => other j fun h => hnot (h ▸ hj)
      rw [hrest]
      omega
    · have ha := other a fun h => hnot (h ▸ hi)
      have hsum := ih hl hi
      omega

/-- R28: slots moved between the free list and the queues of one screen are conserved. -/
theorem State.poolSound_of_screen {s t : State} (i : ScreenNo) (hs : s.poolSound)
    (other : ∀ j : ScreenNo, j ≠ i → t.screens[j].playout.held = s.screens[j].playout.held ∧
      t.screens[j].settings.quota = s.screens[j].settings.quota)
    (sum : t.freeSlots + t.screens[i].playout.held = s.freeSlots + s.screens[i].playout.held)
    (quota : s.screens[i].playout.held ≤ s.screens[i].settings.quota →
      t.screens[i].playout.held ≤ t.screens[i].settings.quota) : t.poolSound := by
  rw [State.poolSound_iff] at hs ⊢
  obtain ⟨hsum, hquota⟩ := hs
  have hchange := sum_map_of_changed_at (f := fun j : ScreenNo => s.screens[j].playout.held)
    (g := fun j : ScreenNo => t.screens[j].playout.held) (List.nodup_finRange 6) (List.mem_finRange i) fun j hj => (other j hj).1
  refine ⟨?_, fun j => ?_⟩
  · omega
  · by_cases h : j = i
    · exact h ▸ quota (hquota i)
    · rw [(other j h).1, (other j h).2]
      exact hquota j

/-! ## Queues freed and swapped -/

theorem State.freeProgram_screen (i : ScreenNo) (s : State) :
    (s.freeProgram i).screens[i] = { s.screens[i] with playout := { s.screens[i].playout with program := [] } } :=
  State.modScreen_same _ _ _

theorem State.freeStandby_screen (i : ScreenNo) (s : State) :
    (s.freeStandby i).screens[i] = { s.screens[i] with playout := { s.screens[i].playout with standby := [] } } :=
  State.modScreen_same _ _ _

theorem State.swapQueues_screen (i : ScreenNo) (s : State) :
    (s.swapQueues i).screens[i] =
      { s.screens[i] with playout := { s.screens[i].playout with program := s.screens[i].playout.standby, standby := [] } } :=
  State.modScreen_same _ _ _

@[simp] theorem State.freeProgram_freeSlots (i : ScreenNo) (s : State) :
    (s.freeProgram i).freeSlots = s.freeSlots + s.screens[i].playout.program.length := rfl

@[simp] theorem State.freeStandby_freeSlots (i : ScreenNo) (s : State) :
    (s.freeStandby i).freeSlots = s.freeSlots + s.screens[i].playout.standby.length := rfl

/-! ## The roles a source change gives -/

/-- R23, R24: entry e takes the role `st` of its screen from the entry that held it, and keeps its last sequence when
`keep` holds. -/
def State.takesRole (e : EntryNo) (st : EntryState) (keep : Prop) [Decidable keep] (s t : State) : Prop :=
  ∀ o : EntryNo, t.entries[o] =
    if o = e then { s.entries[e] with state := st, lastSeq := if keep then s.entries[e].lastSeq else none }
    else if s.entries[o].state = st ∧ s.entries[o].screen = s.entries[e].screen then
      { s.entries[o] with state := .inactive }
    else s.entries[o]

theorem State.takesRole.same {e : EntryNo} {st : EntryState} {keep : Prop} [Decidable keep] {s t : State}
    (h : s.takesRole e st keep t) (o : EntryNo) :
    t.entries[o].number = s.entries[o].number ∧ t.entries[o].screen = s.entries[o].screen := by
  rw [h o]
  split
  · next heq => rw [heq]; exact ⟨rfl, rfl⟩
  · split <;> exact ⟨rfl, rfl⟩

/-- The state of an entry once e has taken its role. -/
theorem State.takesRole.state {e : EntryNo} {st : EntryState} {keep : Prop} [Decidable keep] {s t : State}
    (h : s.takesRole e st keep t) (o : EntryNo) :
    t.entries[o].state =
      if o = e then st
      else if s.entries[o].state = st ∧ s.entries[o].screen = s.entries[e].screen then .inactive
      else s.entries[o].state := by
  rw [h o]
  split
  · rfl
  · split <;> rfl

/-- R21: the halves of `State.sourcesSound` that read the entries alone. -/
def State.entriesSound (s : State) : Prop :=
  (∀ e o : EntryNo, s.entries[e].screen = s.entries[o].screen → s.entries[e].state = s.entries[o].state →
      s.entries[e].state = .active ∨ s.entries[e].state = .primed → e = o) ∧
    (∀ e o : EntryNo, s.entries[e].state ≠ .unused → s.entries[o].state ≠ .unused →
      s.entries[e].number = s.entries[o].number → e = o) ∧
    ∀ e : EntryNo, s.entries[e].number ≤ 4095 ∧ (s.entries[e].number = 0 ↔ s.entries[e].state = .unused)

/-- R21: every block of the screen's queues came from the entry that fills the queue. -/
def State.queuesSound (s : State) (i : ScreenNo) : Prop :=
  (∀ b ∈ s.screens[i].playout.program, s.entries[b.entry].screen = i ∧ s.entries[b.entry].state = .active) ∧
    ∀ b ∈ s.screens[i].playout.standby, s.entries[b.entry].screen = i ∧ s.entries[b.entry].state = .primed

theorem State.sourcesSound_iff (s : State) : s.sourcesSound ↔ s.entriesSound ∧ ∀ i, s.queuesSound i := by
  constructor
  · rintro ⟨hone, hnumber, hrange, hprogram, hstandby⟩
    exact ⟨⟨hone, hnumber, hrange⟩, fun i => ⟨hprogram i, hstandby i⟩⟩
  · rintro ⟨⟨hone, hnumber, hrange⟩, hqueues⟩
    exact ⟨hone, hnumber, hrange, fun i => (hqueues i).1, fun i => (hqueues i).2⟩

/-- An entry in use that takes the role ACTIVE or PRIMED, the one it displaces becoming INACTIVE. -/
theorem State.takesRole.entriesSound {e : EntryNo} {st : EntryState} {keep : Prop} [Decidable keep] {s t : State}
    (h : s.takesRole e st keep t) (hst : st = .active ∨ st = .primed) (hused : s.entries[e].state ≠ .unused)
    (hs : s.entriesSound) : t.entriesSound := by
  obtain ⟨hone, hnumber, hrange⟩ := hs
  have unused (o : EntryNo) : t.entries[o].state = .unused ↔ s.entries[o].state = .unused := by
    rw [h.state o]
    split
    · next heq => rw [heq]; rcases hst with rfl | rfl <;> exact ⟨nofun, fun h => absurd h hused⟩
    · split
      · next hold => rw [hold.1]; rcases hst with rfl | rfl <;> exact ⟨nofun, nofun⟩
      · exact Iff.rfl
  refine ⟨fun a b hscreen hstate hrole => ?_, fun a b ha hb hab => ?_, fun a => ?_⟩
  · rw [(h.same a).2, (h.same b).2] at hscreen
    rw [h.state a] at hstate hrole
    rw [h.state b] at hstate
    by_cases hae : a = e
    · by_cases hbe : b = e
      · rw [hae, hbe]
      · rw [if_pos hae, if_neg hbe] at hstate
        split at hstate
        · next hold => rcases hst with h | h <;> exact absurd (h ▸ hstate) nofun
        · next hold => exact absurd ⟨hstate.symm, by rw [← hscreen, hae]⟩ hold
    · rw [if_neg hae] at hstate hrole
      split at hrole
      · rcases hrole with h | h <;> exact absurd h nofun
      next hold =>
      rw [if_neg hold] at hstate
      by_cases hbe : b = e
      · rw [if_pos hbe] at hstate
        exact absurd ⟨hstate, by rw [hscreen, hbe]⟩ hold
      · rw [if_neg hbe] at hstate
        split at hstate
        · rcases hrole with h | h <;> exact absurd (h ▸ hstate) nofun
        · exact hone a b hscreen hstate hrole
  · rw [(h.same a).1, (h.same b).1] at hab
    exact hnumber a b (fun h0 => ha ((unused a).mpr h0)) (fun h0 => hb ((unused b).mpr h0)) hab
  · rw [(h.same a).1, unused a]
    exact hrange a

/-! ## PRIME and ACTIVATE, entry by entry -/

theorem State.setEntryState_get (e o : EntryNo) (st : EntryState) (s : State) :
    (s.setEntryState e st).entries[o] = if o = e then { s.entries[e] with state := st } else s.entries[o] :=
  adjust_get _ _ _ _

theorem State.forgetSequence_get (e o : EntryNo) (s : State) :
    (s.forgetSequence e).entries[o] = if o = e then { s.entries[e] with lastSeq := none } else s.entries[o] :=
  adjust_get _ _ _ _

/-- R21, R23: with one PRIMED entry a screen, its displacement makes every PRIMED entry of the screen INACTIVE. -/
theorem State.displacePrimed_get (i : ScreenNo) (s : State) (hs : s.entriesSound) (o : EntryNo) :
    (s.displacePrimed i).entries[o] =
      if s.entries[o].state = .primed ∧ s.entries[o].screen = i then { s.entries[o] with state := .inactive }
      else s.entries[o] := by
  unfold State.displacePrimed
  cases hp : s.primedEntry i with
  | none => exact (if_neg (State.primedEntry_none hp o)).symm
  | some p =>
    obtain ⟨hstate, hscreen⟩ := State.primedEntry_some hp
    refine (State.setEntryState_get p o .inactive s).trans ?_
    by_cases h : o = p
    · rw [if_pos h, h, if_pos ⟨hstate, hscreen⟩]
    · rw [if_neg h, if_neg]
      rintro ⟨ho, hoi⟩
      exact h (hs.1 o p (hoi.trans hscreen.symm) (ho.trans hstate.symm) (.inr ho))

/-- R21, R24: with one ACTIVE entry a screen, its retirement makes every ACTIVE entry of the screen INACTIVE. -/
theorem State.retireActive_get (i : ScreenNo) {s t : State} (ht : t.entries = s.entries) (hs : s.entriesSound)
    (o : EntryNo) :
    (t.retireActive i).entries[o] =
      if s.entries[o].state = .active ∧ s.entries[o].screen = i then { s.entries[o] with state := .inactive }
      else s.entries[o] := by
  unfold State.retireActive
  rw [State.activeEntry_congr i ht]
  cases ha : s.activeEntry i with
  | none =>
    rw [if_neg (State.activeEntry_none ha o)]
    exact congrArg (fun v : Vector StreamEntry 32 => v[o]) ht
  | some a =>
    obtain ⟨hstate, hscreen⟩ := State.activeEntry_some ha
    refine (State.setEntryState_get a o .inactive t).trans ?_
    rw [ht]
    by_cases h : o = a
    · rw [if_pos h, h, if_pos ⟨hstate, hscreen⟩]
    · rw [if_neg h, if_neg]
      rintro ⟨ho, hoi⟩
      exact h (hs.1 o a (hoi.trans hscreen.symm) (ho.trans hstate.symm) (.inl ho))

/-- R23: PRIME of an INACTIVE entry. -/
theorem State.primeInactive_takesRole (e : EntryNo) (s : State) (hs : s.entriesSound) (he : s.entries[e].state = .inactive) :
    s.takesRole e .primed False (s.primeInactive e) := by
  intro o
  unfold State.primeInactive
  rw [State.forgetSequence_get, State.setEntryState_get, State.setEntryState_get]
  by_cases h : o = e
  · rw [if_pos h, if_pos rfl, if_pos h, State.displacePrimed_get _ s hs, he, if_neg (fun hh => nomatch hh.1)]
    rfl
  · rw [if_neg h, if_neg h, if_neg h, State.displacePrimed_get _ s hs]

/-- R24: ACTIVATE of a PRIMED entry, which keeps its last sequence. -/
theorem State.activatePrimed_takesRole (e : EntryNo) (s : State) (hs : s.entriesSound) (he : s.entries[e].state = .primed) :
    s.takesRole e .active True (s.activatePrimed e) := by
  intro o
  unfold State.activatePrimed
  have hr := State.retireActive_get (s := s) (t := (s.freeProgram s.entries[e].screen).swapQueues s.entries[e].screen)
    s.entries[e].screen rfl hs
  rw [State.setEntryState_get]
  by_cases h : o = e
  · rw [if_pos h, if_pos h, hr, he, if_neg fun hh => nomatch hh.1]
    rfl
  · rw [if_neg h, if_neg h, hr]

/-- R24: ACTIVATE of an INACTIVE entry. -/
theorem State.activateInactive_takesRole (e : EntryNo) (s : State) (hs : s.entriesSound)
    (he : s.entries[e].state = .inactive) : s.takesRole e .active False (s.activateInactive e) := by
  intro o
  unfold State.activateInactive
  have hr := State.retireActive_get (s := s) (t := s.freeProgram s.entries[e].screen) s.entries[e].screen rfl hs
  rw [State.forgetSequence_get, State.setEntryState_get, State.setEntryState_get]
  by_cases h : o = e
  · rw [if_pos h, if_pos rfl, if_pos h, hr, he, if_neg fun hh => nomatch hh.1]
    rfl
  · rw [if_neg h, if_neg h, if_neg h, hr]

/-! ## PRIME and ACTIVATE, queue by queue -/

/-- R23: PRIME frees the standby queue of the screen; a screen without a PRIMED entry has none. -/
theorem State.displacePrimed_queues (i : ScreenNo) (s : State) (hs : s.sourcesSound) :
    (s.displacePrimed i).freeSlots = s.freeSlots + s.screens[i].playout.standby.length ∧
      (s.displacePrimed i).screens[i] =
        { s.screens[i] with playout := { s.screens[i].playout with standby := [] } } := by
  unfold State.displacePrimed
  cases hp : s.primedEntry i with
  | none =>
    have hnil : s.screens[i].playout.standby = [] := List.eq_nil_iff_forall_not_mem.mpr fun b hb =>
      have := ((s.sourcesSound_iff.mp hs).2 i).2 b hb
      State.primedEntry_none hp b.entry ⟨this.2, this.1⟩
    refine ⟨by rw [hnil]; rfl, ?_⟩
    dsimp only
    rw [← hnil]
  | some p => exact ⟨rfl, State.freeStandby_screen i _⟩

/-- What PRIME of an INACTIVE entry leaves of the pool. -/
theorem State.primeInactive_queues (e : EntryNo) (s : State) (hs : s.sourcesSound) :
    (s.primeInactive e).freeSlots = s.freeSlots + s.screens[s.entries[e].screen].playout.standby.length ∧
      ∀ i : ScreenNo, (s.primeInactive e).screens[i] =
        if i = s.entries[e].screen then { s.screens[i] with playout := { s.screens[i].playout with standby := [] } }
        else s.screens[i] := by
  obtain ⟨hfree, hscreen⟩ := s.displacePrimed_queues s.entries[e].screen hs
  refine ⟨hfree, fun i => ?_⟩
  split
  · next h => rw [h]; exact hscreen
  · next h => exact s.displacePrimed_other _ _ h

/-- What ACTIVATE of a PRIMED entry leaves of the pool. -/
theorem State.activatePrimed_queues (e : EntryNo) (s : State) :
    (s.activatePrimed e).freeSlots = s.freeSlots + s.screens[s.entries[e].screen].playout.program.length ∧
      ∀ i : ScreenNo, (s.activatePrimed e).screens[i] =
        if i = s.entries[e].screen then
          { s.screens[i] with
            playout := { s.screens[i].playout with program := s.screens[i].playout.standby, standby := [] } }
        else s.screens[i] := by
  unfold State.activatePrimed
  have hfree (i : ScreenNo) (t : State) : (t.retireActive i).freeSlots = t.freeSlots := by
    unfold State.retireActive
    split <;> rfl
  refine ⟨hfree _ _, fun i => ?_⟩
  show (State.retireActive _ _).screens[i] = _
  rw [State.retireActive_screens]
  split
  · next h => rw [h, State.swapQueues_screen, State.freeProgram_screen]
  · next h => rw [State.swapQueues_other _ _ _ h, State.freeProgram_other _ _ _ h]

/-- What ACTIVATE of an INACTIVE entry leaves of the pool. -/
theorem State.activateInactive_queues (e : EntryNo) (s : State) :
    (s.activateInactive e).freeSlots = s.freeSlots + s.screens[s.entries[e].screen].playout.program.length ∧
      ∀ i : ScreenNo, (s.activateInactive e).screens[i] =
        if i = s.entries[e].screen then { s.screens[i] with playout := { s.screens[i].playout with program := [] } }
        else s.screens[i] := by
  unfold State.activateInactive
  have hfree (i : ScreenNo) (t : State) : (t.retireActive i).freeSlots = t.freeSlots := by
    unfold State.retireActive
    split <;> rfl
  refine ⟨hfree _ _, fun i => ?_⟩
  show (State.retireActive _ _).screens[i] = _
  rw [State.retireActive_screens]
  split
  · next h => rw [h, State.freeProgram_screen]
  · next h => exact State.freeProgram_other _ _ _ h

/-! ## The rows of R22 to R25 -/

/-- An answer that is a refusal, of a request the handler takes at once. -/
theorem exec_refused {c : Instr} {tag : Byte} {r : Request} {s : State} {e : Result} (hc : requestOf c = some (tag, r))
    (hs : s.free) (hr : perform r s = refuse s e) : exec c s = s.answers tag e [] := by
  rw [exec_request c tag r s hc, State.submit_of_free s tag r hs, hr]
  rfl

/-- An answer that is carried out, of a request the handler takes at once. -/
theorem exec_accepted {c : Instr} {tag : Byte} {r : Request} {s t : State} {clamped : Bool} {record : List Byte}
    (hc : requestOf c = some (tag, r)) (hs : s.free) (hr : perform r s = accept t clamped record) :
    exec c s = t.answers tag (if clamped then .okClamped else .ok) record := by
  rw [exec_request c tag r s hc, State.submit_of_free s tag r hs, hr]
  rfl

theorem doPrime_of_lt (e : EntryNo) (s : State) : doPrime e.val s = entryAnswer e s (s.primeEntry e) := dif_pos e.isLt

theorem doActivate_of_lt (e : EntryNo) (s : State) : doActivate e.val s = entryAnswer e s (s.activateEntry e) :=
  dif_pos e.isLt

theorem doDeactivate_of_lt (e : EntryNo) (s : State) : doDeactivate e.val s = entryAnswer e s (s.deactivateEntry e) :=
  dif_pos e.isLt

/-- Settles O18: PRIME in each state, the entries by `State.takesRole` and the queues by `State.primeInactive_queues`. -/
theorem primeFollowsTheEntryState : Obligations.PrimeFollowsTheEntryState := by
  intro tag s hfree hs
  refine ⟨fun entry h => exec_refused rfl hfree (dif_neg (Nat.not_lt.mpr h)), fun e => ?_⟩
  have hentry : ∀ st, s.entries[e].state = st → perform (.prime e.val) s = entryAnswer e s
      (match st with
        | .inactive => (s.primeInactive e, .ok)
        | .primed => (s, .ok)
        | .active => (s, .inUse)
        | .unused => (s, .empty)) := by
    intro st hst
    refine (doPrime_of_lt e s).trans ?_
    cases st <;> simp only [State.primeEntry, hst]
  refine ⟨fun h => exec_refused rfl hfree (hentry _ h), fun h => exec_refused rfl hfree (hentry _ h),
    fun h => exec_accepted rfl hfree (hentry _ h), fun h => ⟨s.primeInactive e, exec_accepted rfl hfree (hentry _ h),
      s.primeInactive_same e, ?_, s.primeInactive_queues e hs⟩⟩
  exact s.primeInactive_takesRole e (s.sourcesSound_iff.mp hs).1 h

/-- Settles O19: ACTIVATE in each state, a PRIMED entry with the swap of its queue and an INACTIVE one without. -/
theorem activateFollowsTheEntryState : Obligations.ActivateFollowsTheEntryState := by
  intro tag s hfree hs
  refine ⟨fun entry h => exec_refused rfl hfree (dif_neg (Nat.not_lt.mpr h)), fun e => ?_⟩
  have hentries := (s.sourcesSound_iff.mp hs).1
  have hentry : ∀ st, s.entries[e].state = st → perform (.activate e.val) s = entryAnswer e s
      (match st with
        | .primed => (s.activatePrimed e, .ok)
        | .inactive => (s.activateInactive e, .ok)
        | .active => (s, .ok)
        | .unused => (s, .empty)) := by
    intro st hst
    refine (doActivate_of_lt e s).trans ?_
    cases st <;> simp only [State.activateEntry, hst]
  refine ⟨fun h => exec_refused rfl hfree (hentry _ h), fun h => exec_accepted rfl hfree (hentry _ h), fun h => ?_⟩
  rcases h with h | h
  · refine ⟨s.activatePrimed e, exec_accepted rfl hfree (hentry _ h), s.activatePrimed_same e, ?_, ?_⟩
    · simp only [h, if_true]
      exact s.activatePrimed_takesRole e hentries h
    · simp only [h, if_true]
      exact s.activatePrimed_queues e
  · refine ⟨s.activateInactive e, exec_accepted rfl hfree (hentry _ h), s.activateInactive_same e, ?_, ?_⟩
    · simp only [h, reduceCtorEq, if_false]
      exact s.activateInactive_takesRole e hentries h
    · simp only [h, reduceCtorEq, if_false]
      exact s.activateInactive_queues e

/-- Settles O20: DEACTIVATE in each state, the next state given whole. -/
theorem deactivateFollowsTheEntryState : Obligations.DeactivateFollowsTheEntryState := by
  intro tag s hfree
  refine ⟨fun entry h => exec_refused rfl hfree (dif_neg (Nat.not_lt.mpr h)), fun e i hi => ?_⟩
  subst hi
  have hentry : ∀ st, s.entries[e].state = st → perform (.deactivate e.val) s = entryAnswer e s
      (match st with
        | .active => ((s.setEntryState e .inactive).freeProgram s.entries[e].screen, .ok)
        | .primed => ((s.setEntryState e .inactive).freeStandby s.entries[e].screen, .ok)
        | .inactive => (s, .ok)
        | .unused => (s, .empty)) := by
    intro st hst
    refine (doDeactivate_of_lt e s).trans ?_
    cases st <;> simp only [State.deactivateEntry, hst]
  have hrecord : streamBytes { s.entries[e] with state := .inactive } =
      streamBytes (s.setEntryState e .inactive).entries[e] := congrArg streamBytes (State.modEntry_same e (fun x => { x with state := .inactive }) s).symm
  refine ⟨fun h => exec_refused rfl hfree (hentry _ h), fun h => exec_accepted rfl hfree (hentry _ h),
    fun h => ?_, fun h => ?_⟩
  · refine (exec_accepted rfl hfree (hentry _ h)).trans ?_
    rw [hrecord]
    rfl
  · refine (exec_accepted rfl hfree (hentry _ h)).trans ?_
    rw [hrecord]
    rfl

end Sys2Proof.Machine
end

section
/-! PROOFS. What the operations on streams and blocks keep: source changes, STREAM writes, offers, selection, pruning, the
quota trim and the screen reset's part in the shared tables (R22 to R32, R41 to R48). -/

namespace Sys2Proof.Machine

/-! ## Everything but the sources -/

/-- What an operation on the queues keeps when the sources are judged by its whole effect. -/
structure State.KeepsButSources (s t : State) : Prop where
  screens : ∀ i : ScreenNo, s.screens[i].Keeps t.screens[i]
  pool : s.poolSound → t.poolSound
  cues : t.cues = s.cues
  offers : s.OnlyOffers t

theorem State.KeepsButSources.refl (s : State) : s.KeepsButSources s := ⟨fun _ => .refl _, id, rfl, .refl s⟩

theorem State.KeepsButSources.trans {s t u : State} (h : s.KeepsButSources t) (g : t.KeepsButSources u) :
    s.KeepsButSources u :=
  ⟨fun i => (h.screens i).trans (g.screens i), g.pool ∘ h.pool, g.cues.trans h.cues, h.offers.trans g.offers⟩

theorem State.KeepsButSources.keeps {s t : State} (h : s.KeepsButSources t) (hs : s.sourcesSound → t.sourcesSound) :
    s.Keeps t :=
  ⟨h.screens, h.pool, hs, State.cueTableSound_of_same h.cues, h.offers⟩

/-- A change of the scheduler context that leaves the screen mode. -/
theorem Screen.playout_keeps (x : Screen) (p : Playout) (mode : p.mode = x.playout.mode) :
    x.Keeps { x with playout := p } where
  signal hx := by
    obtain ⟨hnoise, hmode, hcheck⟩ := hx
    exact ⟨hnoise, by rw [mode]; exact hmode, hcheck⟩

/-- Blocks of one screen freed, kept or moved between its queues: the slots are conserved. -/
theorem State.KeepsButSources.of_playout {s t : State} (i : ScreenNo) (p : Playout)
    (ht : t = { s with freeSlots := t.freeSlots, entries := t.entries, screens := t.screens })
    (hi : t.screens[i] = { s.screens[i] with playout := p }) (mode : p.mode = s.screens[i].playout.mode)
    (other : ∀ j : ScreenNo, j ≠ i → t.screens[j] = s.screens[j])
    (sum : t.freeSlots + p.held = s.freeSlots + s.screens[i].playout.held)
    (quota : s.screens[i].playout.held ≤ s.screens[i].settings.quota → p.held ≤ s.screens[i].settings.quota) :
    s.KeepsButSources t where
  screens j := by
    by_cases h : j = i
    · rw [h, hi]
      exact Screen.playout_keeps _ p mode
    · rw [other j h]
      exact .refl _
  pool hs := State.poolSound_of_screen i hs (fun j h => by rw [other j h]; exact ⟨rfl, rfl⟩) (by rw [hi]; exact sum)
    (by rw [hi]; exact quota)
  cues := by rw [ht]
  offers := by
    rw [ht]
    exact ⟨rfl, rfl, List.prefix_rfl, Nat.le_max_right _ _, id⟩

theorem State.modEntry_keepsButSources (e : EntryNo) (f : StreamEntry → StreamEntry) (s : State) :
    s.KeepsButSources (s.modEntry e f) :=
  ⟨fun _ => .refl _, (State.SameQueues.mk rfl (fun _ => rfl) (fun _ => rfl) fun _ => rfl).poolSound, rfl,
    ⟨rfl, rfl, List.prefix_rfl, Nat.le_max_right _ _, id⟩⟩

theorem State.freeProgram_keepsButSources (i : ScreenNo) (s : State) : s.KeepsButSources (s.freeProgram i) := by
  refine .of_playout i _ rfl (s.freeProgram_screen i) rfl (fun j h => s.freeProgram_other i j h) ?_ fun h => ?_
  all_goals simp only [State.freeProgram_freeSlots, Playout.held, List.length_nil] at *; omega

theorem State.freeStandby_keepsButSources (i : ScreenNo) (s : State) : s.KeepsButSources (s.freeStandby i) := by
  refine .of_playout i _ rfl (s.freeStandby_screen i) rfl (fun j h => s.freeStandby_other i j h) ?_ fun h => ?_
  all_goals simp only [State.freeStandby_freeSlots, Playout.held, List.length_nil] at *; omega

/-- R24: the standby queue becomes the program queue, whose blocks were freed. -/
theorem State.swapFreed_keepsButSources (i : ScreenNo) (s : State) : s.KeepsButSources ((s.freeProgram i).swapQueues i) := by
  refine .of_playout i { s.screens[i].playout with program := s.screens[i].playout.standby, standby := [] } rfl
    (by rw [State.swapQueues_screen, State.freeProgram_screen]) rfl
    (fun j h => (State.swapQueues_other i j _ h).trans (s.freeProgram_other i j h)) ?_ fun h => ?_
  · show s.freeSlots + s.screens[i].playout.program.length + _ = _
    simp only [Playout.held, List.length_nil]
    omega
  · simp only [Playout.held, List.length_nil] at *
    omega

theorem State.retireActive_keepsButSources (i : ScreenNo) (s : State) : s.KeepsButSources (s.retireActive i) := by
  unfold State.retireActive
  split
  · exact s.modEntry_keepsButSources _ _
  · exact .refl s

theorem State.displacePrimed_keepsButSources (i : ScreenNo) (s : State) : s.KeepsButSources (s.displacePrimed i) := by
  unfold State.displacePrimed
  split
  · exact (s.modEntry_keepsButSources _ _).trans (State.freeStandby_keepsButSources _ _)
  · exact .refl s

/-! ## Source changes -/

/-- An entry that neither takes the role nor gives it up keeps its state. -/
theorem State.takesRole.kept {e o : EntryNo} {st : EntryState} {keep : Prop} [Decidable keep] {s t : State}
    (h : s.takesRole e st keep t) (hne : o ≠ e) (hrole : ¬(s.entries[o].state = st ∧ s.entries[o].screen = s.entries[e].screen)) :
    t.entries[o].screen = s.entries[o].screen ∧ t.entries[o].state = s.entries[o].state := by
  rw [h o, if_neg hne, if_neg hrole]
  exact ⟨rfl, rfl⟩

/-- R23: PRIME of an INACTIVE entry keeps the sources: the standby queue of its screen is empty. -/
theorem State.primeInactive_sources (e : EntryNo) (s : State) (he : s.entries[e].state = .inactive) (hs : s.sourcesSound) :
    (s.primeInactive e).sourcesSound := by
  obtain ⟨-, hscreens⟩ := s.primeInactive_queues e hs
  rw [State.sourcesSound_iff] at hs ⊢
  have hrole := s.primeInactive_takesRole e hs.1 he
  have hne {o : EntryNo} {st : EntryState} (h : s.entries[o].state = st) (hst : st ≠ .inactive) : o ≠ e := by
    rintro rfl
    exact hst (h.symm.trans he)
  refine ⟨hrole.entriesSound (.inr rfl) (by rw [he]; nofun) hs.1, fun i => ⟨fun b hb => ?_, fun b hb => ?_⟩⟩
  · have hb' : b ∈ s.screens[i].playout.program := by
      rw [hscreens] at hb
      split at hb <;> exact hb
    obtain ⟨hscreen, hstate⟩ := (hs.2 i).1 b hb'
    obtain ⟨h1, h2⟩ := hrole.kept (hne hstate nofun) fun hh => nomatch hstate.symm.trans hh.1
    exact ⟨h1.trans hscreen, h2.trans hstate⟩
  · rw [hscreens] at hb
    split at hb
    · exact absurd hb List.not_mem_nil
    next hi =>
    obtain ⟨hscreen, hstate⟩ := (hs.2 i).2 b hb
    obtain ⟨h1, h2⟩ := hrole.kept (hne hstate nofun) fun hh => hi (hscreen.symm.trans hh.2)
    exact ⟨h1.trans hscreen, h2.trans hstate⟩

/-- R24: ACTIVATE of a PRIMED entry keeps the sources: its blocks are now those of the program queue. -/
theorem State.activatePrimed_sources (e : EntryNo) (s : State) (he : s.entries[e].state = .primed) (hs : s.sourcesSound) :
    (s.activatePrimed e).sourcesSound := by
  obtain ⟨-, hscreens⟩ := s.activatePrimed_queues e
  rw [State.sourcesSound_iff] at hs ⊢
  have hrole := s.activatePrimed_takesRole e hs.1 he
  refine ⟨hrole.entriesSound (.inl rfl) (by rw [he]; nofun) hs.1, fun i => ?_⟩
  unfold State.queuesSound
  rw [hscreens]
  split
  · next hi =>
    refine ⟨fun b hb => ?_, fun b hb => absurd hb List.not_mem_nil⟩
    obtain ⟨hscreen, hstate⟩ := (hs.2 i).2 b hb
    have hbe : b.entry = e := hs.1.1 b.entry e (hscreen.trans hi) (hstate.trans he.symm) (.inr hstate)
    rw [hrole b.entry, if_pos hbe]
    exact ⟨hi.symm, rfl⟩
  · next hi =>
    have kept {b : Block} (hscreen : s.entries[b.entry].screen = i) := hrole.kept (o := b.entry)
      (fun hbe => hi (hscreen.symm.trans (congrArg (fun o : EntryNo => s.entries[o].screen) hbe)))
      fun hh => hi (hscreen.symm.trans hh.2)
    refine ⟨fun b hb => ?_, fun b hb => ?_⟩
    · obtain ⟨hscreen, hstate⟩ := (hs.2 i).1 b hb
      exact ⟨(kept hscreen).1.trans hscreen, (kept hscreen).2.trans hstate⟩
    · obtain ⟨hscreen, hstate⟩ := (hs.2 i).2 b hb
      exact ⟨(kept hscreen).1.trans hscreen, (kept hscreen).2.trans hstate⟩

/-- R24: ACTIVATE of an INACTIVE entry keeps the sources: the program queue of its screen is empty. -/
theorem State.activateInactive_sources (e : EntryNo) (s : State) (he : s.entries[e].state = .inactive)
    (hs : s.sourcesSound) : (s.activateInactive e).sourcesSound := by
  obtain ⟨-, hscreens⟩ := s.activateInactive_queues e
  rw [State.sourcesSound_iff] at hs ⊢
  have hrole := s.activateInactive_takesRole e hs.1 he
  have hne {o : EntryNo} {st : EntryState} (h : s.entries[o].state = st) (hst : st ≠ .inactive) : o ≠ e := by
    rintro rfl
    exact hst (h.symm.trans he)
  refine ⟨hrole.entriesSound (.inl rfl) (by rw [he]; nofun) hs.1, fun i => ⟨fun b hb => ?_, fun b hb => ?_⟩⟩
  · rw [hscreens] at hb
    split at hb
    · exact absurd hb List.not_mem_nil
    next hi =>
    obtain ⟨hscreen, hstate⟩ := (hs.2 i).1 b hb
    obtain ⟨h1, h2⟩ := hrole.kept (hne hstate nofun) fun hh => hi (hscreen.symm.trans hh.2)
    exact ⟨h1.trans hscreen, h2.trans hstate⟩
  · have hb' : b ∈ s.screens[i].playout.standby := by
      rw [hscreens] at hb
      split at hb <;> exact hb
    obtain ⟨hscreen, hstate⟩ := (hs.2 i).2 b hb'
    obtain ⟨h1, h2⟩ := hrole.kept (hne hstate nofun) fun hh => nomatch hstate.symm.trans hh.1
    exact ⟨h1.trans hscreen, h2.trans hstate⟩

/-- R23: PRIME in any state of the entry. -/
theorem State.primeEntry_keeps (e : EntryNo) (s : State) : s.Keeps (s.primeEntry e).1 := by
  unfold State.primeEntry
  split
  · next h =>
    refine State.KeepsButSources.keeps ?_ (s.primeInactive_sources e h)
    exact ((State.displacePrimed_keepsButSources _ s).trans (State.modEntry_keepsButSources _ _ _)).trans
      (State.modEntry_keepsButSources _ _ _)
  all_goals exact .refl s

/-- R24: ACTIVATE in any state of the entry. -/
theorem State.activateEntry_keeps (e : EntryNo) (s : State) : s.Keeps (s.activateEntry e).1 := by
  unfold State.activateEntry
  split
  · next h =>
    refine State.KeepsButSources.keeps ?_ (s.activatePrimed_sources e h)
    exact ((s.swapFreed_keepsButSources _).trans (State.retireActive_keepsButSources _ _)).trans
      (State.modEntry_keepsButSources _ _ _)
  · next h =>
    refine State.KeepsButSources.keeps ?_ (s.activateInactive_sources e h)
    exact (((s.freeProgram_keepsButSources _).trans (State.retireActive_keepsButSources _ _)).trans
      (State.modEntry_keepsButSources _ _ _)).trans (State.modEntry_keepsButSources _ _ _)
  all_goals exact .refl s

/-! ## An entry without blocks changed -/

/-- Entry e, which no block came from, becomes `x`, a legal entry that is neither ACTIVE nor PRIMED. -/
theorem State.modEntry_sources (e : EntryNo) (f : StreamEntry → StreamEntry) (s : State) (hs : s.entriesSound)
    (hq : ∀ i : ScreenNo, ∀ b ∈ s.screens[i].playout.program ++ s.screens[i].playout.standby, b.entry ≠ e)
    (hqueues : ∀ i : ScreenNo, s.queuesSound i) (hrole : (f s.entries[e]).state = .inactive ∨ (f s.entries[e]).state = .unused)
    (hrange : (f s.entries[e]).number ≤ 4095)
    (hzero : (f s.entries[e]).number = 0 ↔ (f s.entries[e]).state = .unused)
    (hfresh : ∀ o : EntryNo, o ≠ e → s.entries[o].state ≠ .unused → (f s.entries[e]).state ≠ .unused →
      s.entries[o].number ≠ (f s.entries[e]).number) :
    (s.modEntry e f).sourcesSound := by
  obtain ⟨hone, hnumber, hall⟩ := hs
  have same := s.modEntry_same e f
  have other {o : EntryNo} (h : o ≠ e) : (s.modEntry e f).entries[o] = s.entries[o] := s.modEntry_other e o f h
  rw [State.sourcesSound_iff]
  refine ⟨⟨fun a b hscreen hstate hab => ?_, fun a b ha hb hab => ?_, fun a => ?_⟩, fun i => ⟨fun b hb => ?_, fun b hb => ?_⟩⟩
  · have notE {o : EntryNo} (h : (s.modEntry e f).entries[o].state = .active ∨ (s.modEntry e f).entries[o].state = .primed) :
        o ≠ e := by
      rintro rfl
      rw [same] at h
      rcases hrole with h0 | h0 <;> rw [h0] at h <;> rcases h with h | h <;> exact absurd h nofun
    have hae := notE hab
    have hbe := notE (hstate ▸ hab)
    rw [other hae, other hbe] at hscreen hstate
    rw [other hae] at hab
    exact hone a b hscreen hstate hab
  · by_cases hae : a = e
    · by_cases hbe : b = e
      · rw [hae, hbe]
      · rw [hae, same] at ha hab
        rw [other hbe] at hb hab
        exact absurd hab.symm (hfresh b hbe hb ha)
    · rw [other hae] at ha hab
      by_cases hbe : b = e
      · rw [hbe, same] at hb hab
        exact absurd hab (hfresh a hae ha hb)
      · rw [other hbe] at hb hab
        exact hnumber a b ha hb hab
  · by_cases hae : a = e
    · rw [hae, same]
      exact ⟨hrange, hzero⟩
    · rw [other hae]
      exact hall a
  · rw [other (hq i b (List.mem_append_left _ hb))]
    exact (hqueues i).1 b hb
  · rw [other (hq i b (List.mem_append_right _ hb))]
    exact (hqueues i).2 b hb

/-- A block's entry is ACTIVE or PRIMED. -/
theorem State.queuesSound.entry {s : State} {i : ScreenNo} (h : s.queuesSound i) {b : Block}
    (hb : b ∈ s.screens[i].playout.program ++ s.screens[i].playout.standby) :
    s.entries[b.entry].screen = i ∧ (s.entries[b.entry].state = .active ∨ s.entries[b.entry].state = .primed) := by
  rcases List.mem_append.mp hb with hp | hp
  · exact ⟨(h.1 b hp).1, .inl (h.1 b hp).2⟩
  · exact ⟨(h.2 b hp).1, .inr (h.2 b hp).2⟩

/-! ## DEACTIVATE -/

/-- An entry becomes INACTIVE once the queue it filled is empty: on its screen no block of its role is left. -/
theorem State.deactivated_sources (e : EntryNo) {s t : State} (hs : s.sourcesSound) (he : s.entries[e].state ≠ .unused)
    (hentries : t.entries = s.entries)
    (hprogram : ∀ i : ScreenNo, ∀ b ∈ t.screens[i].playout.program, b ∈ s.screens[i].playout.program ∧
      (i = s.entries[e].screen → s.entries[e].state ≠ .active))
    (hstandby : ∀ i : ScreenNo, ∀ b ∈ t.screens[i].playout.standby, b ∈ s.screens[i].playout.standby ∧
      (i = s.entries[e].screen → s.entries[e].state ≠ .primed)) :
    (t.setEntryState e .inactive).sourcesSound := by
  rw [State.sourcesSound_iff] at hs
  obtain ⟨hentry, hqs⟩ := hs
  have ht : t.entriesSound := by
    unfold State.entriesSound
    rw [hentries]
    exact hentry
  obtain ⟨-, hnumber, hall⟩ := id ht
  refine State.modEntry_sources e _ t ht (fun i b hb hbe => ?_) (fun i => ?_) (.inl rfl) (hall e).1
    ⟨fun h0 => absurd ((hall e).2.mp h0) (hentries ▸ he), nofun⟩
    fun o hoe ho _ hno => hoe (hnumber o e ho (hentries ▸ he) hno)
  · subst hbe
    rcases List.mem_append.mp hb with hb | hb
    · obtain ⟨hscreen, hstate⟩ := (hqs i).1 b (hprogram i b hb).1
      exact (hprogram i b hb).2 hscreen.symm hstate
    · obtain ⟨hscreen, hstate⟩ := (hqs i).2 b (hstandby i b hb).1
      exact (hstandby i b hb).2 hscreen.symm hstate
  · unfold State.queuesSound
    rw [hentries]
    exact ⟨fun b hb => (hqs i).1 b (hprogram i b hb).1, fun b hb => (hqs i).2 b (hstandby i b hb).1⟩

theorem State.mem_freeProgram {i j : ScreenNo} {s : State} {b : Block} (h : b ∈ (s.freeProgram i).screens[j].playout.program) :
    j ≠ i ∧ b ∈ s.screens[j].playout.program := by
  by_cases hj : j = i
  · rw [hj, State.freeProgram_screen] at h
    exact absurd h List.not_mem_nil
  · rw [State.freeProgram_other _ _ _ hj] at h
    exact ⟨hj, h⟩

theorem State.freeProgram_standby (i j : ScreenNo) (s : State) :
    (s.freeProgram i).screens[j].playout.standby = s.screens[j].playout.standby := by
  by_cases hj : j = i
  · rw [hj, State.freeProgram_screen]
  · rw [State.freeProgram_other _ _ _ hj]

theorem State.mem_freeStandby {i j : ScreenNo} {s : State} {b : Block} (h : b ∈ (s.freeStandby i).screens[j].playout.standby) :
    j ≠ i ∧ b ∈ s.screens[j].playout.standby := by
  by_cases hj : j = i
  · rw [hj, State.freeStandby_screen] at h
    exact absurd h List.not_mem_nil
  · rw [State.freeStandby_other _ _ _ hj] at h
    exact ⟨hj, h⟩

theorem State.freeStandby_program (i j : ScreenNo) (s : State) :
    (s.freeStandby i).screens[j].playout.program = s.screens[j].playout.program := by
  by_cases hj : j = i
  · rw [hj, State.freeStandby_screen]
  · rw [State.freeStandby_other _ _ _ hj]

/-- R25: DEACTIVATE in any state of the entry. -/
theorem State.deactivateEntry_keeps (e : EntryNo) (s : State) : s.Keeps (s.deactivateEntry e).1 := by
  unfold State.deactivateEntry
  split
  · next he =>
    refine State.KeepsButSources.keeps ((s.modEntry_keepsButSources _ _).trans (State.freeProgram_keepsButSources _ _))
      fun hs => State.deactivated_sources e (t := s.freeProgram s.entries[e].screen) hs (by rw [he]; nofun) rfl
        (fun i b hb => ?_) fun i b hb => ⟨s.freeProgram_standby _ i ▸ hb, fun _ => by rw [he]; nofun⟩
    obtain ⟨hi, hb'⟩ := State.mem_freeProgram hb
    exact ⟨hb', fun h => absurd h hi⟩
  · next he =>
    refine State.KeepsButSources.keeps ((s.modEntry_keepsButSources _ _).trans (State.freeStandby_keepsButSources _ _))
      fun hs => State.deactivated_sources e (t := s.freeStandby s.entries[e].screen) hs (by rw [he]; nofun) rfl
        (fun i b hb => ⟨s.freeStandby_program _ i ▸ hb, fun _ => by rw [he]; nofun⟩) fun i b hb => ?_
    obtain ⟨hi, hb'⟩ := State.mem_freeStandby hb
    exact ⟨hb', fun h => absurd h hi⟩
  all_goals exact .refl s

theorem entryAnswer_keeps (e : EntryNo) (s : State) (r : State × Result) (h : s.Keeps r.1) :
    s.Keeps (entryAnswer e s r).state := by
  unfold entryAnswer
  split
  · exact h
  · exact .refl s

theorem doPrime_keeps (entry : Nat) (s : State) : s.Keeps (doPrime entry s).state := by
  unfold doPrime
  split
  · exact entryAnswer_keeps _ _ _ (s.primeEntry_keeps _)
  · exact .refl s

theorem doActivate_keeps (entry : Nat) (s : State) : s.Keeps (doActivate entry s).state := by
  unfold doActivate
  split
  · exact entryAnswer_keeps _ _ _ (s.activateEntry_keeps _)
  · exact .refl s

theorem doDeactivate_keeps (entry : Nat) (s : State) : s.Keeps (doDeactivate entry s).state := by
  unfold doDeactivate
  split
  · exact entryAnswer_keeps _ _ _ (s.deactivateEntry_keeps _)
  · exact .refl s

/-! ## STREAM writes -/

theorem State.numberTaken_iff (e : EntryNo) (number : Nat) (s : State) :
    s.numberTaken e number = true ↔
      ∃ o : EntryNo, o ≠ e ∧ s.entries[o].state ≠ .unused ∧ s.entries[o].number = number := by
  unfold State.numberTaken
  simp only [any_indexes, decide_eq_true_eq]

/-- R22: what a passing STREAM write makes of an entry: one that fills a queue keeps its role; any other becomes INACTIVE
with the number written, or UNUSED with number 0. -/
theorem StreamEntry.write_cases (x : StreamEntry) (w : StreamWrite) (screen : ScreenNo) (channels : Nat)
    (hx : x.number = 0 ↔ x.state = .unused) :
    (x.state = .primed ∨ x.state = .active) ∧ x.write w screen channels = { x with order := w.order } ∨
      (x.state = .unused ∨ x.state = .inactive) ∧ (x.write w screen channels).number = w.number ∧
        (w.number = 0 ∧ (x.write w screen channels).state = .unused ∨
          w.number ≠ 0 ∧ (x.write w screen channels).state = .inactive) := by
  unfold StreamEntry.write
  split
  · next h =>
    split
    · next h0 => exact .inr ⟨.inl h, (hx.mpr h).trans h0.symm, .inl ⟨h0, h⟩⟩
    · next h0 => exact .inr ⟨.inl h, rfl, .inr ⟨h0, rfl⟩⟩
  · next h =>
    split
    · next h0 => exact .inr ⟨.inr h, h0.symm, .inl ⟨h0, rfl⟩⟩
    · next h0 =>
      split
      · exact .inr ⟨.inr h, rfl, .inr ⟨h0, h⟩⟩
      · exact .inr ⟨.inr h, rfl, .inr ⟨h0, h⟩⟩
  · next h => exact .inl ⟨.inl h, rfl⟩
  · next h => exact .inl ⟨.inr h, rfl⟩

/-- R22: a STREAM write that passes its checks keeps the sources. -/
theorem State.writeEntry_sources (e : EntryNo) (w : StreamWrite) (screen : ScreenNo) (channels : Nat) (s : State)
    (hnumber : w.number ≤ 4095) (hfree : ¬(w.number ≠ 0 ∧ s.numberTaken e w.number = true)) (hs : s.sourcesSound) :
    (s.modEntry e fun x => x.write w screen channels).sourcesSound := by
  obtain ⟨hentries, hqueues⟩ := s.sourcesSound_iff.mp hs
  rcases s.entries[e].write_cases w screen channels (hentries.2.2 e).2 with ⟨-, hw⟩ | ⟨hstate, hnum, hrole⟩
  · exact (s.modEntry_keeps e _ (by rw [hw]) (by rw [hw]) (by rw [hw])).tables.sources hs
  · refine State.modEntry_sources e _ s hentries (fun i b hb hbe => ?_) hqueues ?_ (by rw [hnum]; exact hnumber) ?_
      fun o ho hused hnew hsame => ?_
    · have hentry := ((hqueues i).entry hb).2
      subst hbe
      rcases hstate with h | h <;> rw [h] at hentry <;> rcases hentry with h | h <;> exact absurd h nofun
    · rcases hrole with ⟨-, h⟩ | ⟨-, h⟩
      · exact .inr h
      · exact .inl h
    · rw [hnum]
      rcases hrole with ⟨h0, h⟩ | ⟨h0, h⟩
      · exact ⟨fun _ => h, fun _ => h0⟩
      · exact ⟨fun hz => absurd hz h0, fun hu => absurd (h.symm.trans hu) nofun⟩
    · rw [hnum] at hsame
      rcases hrole with ⟨-, h⟩ | ⟨h0, -⟩
      · exact hnew h
      · exact hfree ⟨h0, (s.numberTaken_iff e _).mpr ⟨o, ho, hused, hsame⟩⟩

theorem doWriteStream_keeps (index : Nat) (w : StreamWrite) (s : State) : s.Keeps (doWriteStream index w s).state := by
  unfold doWriteStream
  split
  case isFalse => exact .refl s
  split
  case isFalse => exact .refl s
  next hnumber =>
  split
  case isFalse => exact .refl s
  dsimp only
  split
  · exact .refl s
  split
  · exact .refl s
  next hfree =>
  exact (s.modEntry_keepsButSources _ _).keeps (s.writeEntry_sources _ w _ _ hnumber hfree)

end Sys2Proof.Machine
end

section
/-! PROOFS. What offers, selection, pruning, the quota trim with the settings it follows, and the screen reset keep
(R26, R29 to R32, R41 to R48, R52, R53, R171). -/

namespace Sys2Proof.Machine

/-! ## Offers -/

theorem Playout.accept_active (p : Playout) (x : StreamEntry) (b : Block) (h : x.state = .active) :
    p.accept x b = { p with program := insertBlock x.timing b p.program } := by
  unfold Playout.accept Playout.setQueue Playout.queueOf
  rw [h]

theorem Playout.accept_primed (p : Playout) (x : StreamEntry) (b : Block) (h : x.state ≠ .active) :
    p.accept x b = { p with standby := insertBlock x.timing b p.standby } := by
  unfold Playout.accept Playout.setQueue Playout.queueOf
  cases hx : x.state with
  | active => exact absurd hx h
  | _ => rfl

/-- R31: an accepted block fills one slot. -/
theorem Playout.accept_held (p : Playout) (x : StreamEntry) (b : Block) :
    (p.accept x b).held = p.held + 1 ∧ (p.accept x b).mode = p.mode := by
  by_cases h : x.state = .active
  · rw [p.accept_active x b h]
    simp only [Playout.held, insertBlock_length]
    exact ⟨by omega, trivial⟩
  · rw [p.accept_primed x b h]
    simp only [Playout.held, insertBlock_length]
    exact ⟨by omega, trivial⟩

/-- R31: the slot taken and the block placed, before ACCEPTED rises. -/
def State.storeBlock (e : EntryNo) (b : Block) (s : State) : State :=
  State.modScreen s.entries[e].screen (fun x => { x with playout := x.playout.accept s.entries[e] b })
    { s with freeSlots := s.freeSlots - 1 }

theorem State.placeBlock_eq (e : EntryNo) (b : Block) (s : State) :
    s.placeBlock e b = (s.storeBlock e b).bumpEntry e .accepted 1 := rfl

theorem State.storeBlock_screen (e : EntryNo) (b : Block) (s : State) :
    (s.storeBlock e b).screens[s.entries[e].screen] =
      { s.screens[s.entries[e].screen] with
        playout := s.screens[s.entries[e].screen].playout.accept s.entries[e] b } := State.modScreen_same _ _ _

theorem State.storeBlock_other (e : EntryNo) (b : Block) (s : State) (j : ScreenNo) (h : j ≠ s.entries[e].screen) :
    (s.storeBlock e b).screens[j] = s.screens[j] := State.modScreen_other _ _ _ _ h

/-- R31: a block of an ACTIVE or PRIMED entry joins the queue the entry fills. -/
theorem State.storeBlock_sources (e : EntryNo) (b : Block) (s : State) (hb : b.entry = e)
    (he : s.entries[e].state = .primed ∨ s.entries[e].state = .active) (hs : s.sourcesSound) :
    (s.storeBlock e b).sourcesSound := by
  rw [State.sourcesSound_iff] at hs ⊢
  refine ⟨hs.1, fun i => ?_⟩
  obtain ⟨hprogram, hstandby⟩ := hs.2 i
  unfold State.queuesSound
  by_cases hi : i = s.entries[e].screen
  · subst hi
    rw [State.storeBlock_screen]
    by_cases ha : s.entries[e].state = .active
    · rw [Playout.accept_active _ _ _ ha]
      refine ⟨fun x hx => ?_, hstandby⟩
      rcases (mem_insertBlock _ _ _ _).mp hx with rfl | hx
      · subst hb
        exact ⟨rfl, ha⟩
      · exact hprogram x hx
    · rw [Playout.accept_primed _ _ _ ha]
      refine ⟨hprogram, fun x hx => ?_⟩
      rcases (mem_insertBlock _ _ _ _).mp hx with rfl | hx
      · subst hb
        exact ⟨rfl, he.resolve_right ha⟩
      · exact hstandby x hx
  · rw [State.storeBlock_other _ _ _ _ hi]
    exact ⟨hprogram, hstandby⟩

/-- R31: an offer from an ACTIVE or PRIMED entry. -/
theorem State.offerBlock_keeps (e : EntryNo) (b : Block) (s : State) (hb : b.entry = e)
    (he : s.entries[e].state = .primed ∨ s.entries[e].state = .active) : s.Keeps (s.offerBlock e b) := by
  rcases s.offerBlock_cases e b with ⟨t, -, heq⟩ | ⟨hpass, heq⟩
  · rw [heq]
    exact s.bumpEntry_keeps e t 1
  rw [heq, State.placeBlock_eq]
  obtain ⟨hfree, hquota⟩ := s.offerFailure_none e b hpass
  obtain ⟨hheld, hmode⟩ := s.screens[s.entries[e].screen].playout.accept_held s.entries[e] b
  refine State.Keeps.trans (State.KeepsButSources.keeps ?_ (s.storeBlock_sources e b hb he)) (State.bumpEntry_keeps ..)
  refine .of_playout s.entries[e].screen _ rfl (s.storeBlock_screen e b) hmode (fun j => s.storeBlock_other e b j) ?_
    fun _ => by omega
  show s.freeSlots - 1 + _ = _
  omega

/-! ## Queues that lose blocks -/

/-- Queues that only lose blocks keep the sources. -/
theorem State.sourcesSound_of_subset {s t : State} (hroles : s.SameRoles t)
    (hprogram : ∀ i : ScreenNo, t.screens[i].playout.program ⊆ s.screens[i].playout.program)
    (hstandby : ∀ i : ScreenNo, t.screens[i].playout.standby ⊆ s.screens[i].playout.standby) (hs : s.sourcesSound) :
    t.sourcesSound := by
  obtain ⟨hone, hnumber, hrange, hp, hst⟩ := hs
  unfold State.sourcesSound
  simp only [hroles.number, hroles.screen, hroles.state]
  exact ⟨hone, hnumber, hrange, fun i b hb => hp i b (hprogram i hb), fun i b hb => hst i b (hstandby i hb)⟩

/-- The queues of screen i become the given ones, parts of what they were; the blocks left out are freed. -/
theorem State.shrink_keeps (i : ScreenNo) (f : Screen → Screen) (n : Nat) (p : Playout) (s : State)
    (hf : f s.screens[i] = { s.screens[i] with playout := p }) (hmode : p.mode = s.screens[i].playout.mode)
    (hprogram : p.program.Sublist s.screens[i].playout.program) (hstandby : p.standby.Sublist s.screens[i].playout.standby)
    (hn : n + p.held = s.screens[i].playout.held) : s.Keeps ((s.release n).modScreen i f) := by
  have hi : ((s.release n).modScreen i f).screens[i] = { s.screens[i] with playout := p } :=
    (State.modScreen_same _ _ _).trans hf
  have other {j : ScreenNo} (h : j ≠ i) : ((s.release n).modScreen i f).screens[j] = s.screens[j] :=
    State.modScreen_other _ _ _ _ h
  refine State.KeepsButSources.keeps (.of_playout i p rfl hi hmode (fun _ => other) ?_ fun h => ?_)
    (State.sourcesSound_of_subset ⟨fun _ => rfl, fun _ => rfl, fun _ => rfl⟩ (fun j => ?_) fun j => ?_)
  · show s.freeSlots + n + p.held = _
    omega
  · omega
  · by_cases h : j = i
    · subst h
      rw [hi]
      exact hprogram.subset
    · rw [other h]
      exact List.Subset.refl _
  · by_cases h : j = i
    · subst h
      rw [hi]
      exact hstandby.subset
    · rw [other h]
      exact List.Subset.refl _

/-- R36, R41: the tallies of a decision. -/
theorem State.countDecision_keeps (i : ScreenNo) (a : Option EntryNo) (d : Decision) (s : State) :
    s.Keeps (s.countDecision i a d) := by
  cases d with
  | underrun => exact .ite (fun _ => s.bumpScreen_keeps ..) fun _ => .refl s
  | wait => exact s.bumpScreen_keeps ..
  | latePlay => exact s.bumpEntry?_keeps ..
  | onTime => exact .refl s

/-- R41 to R43: a selection whose rest is a part of the program queue. -/
theorem State.applySelection_keeps (i : ScreenNo) (a : Option EntryNo) (r : Selection) (s : State)
    (h : r.rest <:+ s.screens[i].playout.program) : s.Keeps (s.applySelection i a r) := by
  unfold State.applySelection
  dsimp only
  refine ((State.Keeps.trans ?_ (State.bumpEntry?_keeps ..)).trans (State.bumpEntry?_keeps ..)).trans
    (State.countDecision_keeps ..)
  refine s.shrink_keeps i _ _ _ rfl rfl h.sublist (List.Sublist.refl _) ?_
  have := h.length_le
  simp only [Playout.held]
  omega

/-- R45: standby pruning. -/
theorem State.pruneStandby_keeps (i : ScreenNo) (s : State) : s.Keeps (s.pruneStandby i) := by
  unfold State.pruneStandby
  refine .ite (fun _ => .refl s) fun _ => State.Keeps.trans ?_ (State.bumpEntry?_keeps ..)
  have hsub : (keptStandby s.screens[i].clock.base s.screens[i].settings.lateLimit s.screens[i].playout.standby).Sublist
      s.screens[i].playout.standby := List.filter_sublist
  refine s.shrink_keeps i _ _ _ rfl rfl (List.Sublist.refl _) hsub ?_
  have := hsub.length_le
  simp only [Playout.held]
  omega

/-! ## A SCREEN write -/

theorem clampSettings_inRange (r : ScreenSettings) : settingsInRange (clampSettings r) := by
  unfold settingsInRange clampSettings clampNat clampInt
  dsimp only
  omega

/-- R52: a clock kept within newly written limits. -/
theorem Clock.limited_sound {r r' : ScreenSettings} {c : Clock} (hr : settingsInRange r) (hmode : r.clockMode = r'.clockMode)
    (h : c.soundUnder r') : (c.limited r).soundUnder r := by
  obtain ⟨hstate, hslip, -, -, -, hsince⟩ := h
  obtain ⟨hlock, hunlock⟩ := hr.limits
  refine ⟨hmode ▸ hstate, fun hne => hslip ?_, ?_, ?_, ?_, hsince⟩
  · rintro h0
    apply hne
    show clampInt _ _ c.slip = 0
    rw [h0]
    exact clampInt_of_mem (by omega) (by omega)
  · show (clampInt _ _ c.slip).natAbs ≤ r.window
    have := clampInt_le (lo := -(r.window : Int)) (hi := r.window) c.slip (by omega)
    have := le_clampInt (-(r.window : Int)) r.window c.slip
    omega
  · show (if r.lockN ≤ c.inWindow then r.lockN - 1 else c.inWindow) < r.lockN
    split <;> omega
  · show (if r.unlockN ≤ c.outWindow then r.unlockN - 1 else c.outWindow) < r.unlockN
    split <;> omega

/-- R53: the starting clock of a clock mode. -/
theorem Clock.starting_sound {r : ScreenSettings} (hr : settingsInRange r) (base : ScreenTime) (elapsed : Nat) :
    Clock.soundUnder r { base := base, elapsed := elapsed, state := ClockState.starting r.clockMode, inWindow := 0,
                         outWindow := 0, slip := 0, sinceReference := 0 } := by
  obtain ⟨hlock, hunlock⟩ := hr.limits
  refine ⟨?_, fun h0 => absurd rfl h0, Nat.zero_le _, hlock, hunlock, Nat.zero_le _⟩
  dsimp only
  cases r.clockMode <;> exact ⟨by decide, by decide⟩

theorem State.chargeTrim_keeps (freed : List Block) (s : State) : s.Keeps (s.chargeTrim freed) :=
  State.foldl_keeps _ (fun s _ => s.bumpEntry_keeps ..) freed s

/-- R29: the tallies of a trim leave the screens. -/
theorem State.chargeTrim_screens (freed : List Block) (s : State) : (s.chargeTrim freed).screens = s.screens := by
  unfold State.chargeTrim
  induction freed generalizing s with
  | nil => rfl
  | cons _ rest ih => exact (ih _).trans rfl

theorem State.chargeTrim_freeSlots (freed : List Block) (s : State) : (s.chargeTrim freed).freeSlots = s.freeSlots := by
  unfold State.chargeTrim
  induction freed generalizing s with
  | nil => rfl
  | cons _ rest ih => exact (ih _).trans rfl

/-- R29: the scheduler context once a trim has kept at most `quota` blocks. -/
def Playout.trimmed (p : Playout) (quota : Nat) : Playout :=
  { p with program := p.program.take quota, standby := p.standby.take (quota - p.program.length) }

/-- R29: what a trim frees, standby before program. -/
def Playout.trimFreed (p : Playout) (quota : Nat) : List Block :=
  p.standby.drop (quota - p.program.length) ++ p.program.drop quota

theorem State.trimQuota_eq (i : ScreenNo) (quota : Nat) (s : State) :
    s.trimQuota i quota =
      ((s.release (s.screens[i].playout.trimFreed quota).length).modScreen i fun x =>
        { x with playout := { x.playout with
          program := (s.screens[i].playout.trimmed quota).program
          standby := (s.screens[i].playout.trimmed quota).standby } }).chargeTrim
        (s.screens[i].playout.trimFreed quota) := rfl

theorem State.trimQuota_screen (i : ScreenNo) (quota : Nat) (s : State) :
    (s.trimQuota i quota).screens[i] = { s.screens[i] with playout := s.screens[i].playout.trimmed quota } := by
  rw [State.trimQuota_eq, State.chargeTrim_screens]
  exact State.modScreen_same _ _ _

theorem State.trimQuota_other (i j : ScreenNo) (quota : Nat) (s : State) (h : j ≠ i) :
    (s.trimQuota i quota).screens[j] = s.screens[j] := by
  rw [State.trimQuota_eq, State.chargeTrim_screens]
  exact State.modScreen_other _ _ _ _ h

/-- R29: the blocks kept and the blocks freed are the blocks held. -/
theorem Playout.trimmed_held (p : Playout) (quota : Nat) :
    (p.trimFreed quota).length + (p.trimmed quota).held = p.held ∧ (p.trimmed quota).held ≤ quota := by
  simp only [Playout.trimFreed, Playout.trimmed, Playout.held, List.length_append, List.length_drop, List.length_take]
  omega

theorem State.trimQuota_freeSlots (i : ScreenNo) (quota : Nat) (s : State) :
    (s.trimQuota i quota).freeSlots = s.freeSlots + (s.screens[i].playout.trimFreed quota).length := by
  rw [State.trimQuota_eq, State.chargeTrim_freeSlots]
  rfl

/-- R29: the trim of a screen's queues. -/
theorem State.trimQuota_keeps (i : ScreenNo) (quota : Nat) (s : State) : s.Keeps (s.trimQuota i quota) := by
  rw [State.trimQuota_eq]
  exact (s.shrink_keeps i _ _ (s.screens[i].playout.trimmed quota) rfl rfl (List.take_sublist _ _) (List.take_sublist _ _)
    (Playout.trimmed_held _ _).1).trans (State.chargeTrim_keeps ..)

/-- R169: the settings stored and the queues trimmed to their quota, before the clock follows. -/
def State.storeTrimmed (i : ScreenNo) (r : ScreenSettings) (s : State) : State :=
  (s.modScreen i fun x => x.storeSettings s.wordClock r).trimQuota i r.quota

theorem State.storeTrimmed_screen (i : ScreenNo) (r : ScreenSettings) (s : State) :
    (s.storeTrimmed i r).screens[i] =
      { s.screens[i].storeSettings s.wordClock r with
        playout := (s.screens[i].storeSettings s.wordClock r).playout.trimmed r.quota } := by
  unfold State.storeTrimmed
  rw [State.trimQuota_screen, State.modScreen_same]

theorem State.storeTrimmed_other (i j : ScreenNo) (r : ScreenSettings) (s : State) (h : j ≠ i) :
    (s.storeTrimmed i r).screens[j] = s.screens[j] := by
  unfold State.storeTrimmed
  rw [State.trimQuota_other _ _ _ _ h, State.modScreen_other _ _ _ _ h]

/-- R35: a phase write moves the boundary and leaves the queues and the mode. -/
theorem Screen.storeSettings_playout (now : Nat) (r : ScreenSettings) (x : Screen) :
    (x.storeSettings now r).playout.program = x.playout.program ∧
      (x.storeSettings now r).playout.standby = x.playout.standby ∧
      (x.storeSettings now r).playout.mode = x.playout.mode ∧
      (x.storeSettings now r).playout.resync = x.playout.resync := by
  unfold Screen.storeSettings
  dsimp only
  split <;> exact ⟨rfl, rfl, rfl, rfl⟩

/-- R29, R169: the settings stored and the queues trimmed to their quota. -/
theorem State.storeTrimmed_tables (i : ScreenNo) (r : ScreenSettings) (s : State) : s.KeepsTables (s.storeTrimmed i r) := by
  have htrim := State.trimQuota_keeps i r.quota (s.modScreen i fun x => x.storeSettings s.wordClock r)
  have hqueues (j : ScreenNo) :
      (s.modScreen i fun x => x.storeSettings s.wordClock r).screens[j].playout.program = s.screens[j].playout.program ∧
      (s.modScreen i fun x => x.storeSettings s.wordClock r).screens[j].playout.standby = s.screens[j].playout.standby := by
    by_cases h : j = i
    · rw [h, State.modScreen_same]
      obtain ⟨hprogram, hstandby, -, -⟩ := s.screens[i].storeSettings_playout s.wordClock r
      exact ⟨hprogram, hstandby⟩
    · rw [State.modScreen_other _ _ _ _ h]
      exact ⟨rfl, rfl⟩
  refine ⟨fun hs => State.poolSound_of_screen i hs (fun j h => ?_) ?_ fun _ => ?_, fun hs => htrim.tables.sources ?_,
    fun hs => htrim.tables.cues (State.cueTableSound_of_same rfl hs),
    State.OnlyOffers.trans (s := s) (t := s.modScreen i fun x => x.storeSettings s.wordClock r)
      ⟨rfl, rfl, List.prefix_rfl, Nat.le_max_right _ _, id⟩ htrim.tables.offers⟩
  · rw [State.storeTrimmed_other _ _ _ _ h]
    exact ⟨rfl, rfl⟩
  · rw [State.storeTrimmed_screen, State.storeTrimmed, State.trimQuota_freeSlots, State.modScreen_same]
    have hsum := (Playout.trimmed_held (s.screens[i].storeSettings s.wordClock r).playout r.quota).1
    have hheld : (s.screens[i].storeSettings s.wordClock r).playout.held = s.screens[i].playout.held := by
      obtain ⟨hprogram, hstandby, -, -⟩ := s.screens[i].storeSettings_playout s.wordClock r
      rw [Playout.held, Playout.held, hprogram, hstandby]
    show s.freeSlots + _ + (Playout.trimmed _ _).held = _
    omega
  · rw [State.storeTrimmed_screen]
    exact (Playout.trimmed_held _ _).2
  · exact State.sourcesSound_of_subset (s := s) ⟨fun _ => rfl, fun _ => rfl, fun _ => rfl⟩
      (fun j => by rw [(hqueues j).1]; exact List.Subset.refl _) (fun j => by rw [(hqueues j).2]; exact List.Subset.refl _) hs

/-- R52, R53, R169: the screen a SCREEN write leaves, its CLOCK notice aside. -/
def Screen.settled (x : Screen) (old : ClockMode) (r : ScreenSettings) : Screen :=
  if r.clockMode = old then { x with clock := x.clock.limited r } else x.changeMode r.clockMode

/-- R52, R53: the clock's part of a SCREEN write changes screen i as `Screen.settled` says, and may raise a notice. -/
theorem State.settleClock_eq (i : ScreenNo) (old : ClockMode) (r : ScreenSettings) (s : State) :
    s.settleClock i old r =
      if r.clockMode = old then s.modScreen i fun x => x.settled old r
      else (s.modScreen i fun x => x.settled old r).raiseClock i 0 := by
  unfold State.settleClock Screen.settled
  by_cases h : r.clockMode = old
  · simp only [if_pos h]
    rfl
  · simp only [if_neg h]

theorem Screen.settled_playout (x : Screen) (old : ClockMode) (r : ScreenSettings) :
    (x.settled old r).playout.program = x.playout.program ∧ (x.settled old r).playout.standby = x.playout.standby ∧
      (x.settled old r).playout.mode = x.playout.mode ∧ (x.settled old r).settings = x.settings := by
  unfold Screen.settled
  split <;> exact ⟨rfl, rfl, rfl, rfl⟩

/-- R169: the settings, the trimmed queues and the clock of a SCREEN write, taken together. -/
theorem Screen.storeSettings_settled_keeps (x : Screen) (now : Nat) (r : ScreenSettings) (hr : settingsInRange r) :
    x.Keeps (Screen.settled { x.storeSettings now r with playout := (x.storeSettings now r).playout.trimmed r.quota }
      x.settings.clockMode r) := by
  obtain ⟨-, -, hmode, -⟩ := x.storeSettings_playout now r
  have signal {y : Screen} (hs : y.signal = x.signal) (hm : y.playout.mode = x.playout.mode) :
      x.signalSound → y.signalSound := by
    rintro ⟨hnoise, hcheck, hidle⟩
    unfold Screen.signalSound
    rw [hs, hm]
    exact ⟨hnoise, hcheck, hidle⟩
  unfold Screen.settled
  split
  · next h => exact { clock := fun hx => ⟨hr, Clock.limited_sound hr h hx.2⟩, signal := signal rfl hmode }
  · exact { clock := fun _ => ⟨hr, Clock.starting_sound hr _ _⟩, signal := signal rfl hmode }

/-- R169: the effects of a SCREEN record within the ranges. -/
theorem State.storeScreen_keeps (i : ScreenNo) (r : ScreenSettings) (s : State) (hr : settingsInRange r) :
    s.Keeps (s.storeScreen i r) := by
  have hkeep : s.Keeps ((s.storeTrimmed i r).modScreen i fun x => x.settled s.screens[i].settings.clockMode r) := by
    refine ⟨fun j => ?_, (s.storeTrimmed_tables i r).trans (.of_same (State.modScreen_sameQueues _ _ _
      (Screen.settled_playout _ _ _).1 (Screen.settled_playout _ _ _).2.1
      (congrArg ScreenSettings.quota (Screen.settled_playout _ _ _).2.2.2)))⟩
    by_cases h : j = i
    · rw [h, State.modScreen_same, State.storeTrimmed_screen]
      exact Screen.storeSettings_settled_keeps _ _ r hr
    · rw [State.modScreen_other _ _ _ _ h, State.storeTrimmed_other _ _ _ _ h]
      exact .refl _
  show s.Keeps ((s.storeTrimmed i r).settleClock i s.screens[i].settings.clockMode r)
  rw [State.settleClock_eq]
  exact .ite (fun _ => hkeep) fun _ => hkeep.trans (State.raiseClock_keeps ..)

theorem doWriteScreen_keeps (index : Nat) (r : ScreenSettings) (s : State) : s.Keeps (doWriteScreen index r s).state := by
  unfold doWriteScreen
  split
  · dsimp only
    split
    · exact .refl s
    · exact s.storeScreen_keeps _ _ (clampSettings_inRange r)
  · exact .refl s

end Sys2Proof.Machine
end

section
/-! PROOFS. What the blocks of a screen keep: the Signal Generator, the Feed Processor, the lanes, the alarm records, the
meter, the reference decisions and the screen reset (R56 to R60, R84 to R132, R141 to R149, R171). -/

namespace Sys2Proof.Machine

/-! ## The Signal Generator -/

/-- R36, R106, R113: `Screen.signalSound` of a generator under a screen mode. -/
def Signal.soundUnder (mode : ScreenMode) (g : Signal) : Prop :=
  g.noise ≠ 0 ∧ (mode = .check ↔ g.check.running = true) ∧ (g.check.running = false → g.check.count = none) ∧
    (g.check.running = true →
      g.check.feeds ≠ [] ∧ ∀ n, g.check.count = some n → n < g.check.closingCount)

theorem Screen.signalSound_iff (x : Screen) : x.signalSound ↔ x.signal.soundUnder x.playout.mode := Iff.rfl

/-- R36, R117: an IDLE check on a screen in SHOW. -/
theorem Signal.soundUnder_idle {g : Signal} (hnoise : g.noise ≠ 0) (hrun : g.check.running = false)
    (hcount : g.check.count = none) : g.soundUnder .show :=
  ⟨hnoise, ⟨nofun, fun h => absurd (hrun.symm.trans h) nofun⟩, fun _ => hcount,
    fun h => absurd (hrun.symm.trans h) nofun⟩

/-- R36: a screen whose check is not running is in SHOW. -/
theorem Signal.soundUnder.mode_of_idle {g : Signal} {mode : ScreenMode} (h : g.soundUnder mode) (hrun : g.check.running = false) :
    mode = .show := by
  match mode, h with
  | .show, _ => rfl
  | .check, h => exact absurd (hrun.symm.trans (h.2.1.mp rfl)) nofun

/-- One screen's signal state and mode changed together. -/
theorem State.modSignal_mode_keeps (i : ScreenNo) (f : Signal → Signal) (m : ScreenMode) (s : State)
    (h : s.screens[i].signalSound → (f s.screens[i].signal).soundUnder m) :
    s.Keeps ((s.modSignal i f).modScreen i fun x => x.setMode m) := by
  unfold State.modSignal
  rw [State.modScreen_modScreen]
  exact s.modScreen_keeps i _ { signal := h }

theorem State.modSignal_keeps (i : ScreenNo) (f : Signal → Signal) (s : State)
    (h : s.screens[i].signalSound → (f s.screens[i].signal).soundUnder s.screens[i].playout.mode) :
    s.Keeps (s.modSignal i f) := s.modScreen_keeps i _ { signal := h }

/-- R112: the start of a check on a screen whose check is IDLE. -/
theorem State.beginCheck_keeps (i : ScreenNo) (spec : CheckSpec) (s : State)
    (hidle : s.screens[i].signal.check.running = false) : s.Keeps (s.beginCheck i spec) := by
  unfold State.beginCheck
  dsimp only
  split
  · next hnil =>
    refine (s.modSignal_keeps i _ fun hs => ?_).trans (State.raiseCheckDone_keeps ..)
    rw [Signal.soundUnder.mode_of_idle hs hidle]
    exact Signal.soundUnder_idle hs.1 (by simp only [Signal.startCheck, hnil, Bool.not_true]) rfl
  · next hne =>
    refine s.modSignal_mode_keeps i _ _ fun hs => ?_
    have hrun : ((s.screens[i].signal.startCheck (clampCheckSpec spec) (s.screens[i].checkFeeds spec.mask)).check.running) =
        true := by simpa [Signal.startCheck] using hne
    exact ⟨hs.1, ⟨fun _ => hrun, fun _ => rfl⟩, fun h => absurd (hrun.symm.trans h) nofun,
      fun _ => ⟨fun hnil => hne (List.isEmpty_iff.mpr hnil), nofun⟩⟩

/-- R117: a running check stops. -/
theorem State.endCheck_keeps (i : ScreenNo) (s : State) : s.Keeps (s.endCheck i) :=
  (s.modSignal_mode_keeps i _ _ fun hs => Signal.soundUnder_idle hs.1 rfl rfl).trans (State.raiseCheckDone_keeps ..)

/-- R115: a running check completes. -/
theorem State.completeCheck_keeps (i : ScreenNo) (s : State) : s.Keeps (s.completeCheck i) :=
  (s.modSignal_mode_keeps i _ _ fun hs => Signal.soundUnder_idle hs.1 rfl rfl).trans (State.raiseCheckDone_keeps ..)

theorem State.setPattern_keeps (i : ScreenNo) (p : PatternSpec) (s : State) : s.Keeps (s.setPattern i p) :=
  s.modSignal_keeps i _ id

/-- R8: an answer that is carried out keeps what its effects keep. -/
theorem accept_keeps {s t : State} {clamped : Bool} {record : List Byte} (h : s.Keeps t) :
    s.Keeps (accept t clamped record).state := h

theorem doPattern_keeps (screen : Nat) (p : PatternSpec) (s : State) : s.Keeps (doPattern screen p s).state := by
  unfold doPattern
  split
  · exact s.setPattern_keeps _ p
  · exact .refl s

theorem doWriteWave_keeps (index : Nat) (tone : Vector Int 32) (s : State) : s.Keeps (doWriteWave index tone s).state := by
  unfold doWriteWave
  split
  · exact .of_same
  · exact .refl s

theorem doStartCheck_keeps (screen : Nat) (spec : CheckSpec) (s : State) : s.Keeps (doStartCheck screen spec s).state := by
  unfold doStartCheck
  split
  · dsimp only
    split
    · exact .refl s
    split
    · exact .refl s
    · next hidle => exact s.beginCheck_keeps _ spec (by simpa using hidle)
  · exact .refl s

theorem doStopCheck_keeps (screen : Nat) (s : State) : s.Keeps (doStopCheck screen s).state := by
  unfold doStopCheck
  split
  · dsimp only
    split
    · exact s.endCheck_keeps _
    · exact .refl s
  · exact .refl s

/-- R115: the decision of a feed changes the result table alone. -/
theorem Signal.decideFeed_eq (g : Signal) (position : Nat) :
    g.decideFeed position = { g with results := (g.decideFeed position).results } := by
  unfold Signal.decideFeed
  split <;> rfl

/-- R115: the result of the last feed. -/
theorem State.decideLast_keeps (i : ScreenNo) (s : State) : s.Keeps (s.modSignal i Signal.decideLast) :=
  s.modSignal_keeps i _ fun hs => by
    unfold Signal.decideLast
    rw [Signal.decideFeed_eq]
    exact hs

/-! ## Faders -/

theorem State.modLevel_keeps (i : ScreenNo) (f : Level → Level) (s : State)
    (h : s.screens[i].level.sound → (f s.screens[i].level).sound) : s.Keeps (s.modLevel i f) :=
  s.modScreen_keeps i _ { level := h }

/-- R98: between its ends a fade stands between its start and its target. -/
theorem fadeValue_le {start target duration count : Nat} (hs : start ≤ 100) (ht : target ≤ 100) (hc : count ≤ duration) :
    ((start : Int) + Int.tdiv (((target : Int) - start) * count) duration).toNat ≤ 100 := by
  rcases Nat.le_total start target with h | h
  · obtain ⟨k, rfl⟩ := Nat.exists_eq_add_of_le h
    have hq : k * count / duration ≤ k := Nat.div_le_of_le_mul (by
      rw [Nat.mul_comm duration]
      exact Nat.mul_le_mul_left k hc)
    have hcast : ((start + k : Nat) : Int) - start = (k : Nat) := by omega
    rw [hcast, ← Int.natCast_mul, ← Int.ofNat_tdiv]
    omega
  · obtain ⟨k, rfl⟩ := Nat.exists_eq_add_of_le h
    have hcast : (target : Int) - (target + k : Nat) = -(k : Nat) := by omega
    rw [hcast, Int.neg_mul, Int.neg_tdiv, ← Int.natCast_mul, ← Int.ofNat_tdiv]
    generalize k * count / duration = q
    omega

theorem Level.advanceFade_sound {l : Level} (h : l.sound) : l.advanceFade.sound := by
  obtain ⟨hfader, hfade⟩ := h
  unfold Level.advanceFade
  split
  · exact ⟨hfader, hfade⟩
  next f hf =>
  obtain ⟨hstart, htarget, hone, hmax, hcount⟩ := hfade f hf
  split
  · exact ⟨htarget, nofun⟩
  next hgoing =>
  refine ⟨?_, fun g hg => ?_⟩
  · exact_mod_cast fadeValue_le hstart htarget (count := f.count + 1) (by omega)
  · obtain rfl := Option.some.inj hg
    exact ⟨hstart, htarget, hone, hmax, Nat.lt_of_not_le hgoing⟩

theorem Level.startFade_sound {l : Level} (target duration : Nat) (h : l.sound) : (l.startFade target duration).sound := by
  refine ⟨h.1, fun f hf => ?_⟩
  obtain rfl := Option.some.inj hf
  exact ⟨h.1, clampNat_le target (by decide), le_clampNat 1 60000 duration, clampNat_le duration (by decide),
    le_clampNat 1 60000 duration⟩

theorem doMute_keeps (screen : Nat) (s : State) : s.Keeps (doMute screen s).state := by
  unfold doMute
  split
  · exact accept_keeps (s.modLevel_keeps _ _ id)
  · exact .refl s

theorem doUnmute_keeps (screen : Nat) (s : State) : s.Keeps (doUnmute screen s).state := by
  unfold doUnmute
  split
  · exact accept_keeps (s.modLevel_keeps _ _ id)
  · exact .refl s

theorem doSetFader_keeps (screen fader : Nat) (s : State) : s.Keeps (doSetFader screen fader s).state := by
  unfold doSetFader
  split
  · exact accept_keeps (s.modLevel_keeps _ _ fun _ => ⟨clampNat_le fader (by decide), nofun⟩)
  · exact .refl s

theorem doFade_keeps (screen target duration : Nat) (s : State) : s.Keeps (doFade screen target duration s).state := by
  unfold doFade
  split
  · exact accept_keeps (s.modLevel_keeps _ _ (Level.startFade_sound target duration))
  · exact .refl s

theorem State.requestBank_keeps (i : ScreenNo) (bank : Bank) (s : State) : s.Keeps (s.requestBank i bank) :=
  s.modLevel_keeps i _ id

theorem doSelectBank_keeps (screen : Nat) (bank : Bank) (s : State) : s.Keeps (doSelectBank screen bank s).state := by
  unfold doSelectBank
  split
  · exact s.requestBank_keeps _ bank
  · exact .refl s

/-! ## Feeds -/

/-- A feed changed without its active bank. -/
theorem State.modFeed_keeps (i : ScreenNo) (k : FeedNo) (f : Feed → Feed) (s : State)
    (hactive : (f s.screens[i].feeds[k]).active = s.screens[i].feeds[k].active)
    (h : s.screens[i].feeds[k].sound → (f s.screens[i].feeds[k]).sound) : s.Keeps (s.modFeed i k f) := by
  refine s.modScreen_keeps i _ { feeds := fun hs => ?_ }
  have active (j : FeedNo) : (adjust s.screens[i].feeds k f)[j].active = s.screens[i].feeds[j].active := by
    rw [adjust_get]
    split
    · next hj => rw [hj, hactive]
    · rfl
  intro j
  refine ⟨?_, (active j).trans ((hs j).2.trans (active 0).symm)⟩
  show (adjust s.screens[i].feeds k f)[j].sound
  rw [adjust_get]
  split
  · exact h (hs k).1
  · exact (hs j).1

theorem doWriteFeed_keeps (index : Nat) (trim : Int) (s : State) : s.Keeps (doWriteFeed index trim s).state := by
  unfold doWriteFeed
  split
  · refine s.modFeed_keeps _ _ _ rfl fun h => ?_
    obtain ⟨ha, hb, hra, hrb, -, hrest⟩ := h
    exact ⟨ha, hb, hra, hrb, ⟨le_clampInt (-40) 24 trim, clampInt_le trim (by decide)⟩, hrest⟩
  · exact .refl s

/-- R85: a section list as it is stored is at rest. -/
theorem bankAtRest_map (list : List Section) : bankAtRest (list.map EqSection.atRest) := by
  intro e he
  obtain ⟨c, -, rfl⟩ := List.mem_map.mp he
  exact ⟨rfl, rfl, rfl, rfl⟩

/-- R88: a bank whose histories are set to 0 is at rest. -/
theorem bankAtRest_restBank (bank : List EqSection) : bankAtRest (restBank bank) := by
  intro e he
  obtain ⟨c, -, rfl⟩ := List.mem_map.mp he
  exact ⟨rfl, rfl, rfl, rfl⟩

/-- R85: a bank of at most eight sections at rest, stored where the feed does not run. -/
theorem Feed.setBank_sound {f : Feed} {bank : Bank} {list : List EqSection} (hlen : list.length ≤ 8)
    (hrest : bankAtRest list) (h : f.sound) : (f.setBank bank list).sound := by
  obtain ⟨ha, hb, hra, hrb, hrange⟩ := h
  cases bank with
  | a => exact ⟨hlen, hb, fun _ => hrest, hrb, hrange⟩
  | b => exact ⟨ha, hlen, hra, fun _ => hrest, hrange⟩

theorem Feed.setBank_active (f : Feed) (bank : Bank) (list : List EqSection) : (f.setBank bank list).active = f.active := by
  cases bank <;> rfl

theorem doWriteEqbank_keeps (index : Nat) (list : List Section) (s : State) :
    s.Keeps (doWriteEqbank index list s).state := by
  unfold doWriteEqbank
  split
  · dsimp only
    split
    · exact .refl s
    next hlen =>
    split
    · exact .refl s
    · refine s.modFeed_keeps _ _ _ (Feed.setBank_active _ _ _) (Feed.setBank_sound ?_ (bankAtRest_map list))
      rw [List.length_map]
      omega
  · exact .refl s

/-! ## Presets and their selection -/

theorem State.setPreset_keeps (p : PresetNo) (r : Preset) (s : State) : s.Keeps (s.setPreset p r) := .of_same

theorem doWritePreset_keeps (index : Nat) (r : Preset) (s : State) : s.Keeps (doWritePreset index r s).state := by
  unfold doWritePreset
  split
  · dsimp only
    split
    · split
      · exact .refl s
      · exact s.setPreset_keeps _ _
    · split
      · exact s.setPreset_keeps _ _
      · exact .refl s
  · exact .refl s

theorem State.select_keeps (i : ScreenNo) (p : Option PresetNo) (s : State) : s.Keeps (s.select i p) :=
  s.modScreen_keeps i _

theorem doSetPreset_keeps (screen : Nat) (preset : Option Nat) (s : State) : s.Keeps (doSetPreset screen preset s).state := by
  unfold doSetPreset
  split
  · split
    · exact s.select_keeps _ _
    · split
      · split
        · exact s.select_keeps _ _
        · exact .refl s
      · exact .refl s
  · exact .refl s

/-! ## Alarm records -/

/-- One record replaced by a sound one that keeps a retired record at rest. -/
theorem State.setRecord_keeps (i : ScreenNo) (k : RecordNo) (r : AlarmRecord) (s : State)
    (h : s.screens[i].records[k].sound → r.sound)
    (hrest : s.screens[i].recordsSound → recordInUse s.screens[i].render.latched k = false →
      r.state = .normal ∧ r.run = 0 ∧ r.clear = 0) : s.Keeps (s.setRecord i k r) := by
  refine s.modScreen_keeps i _ { records := fun hs j => ?_ }
  show (adjust s.screens[i].records k fun _ => r)[j].sound ∧ _
  rw [adjust_get]
  split
  · next hj =>
    subst hj
    exact ⟨h (hs j).1, hrest hs⟩
  · exact hs j

theorem doWriteProfile_keeps (index : Nat) (p : Profile) (s : State) : s.Keeps (doWriteProfile index p s).state := by
  unfold doWriteProfile
  split
  · dsimp only
    split
    · exact s.modScreen_keeps _ _
    · exact .refl s
  · exact .refl s

/-- R146: an acknowledged record is sound, and a raised one is in use. -/
theorem doAck_keeps (record : Nat) (s : State) : s.Keeps (doAck record s).state := by
  unfold doAck
  split
  case isFalse => exact .refl s
  dsimp only
  split
  · exact .refl s
  · exact .refl s
  · next hwarn =>
    refine s.setRecord_keeps _ _ _ (fun h => ?_) fun hs hout => absurd ((hs _).2 hout).1 (by rw [hwarn]; nofun)
    obtain ⟨hrec, hraised, -, -, -, hclear, hocc⟩ := h
    rw [hwarn] at hrec hraised
    exact ⟨hrec.trans ⟨nofun, nofun⟩, hraised.trans ⟨fun _ => nofun, fun _ => nofun⟩, fun _ => rfl,
      fun h => by rcases h with h | h <;> exact absurd h nofun, Nat.zero_le _, hclear, hocc⟩
  · next hact =>
    refine s.setRecord_keeps _ _ _ (fun h => ?_) fun hs hout => absurd ((hs _).2 hout).1 (by rw [hact]; nofun)
    obtain ⟨hrec, hraised, -, -, hrest⟩ := h
    exact ⟨hrec, hraised, fun _ => rfl,
      fun h => by rcases h with h | h <;> exact absurd (hact.symm.trans h) (by decide), hrest⟩

end Sys2Proof.Machine
end

section
/-! PROOFS. What the lanes, the reads, the meter, the reference decisions, the screen reset and a frame's hand-off keep
(R14 to R17, R56 to R60, R122, R132, R171 to R173). -/

namespace Sys2Proof.Machine

/-! ## Lanes -/

/-- A lane changed without its counts. -/
theorem State.modLane_keeps (n : LaneNo) (f : Lane → Lane) (s : State) (hsound : ∀ l : Lane, l.sound → (f l).sound)
    (hnext : ∀ l : Lane, (f l).nextCount = l.nextCount) (hlen : ∀ l : Lane, (f l).awaiting.length = l.awaiting.length) :
    s.Keeps (s.modLane n f) := by
  refine s.modScreen_keeps (laneScreen n) _ { lanes := fun hs => ?_ }
  generalize s.screens[laneScreen n] = x at hs
  have hget (l : Fin 2) : (adjust x.lanes (laneSide n) f)[l] = if l = laneSide n then f x.lanes[laneSide n] else x.lanes[l] :=
    adjust_get _ _ _ _
  have keep {α : Type} (g : Lane → α) (hg : ∀ l, g (f l) = g l) (l : Fin 2) :
      g (adjust x.lanes (laneSide n) f)[l] = g x.lanes[l] := by
    rw [hget]
    split
    · next h => rw [h, hg]
    · rfl
  obtain ⟨hlane, hcount, hwait⟩ := hs
  refine ⟨fun l => ?_, ?_, ?_⟩
  · show (adjust x.lanes (laneSide n) f)[l].sound
    rw [hget]
    split
    · exact hsound _ (hlane _)
    · exact hlane l
  · exact (keep Lane.nextCount hnext 0).trans (hcount.trans (keep Lane.nextCount hnext 1).symm)
  · exact (keep (fun l => l.awaiting.length) hlen 0).trans
      (hwait.trans (keep (fun l => l.awaiting.length) hlen 1).symm)

theorem Lane.sent_sound {l : Lane} (h : l.sound) : l.sent.sound := by
  obtain ⟨hlen, hcounts, htransmit, hsamples, hmiss, hseq⟩ := h
  refine ⟨hlen, hcounts, ?_, fun r hr => hsamples r (List.mem_of_mem_drop hr), hmiss, hseq⟩
  show (l.transmit.drop 1).length ≤ 2
  rw [List.length_drop]
  omega

/-- R122: a sense record that arrives leaves the count of each awaiting entry and the tallies in range. -/
theorem Lane.arrive_sound (record : List Byte) {l : Lane} (h : l.sound) : (l.arrive record).sound := by
  obtain ⟨hlen, hcounts, htransmit, hsamples, hmiss, hseq⟩ := h
  obtain ⟨hnext, htr, hms, -, hmap⟩ := l.arrive_keeps record
  have hlength : (l.arrive record).awaiting.length = l.awaiting.length := by
    have := congrArg List.length hmap
    simpa only [List.length_map] using this
  refine ⟨hlength ▸ hlen, by rw [hmap, hnext, hlength, hcounts], htr ▸ htransmit, htr ▸ hsamples, hms ▸ hmiss, ?_⟩
  unfold Lane.arrive Lane.receive
  split
  · split
    · exact hseq
    · exact satAdd_le _ 1
  · exact hseq

theorem Lane.arrive_length (record : List Byte) (l : Lane) :
    (l.arrive record).awaiting.length = l.awaiting.length := by
  simpa only [List.length_map] using congrArg List.length (l.arrive_keeps record).2.2.2.2

theorem Lane.clearTallies_sound {l : Lane} (h : l.sound) : l.clearTallies.sound := by
  obtain ⟨hlen, hcounts, htransmit, hsamples, -, -⟩ := h
  exact ⟨hlen, hcounts, htransmit, hsamples, Nat.zero_le _, Nat.zero_le _⟩

/-! ## Reads -/

theorem doRead_keeps (table : Table) (index : Nat) (s : State) : s.Keeps (doRead table index s).state := by
  have h : (doRead table index s).state = s := by
    cases table
    all_goals
      simp only [doRead, readStreamEntry, readPresetEntry, readEqbankEntry, readCueEntry, readProfileEntry, readWaveEntry,
        readScreenEntry, readFeedEntry]
      split <;> rfl
  rw [h]
  exact .refl s

theorem doReadStatus_keeps (screen : Nat) (s : State) : s.Keeps (doReadStatus screen s).state := by
  unfold doReadStatus
  split
  · exact s.modScreen_keeps _ _
  · exact .refl s

theorem doReadTally_keeps (subject : Nat) (scope : TallyScope) (clear : Bool) (s : State) :
    s.Keeps (doReadTally subject scope clear s).state := by
  cases scope with
  | port =>
    simp only [doReadTally, readPortTally]
    split
    · exact .ite (fun _ => .of_same) fun _ => .refl s
    · exact .refl s
  | entry =>
    simp only [doReadTally, readEntryTally]
    split
    · exact .ite (fun _ => s.modEntry_keeps _ _) fun _ => .refl s
    · exact .refl s
  | screen =>
    simp only [doReadTally, readScreenTally]
    split
    · exact .ite (fun _ => s.modScreen_keeps _ _) fun _ => .refl s
    · exact .refl s
  | feed =>
    simp only [doReadTally, readFeedTally]
    split
    · refine .ite (fun _ => s.modFeed_keeps _ _ _ rfl fun h => ?_) fun _ => .refl s
      obtain ⟨ha, hb, hra, hrb, htrim, hhold, hone, htwo, -⟩ := h
      exact ⟨ha, hb, hra, hrb, htrim, hhold, hone, htwo, Nat.zero_le _⟩
    · exact .refl s
  | lane =>
    simp only [doReadTally, readLaneTally]
    split
    · exact .ite (fun _ => s.modLane_keeps _ _ (fun _ => Lane.clearTallies_sound) (fun _ => rfl) fun _ => rfl)
        fun _ => .refl s
    · exact .refl s

/-- R131: a change of the holds alone, within full scale. -/
theorem Screen.holds_keep (x : Screen) (hold : FeedNo → Nat) (channels : Vector Nat 8) (meter : Nat)
    (h : x.feedsSound → ∀ k, hold k ≤ 8388608) :
    x.Keeps { x with
      feeds := tabulate fun k => { x.feeds[k] with hold := hold k }, channelHolds := channels, meterCount := meter } where
  feeds hs k := by
    show (tabulate fun k => { x.feeds[k] with hold := hold k })[k].sound ∧ _
    rw [tabulate_get]
    obtain ⟨⟨ha, hb, hra, hrb, htrim, -, hrest⟩, hactive⟩ := hs k
    refine ⟨⟨ha, hb, hra, hrb, htrim, h hs k, hrest⟩, ?_⟩
    show _ = (tabulate fun k => { x.feeds[k] with hold := hold k })[(0 : FeedNo)].active
    rw [tabulate_get]
    exact hactive

theorem Screen.clearHolds_keeps (x : Screen) : x.Keeps x.clearHolds :=
  x.holds_keep (fun _ => 0) _ _ fun _ _ => Nat.zero_le _

theorem doReadMeter_keeps (screen : Nat) (reset : Bool) (s : State) : s.Keeps (doReadMeter screen reset s).state := by
  unfold doReadMeter
  split
  · exact .ite (fun _ => s.modScreen_keeps _ _ (Screen.clearHolds_keeps _)) fun _ => .refl s
  · exact .refl s

theorem doReadCheck_keeps (screen : Nat) (s : State) : s.Keeps (doReadCheck screen s).state := by
  unfold doReadCheck
  split <;> exact .refl s

theorem doReadSense_keeps (feed : Nat) (s : State) : s.Keeps (doReadSense feed s).state := by
  unfold doReadSense
  split <;> exact .refl s

theorem doListAlarms_keeps (screen : Nat) (s : State) : s.Keeps (doListAlarms screen s).state := by
  unfold doListAlarms
  split <;> exact .refl s

/-! ## The meter -/

theorem State.offerMeter_keeps (i : ScreenNo) (s : State) : s.Keeps (s.offerMeter i) := by
  refine .ite (fun h => ?_) fun _ => .refl s
  exact (s.place_keeps _ ((State.reportSpace_iff s).mp h)).trans (State.modScreen_keeps _ _ _ (Screen.clearHolds_keeps _))

theorem State.emitMeter_keeps (i : ScreenNo) (s : State) : s.Keeps (s.emitMeter i) :=
  (s.offerMeter_keeps i).trans (State.modScreen_keeps _ _ _)

theorem State.meterStage_keeps (i : ScreenNo) (s : State) : s.Keeps (s.meterStage i) :=
  .ite (fun _ => s.emitMeter_keeps i) fun _ => s.modScreen_keeps _ _

/-! ## Reference decisions -/

/-- R51: a step moves the base of the clock and nothing else of it. -/
theorem State.stepClock_clock (i : ScreenNo) (d : Int) (s : State) :
    (s.stepClock i d).screens[i].clock =
      { s.screens[i].clock with base := s.screens[i].clock.base + BitVec.ofInt 32 d } ∧
    (s.stepClock i d).screens[i].settings = s.screens[i].settings := by
  by_cases h : d = 0
  · rw [h, State.stepClock_zero]
    exact ⟨by simp, rfl⟩
  · rw [State.stepClock_screens i d s h, adjust_same]
    exact ⟨rfl, rfl⟩

/-- R51: a step, and then a change of the clock that keeps it sound whatever its base. -/
theorem State.stepClock_modClock_keeps (i : ScreenNo) (d : Int) (f : Clock → Clock) (s : State)
    (h : ∀ base, settingsInRange s.screens[i].settings → s.screens[i].clock.soundUnder s.screens[i].settings →
      (f { s.screens[i].clock with base := base }).soundUnder s.screens[i].settings) :
    s.Keeps ((s.stepClock i d).modClock i f) := by
  refine (s.stepClock_keeps i d).trans (State.modClock_keeps i f _ ?_)
  obtain ⟨hclock, hsettings⟩ := s.stepClock_clock i d
  rw [hclock, hsettings]
  exact h _

/-- R54: a clock that is not UNREFERENCED belongs to a REFERENCED screen. -/
theorem Clock.soundUnder.referenced {r : ScreenSettings} {c : Clock} (h : c.soundUnder r) (hc : c.state ≠ .unreferenced) :
    r.clockMode ≠ .selfTimed := fun hm => hc (h.1.mpr hm)

/-- R57 to R60: a decision that leaves the clock in a state of a REFERENCED screen, with the slip and counts given. -/
theorem Clock.decided_sound {r : ScreenSettings} {c d : Clock} (h : c.soundUnder r) (hc : c.state ≠ .unreferenced)
    (hstate : d.state ≠ .unreferenced) (hslip : d.slip ≠ 0 → d.state = .locked) (hwindow : d.slip.natAbs ≤ r.window)
    (hin : d.inWindow < r.lockN) (hout : d.outWindow < r.unlockN) (hsince : d.sinceReference = c.sinceReference) :
    d.soundUnder r :=
  ⟨⟨fun h0 => absurd h0 hstate, fun hm => absurd hm (h.referenced hc)⟩, hslip, hwindow, hin, hout,
    hsince ▸ h.2.2.2.2.2⟩

theorem State.judgeDiscontinuity_keeps (i : ScreenNo) (d : Int) (s : State) : s.Keeps (s.judgeDiscontinuity i d) := by
  refine (s.stepClock_modClock_keeps i d _ fun base hr hs => ?_).trans (State.raiseClock_keeps ..)
  obtain ⟨hstate, -, -, -, -, hsince⟩ := hs
  refine ⟨?_, fun h0 => absurd rfl h0, Nat.zero_le _, hr.limits.1, hr.limits.2, hsince⟩
  dsimp only
  split
  · next hold => rw [← hstate, hold]; exact ⟨nofun, nofun⟩
  · exact hstate

theorem State.judgeAcquiring_keeps (i : ScreenNo) (d : Int) (s : State) (hc : s.screens[i].clock.state = .acquiring) :
    s.Keeps (s.judgeAcquiring i d) := by
  have hne : s.screens[i].clock.state ≠ .unreferenced := by rw [hc]; nofun
  unfold State.judgeAcquiring
  refine .ite (fun _ => .ite (fun hin => ?_) fun _ => ?_) fun _ => ?_
  · refine s.modClock_keeps i _ fun _ hs => ?_
    obtain ⟨hstate, hslip, hwindow, -, hout, hsince⟩ := hs
    exact ⟨hstate, hslip, hwindow, hin, hout, hsince⟩
  · refine (s.modClock_keeps i _ fun hr hs => ?_).trans (State.raiseClock_keeps ..)
    exact Clock.decided_sound hs hne nofun (fun _ => rfl) hs.2.2.1 hr.limits.1 hr.limits.2 rfl
  · refine (s.stepClock_modClock_keeps i d _ fun _ hr hs => ?_).trans (State.raiseClock_keeps ..)
    obtain ⟨hstate, hslip, hwindow, -, hout, hsince⟩ := hs
    exact ⟨hstate, hslip, hwindow, hr.limits.1, hout, hsince⟩

theorem Screen.withinWindow_iff (x : Screen) (d : Int) : x.withinWindow d = true ↔ d.natAbs ≤ x.settings.window :=
  decide_eq_true_iff

theorem State.judgeLocked_keeps (i : ScreenNo) (d : Int) (s : State) (hc : s.screens[i].clock.state = .locked) :
    s.Keeps (s.judgeLocked i d) := by
  have hne : s.screens[i].clock.state ≠ .unreferenced := by rw [hc]; nofun
  unfold State.judgeLocked
  refine .ite (fun hd => ?_) fun _ => .ite (fun hout => ?_) fun _ => ?_
  · refine s.modClock_keeps i _ fun hr hs => ?_
    exact Clock.decided_sound hs hne hne (fun _ => hc) ((Screen.withinWindow_iff _ d).mp hd) hs.2.2.2.1 hr.limits.2 rfl
  · refine s.modClock_keeps i _ fun _ hs => ?_
    obtain ⟨hstate, hslip, hwindow, hin, -, hsince⟩ := hs
    exact ⟨hstate, hslip, hwindow, hin, hout, hsince⟩
  · refine (s.stepClock_modClock_keeps i d _ fun _ hr hs => ?_).trans (State.raiseClock_keeps ..)
    exact Clock.decided_sound hs hne nofun (fun h0 => absurd rfl h0) (Nat.zero_le _) hr.limits.1 hr.limits.2 rfl

theorem State.judgeHoldover_keeps (i : ScreenNo) (d : Int) (s : State) (hc : s.screens[i].clock.state = .holdover) :
    s.Keeps (s.judgeHoldover i d) := by
  have hne : s.screens[i].clock.state ≠ .unreferenced := by rw [hc]; nofun
  unfold State.judgeHoldover
  refine .ite (fun hd => ?_) fun _ => ?_
  · refine (s.modClock_keeps i _ fun hr hs => ?_).trans (State.raiseClock_keeps ..)
    exact Clock.decided_sound hs hne nofun (fun _ => rfl) ((Screen.withinWindow_iff _ d).mp hd) hr.limits.1 hr.limits.2 rfl
  · refine (s.stepClock_modClock_keeps i d _ fun _ hr hs => ?_).trans (State.raiseClock_keeps ..)
    exact Clock.decided_sound hs hne nofun (fun h0 => absurd rfl h0) (Nat.zero_le _) hr.limits.1 hr.limits.2 rfl

/-- R56: an accepted reference in any clock state. -/
theorem State.acceptReference_keeps (i : ScreenNo) (d : Int) (discontinuity : Bool) (s : State) :
    s.Keeps (s.acceptReference i d discontinuity) := by
  have hsince : s.Keeps (s.modClock i fun c => { c with sinceReference := 0 }) :=
    s.modClock_keeps i _ fun _ hs => by
      obtain ⟨hstate, hslip, hwindow, hin, hout, -⟩ := hs
      exact ⟨hstate, hslip, hwindow, hin, hout, Nat.zero_le _⟩
  unfold State.acceptReference
  refine .ite (fun _ => hsince.trans (State.judgeDiscontinuity_keeps ..)) fun _ => hsince.trans ?_
  split
  · next h => exact State.judgeAcquiring_keeps i d _ h
  · next h => exact State.judgeLocked_keeps i d _ h
  · next h => exact State.judgeHoldover_keeps i d _ h
  · exact .refl _

theorem State.judgeReference_keeps (e : EntryNo) (r : ScreenTime) (discontinuity : Bool) (s : State) :
    s.Keeps (s.judgeReference e r discontinuity) :=
  .ite (fun _ => s.bumpEntry_keeps ..) fun _ => .ite (fun _ => s.bumpScreen_keeps ..) fun _ =>
    s.acceptReference_keeps ..

/-! ## A frame handed on -/

theorem insertMarker_length (m : Marker) (list : List Marker) : (insertMarker m list).length = list.length + 1 := by
  obtain ⟨before, after, rfl, heq, -⟩ := insertMarker_split m list
  rw [heq]
  simp only [List.length_append, List.length_cons]
  omega

theorem State.placeMarker_keeps (i : ScreenNo) (mode : TimingMode) (m : Marker) (s : State) :
    s.Keeps (s.placeMarker i mode m) := by
  refine .ite (fun _ => s.bumpScreen_keeps ..) fun _ => .ite (fun _ => s.bumpScreen_keeps ..) fun hroom => ?_
  refine s.modScreen_keeps i _ { markers := fun _ => ?_ }
  show (insertMarker m s.screens[i].markers).length ≤ 8
  rw [insertMarker_length]
  have : ¬8 ≤ s.screens[i].markers.length := hroom
  omega

theorem State.trackSequence_keeps (e : EntryNo) (seq : Byte) (s : State) : s.Keeps (s.trackSequence e seq) :=
  State.Keeps.trans (.ite (fun _ => .refl s) fun _ => s.bumpEntry_keeps ..) (State.modEntry_keeps _ _ _)

theorem State.handReference_keeps (e : EntryNo) (body : List Byte) (s : State) : s.Keeps (s.handReference e body) := by
  refine .ite (fun _ => s.bumpEntry_keeps ..) fun _ => .ite (fun _ => s.bumpEntry_keeps ..) fun _ => ?_
  split
  · exact s.judgeReference_keeps ..
  all_goals exact s.bumpEntry_keeps ..

theorem State.handMarker_keeps (e : EntryNo) (body : List Byte) (s : State) : s.Keeps (s.handMarker e body) := by
  refine .ite (fun _ => s.bumpEntry_keeps ..) fun _ => .ite (fun _ => s.bumpEntry_keeps ..) fun _ => ?_
  split
  · exact s.placeMarker_keeps ..
  all_goals exact .refl s

theorem State.handProgram_keeps (e : EntryNo) (body : List Byte) (s : State)
    (he : s.entries[e].state = .primed ∨ s.entries[e].state = .active) : s.Keeps (s.handProgram e body) := by
  unfold State.handProgram
  split
  · exact s.bumpEntry_keeps ..
  · exact s.offerBlock_keeps e _ rfl he

/-- R14: tracking a sequence leaves the entry's state. -/
theorem State.trackSequence_state (e : EntryNo) (seq : Byte) (s : State) (o : EntryNo) :
    (s.trackSequence e seq).entries[o].state = s.entries[o].state := by
  have hmod (f : StreamEntry → StreamEntry) (hf : ∀ x, (f x).state = x.state) (t : State) :
      (t.modEntry e f).entries[o].state = t.entries[o].state := by
    by_cases h : o = e
    · rw [h, State.modEntry_same, hf]
    · rw [State.modEntry_other _ _ _ _ h]
  refine (hmod (fun x => { x with lastSeq := some seq }) (fun _ => rfl) _).trans ?_
  split
  · rfl
  · exact hmod (fun x => { x with tallies := adjust x.tallies EntryTally.seqGap.place (satAdd · 1) }) (fun _ => rfl) s

/-- R13 steps 4 to 7: a stream frame. -/
theorem State.classifyStream_keeps (f : Frame) (s : State) : s.Keeps (s.classifyStream f) := by
  have track (e : EntryNo) (he : s.entries[e].state = .primed ∨ s.entries[e].state = .active) :
      s.Keeps ((s.trackSequence e f.seq).handByKind e f) := by
    refine (s.trackSequence_keeps e f.seq).trans (.ite (fun _ => ?_) fun _ => .ite (fun _ => ?_) fun _ => ?_)
    · exact State.handProgram_keeps _ _ _ (by rw [State.trackSequence_state]; exact he)
    · exact State.handReference_keeps ..
    · exact State.handMarker_keeps ..
  unfold State.classifyStream
  split
  · exact s.bumpPort_keeps _
  · split
    · next h => exact track _ (.inl h)
    · next h => exact track _ (.inr h)
    all_goals exact s.bumpPort_keeps _

end Sys2Proof.Machine
end

section
/-! PROOFS. What a screen reset keeps (R26, R48, R66, R88, R118, R164, R171). -/

namespace Sys2Proof.Machine

/-! ## The reset's part in the shared tables -/

/-- R26: an entry after a reset of screen `i`. -/
theorem State.resetEntries_get (i : ScreenNo) (s : State) (e : EntryNo) :
    (s.resetEntries i).entries[e] =
      if s.entries[e].screen = i ∧ s.entries[e].state ≠ .unused then
        ({ s.entries[e] with state := .inactive } : StreamEntry).forget
      else s.entries[e] := tabulate_get _ e

/-- R26: a reset keeps an entry's number and screen, and its state or makes it INACTIVE. -/
theorem State.resetEntries_cases (i : ScreenNo) (s : State) (e : EntryNo) :
    (s.resetEntries i).entries[e].number = s.entries[e].number ∧
      (s.resetEntries i).entries[e].screen = s.entries[e].screen ∧
      (s.entries[e].screen = i ∧ s.entries[e].state ≠ .unused ∧ (s.resetEntries i).entries[e].state = .inactive ∨
        (s.entries[e].screen = i → s.entries[e].state = .unused) ∧
          (s.resetEntries i).entries[e].state = s.entries[e].state) := by
  rw [State.resetEntries_get]
  split
  · next h => exact ⟨rfl, rfl, .inl ⟨h.1, h.2, rfl⟩⟩
  · next h => exact ⟨rfl, rfl, .inr ⟨fun hi => Decidable.not_not.mp fun hne => h ⟨hi, hne⟩, rfl⟩⟩

theorem State.resetEntries_entriesSound (i : ScreenNo) (s : State) (hs : s.entriesSound) :
    (s.resetEntries i).entriesSound := by
  obtain ⟨hone, hnumber, hrange⟩ := hs
  have hused (e : EntryNo) : (s.resetEntries i).entries[e].state = .unused ↔ s.entries[e].state = .unused := by
    obtain ⟨-, -, ⟨-, hne, hst⟩ | ⟨-, hst⟩⟩ := s.resetEntries_cases i e
    · rw [hst]; exact ⟨nofun, fun h => absurd h hne⟩
    · rw [hst]
  have hrole (e : EntryNo) (h : (s.resetEntries i).entries[e].state = .active ∨ (s.resetEntries i).entries[e].state = .primed) :
      (s.resetEntries i).entries[e].state = s.entries[e].state := by
    obtain ⟨-, -, ⟨-, -, hst⟩ | ⟨-, hst⟩⟩ := s.resetEntries_cases i e
    · rw [hst] at h; exact h.elim nofun nofun
    · exact hst
  refine ⟨fun e o hscreen hstate hr => ?_, fun e o he ho hn => ?_, fun e => ?_⟩
  · have he := hrole e hr
    have ho := hrole o (hstate ▸ hr)
    rw [(s.resetEntries_cases i e).2.1, (s.resetEntries_cases i o).2.1] at hscreen
    exact hone e o hscreen (he.symm.trans (hstate.trans ho)) (he ▸ hr)
  · rw [(s.resetEntries_cases i e).1, (s.resetEntries_cases i o).1] at hn
    exact hnumber e o (fun h => he ((hused e).mpr h)) (fun h => ho ((hused o).mpr h)) hn
  · rw [(s.resetEntries_cases i e).1, hused]
    exact hrange e

/-- R26, R48: the queues of the screen freed and its entries reset. -/
theorem State.resetSources_keeps (i : ScreenNo) (s : State) :
    s.Keeps (((s.freeProgram i).freeStandby i).resetEntries i) := by
  have hentries : s.KeepsButSources (((s.freeProgram i).freeStandby i).resetEntries i) :=
    ((s.freeProgram_keepsButSources i).trans (State.freeStandby_keepsButSources i _)).trans
      ⟨fun _ => .refl _, (State.SameQueues.mk rfl (fun _ => rfl) (fun _ => rfl) fun _ => rfl).poolSound, rfl,
        ⟨rfl, rfl, List.prefix_rfl, Nat.le_max_right _ _, id⟩⟩
  refine hentries.keeps fun hs => ?_
  rw [State.sourcesSound_iff] at hs ⊢
  refine ⟨State.resetEntries_entriesSound i _ hs.1, fun j => ⟨fun b hb => ?_, fun b hb => ?_⟩⟩
  all_goals obtain ⟨-, hscreen, hstate⟩ := ((s.freeProgram i).freeStandby i).resetEntries_cases i b.entry
  · have hb' : b ∈ ((s.freeProgram i).freeStandby i).screens[j].playout.program := hb
    rw [State.freeStandby_program] at hb'
    obtain ⟨hj, hmem⟩ := State.mem_freeProgram hb'
    obtain ⟨hbs, hbst⟩ := (hs.2 j).1 b hmem
    rcases hstate with ⟨h, -⟩ | ⟨-, h⟩
    · exact absurd (hbs.symm.trans h) hj
    · exact ⟨hscreen.trans hbs, h.trans hbst⟩
  · obtain ⟨hj, hmem⟩ := State.mem_freeStandby (s := s.freeProgram i) hb
    rw [State.freeProgram_standby] at hmem
    obtain ⟨hbs, hbst⟩ := (hs.2 j).2 b hmem
    rcases hstate with ⟨h, -⟩ | ⟨-, h⟩
    · exact absurd (hbs.symm.trans h) hj
    · exact ⟨hscreen.trans hbs, h.trans hbst⟩

theorem State.resetShared_keeps (i : ScreenNo) (s : State) : s.Keeps (s.resetShared i) :=
  (s.resetSources_keeps i).trans (State.resetCues_keeps i _)

theorem State.resetShared_signal (i : ScreenNo) (s : State) : (s.resetShared i).screens[i].signal = s.screens[i].signal := by
  show ((s.freeProgram i).freeStandby i).screens[i].signal = _
  rw [State.freeStandby_screen, State.freeProgram_screen]

/-! ## The reset's part in the screen's own blocks -/

theorem State.stopForReset_keeps (i : ScreenNo) (s : State) : s.Keeps (s.stopForReset i) :=
  .ite (fun _ => s.endCheck_keeps i) fun _ => .refl s

/-- R118: no check runs after the reset's stop. -/
theorem State.stopForReset_idle (i : ScreenNo) (s : State) : (s.stopForReset i).screens[i].signal.check.running = false := by
  unfold State.stopForReset
  split
  · unfold State.endCheck State.raiseCheckDone State.raise
    rw [State.offerNotice_screen_signal, State.modScreen_same]
    show (((s.modSignal i Signal.stopCheck).screens[i].setMode .show).signal.check.running) = false
    rw [State.modSignal_screens, adjust_same]
    rfl
  · next h => simpa using h

theorem Feed.afterReset_sound {f : Feed} (h : f.sound) : f.afterReset.sound := by
  obtain ⟨ha, hb, -, -, htrim, -, hone, htwo, -⟩ := h
  exact ⟨by simpa only [Feed.afterReset, restBank, List.length_map] using ha,
    by simpa only [Feed.afterReset, restBank, List.length_map] using hb, fun _ => bankAtRest_restBank _,
    fun _ => bankAtRest_restBank _, htrim, Nat.zero_le _, hone, htwo, Nat.zero_le _⟩

theorem AlarmRecord.powerOn_sound : AlarmRecord.powerOn.sound := by
  unfold AlarmRecord.sound AlarmRecord.powerOn
  decide

theorem Screen.afterReset_keeps (x : Screen) (hidle : x.signal.check.running = false) : x.Keeps x.afterReset where
  clock h := ⟨h.1, Clock.starting_sound h.1 _ _⟩
  level h := ⟨h.1, nofun⟩
  records _ k := by
    have hk : x.afterReset.records[k] = AlarmRecord.powerOn := Vector.getElem_replicate _
    rw [hk]
    exact ⟨AlarmRecord.powerOn_sound, fun _ => ⟨rfl, rfl, rfl⟩⟩
  lanes h := by
    have hlane (l : Fin 2) : x.afterReset.lanes[l] = x.lanes[l].clearTallies := tabulate_get _ l
    unfold Screen.lanesSound
    simp only [hlane]
    exact ⟨fun l => Lane.clearTallies_sound (h.1 l), h.2⟩
  feeds h k := by
    have hfeed (k : FeedNo) : x.afterReset.feeds[k] = x.feeds[k].afterReset := tabulate_get _ k
    rw [hfeed, hfeed]
    exact ⟨Feed.afterReset_sound (h k).1, (h k).2⟩
  signal h := Signal.soundUnder_idle (by decide : (1 : BitVec _) ≠ 0) hidle (h.2.2.1 hidle)
  markers _ := Nat.zero_le _

/-- R171: a screen reset. -/
theorem State.resetScreen_keeps (i : ScreenNo) (s : State) : s.Keeps (s.resetScreen i) := by
  have hshared := (s.stopForReset_keeps i).trans ((s.stopForReset i).resetShared_keeps i)
  refine (hshared.trans (State.modScreen_keeps i _ _ (Screen.afterReset_keeps _ ?_))).trans
    (.ite (fun _ => .refl _) fun _ => State.raiseClock_keeps ..)
  rw [State.resetShared_signal]
  exact s.stopForReset_idle i

theorem doScreenReset_keeps (screen : Nat) (s : State) : s.Keeps (doScreenReset screen s).state := by
  unfold doScreenReset
  split
  · exact accept_keeps (s.resetScreen_keeps _)
  · exact .refl s

end Sys2Proof.Machine
end

section
/-! PROOFS. What the judgement of cues, their firing and the arming of their children keep (R154 to R159, R163). -/

namespace Sys2Proof.Machine

/-! ## Everything but the cues -/

/-- What an operation of the Cue Engine keeps when the cue table is judged by its whole effect. -/
structure State.KeepsButCues (s t : State) : Prop where
  screens : ∀ i : ScreenNo, s.screens[i].Keeps t.screens[i]
  pool : s.poolSound → t.poolSound
  sources : s.sourcesSound → t.sourcesSound
  offers : s.OnlyOffers t

theorem State.Keeps.butCues {s t : State} (h : s.Keeps t) : s.KeepsButCues t :=
  ⟨h.screens, h.tables.pool, h.tables.sources, h.tables.offers⟩

theorem State.KeepsButCues.refl (s : State) : s.KeepsButCues s := (State.Keeps.refl s).butCues

theorem State.KeepsButCues.trans {s t u : State} (h : s.KeepsButCues t) (g : t.KeepsButCues u) : s.KeepsButCues u :=
  ⟨fun i => (h.screens i).trans (g.screens i), g.pool ∘ h.pool, g.sources ∘ h.sources, h.offers.trans g.offers⟩

theorem State.KeepsButCues.of_cues {s t : State} (h : t = { s with cues := t.cues }) : s.KeepsButCues t := by
  rw [h]
  exact ⟨fun _ => .refl _, id, id, ⟨rfl, rfl, List.prefix_rfl, Nat.le_max_right _ _, id⟩⟩

theorem State.KeepsButCues.keeps {s t : State} (h : s.KeepsButCues t) (hc : s.cueTableSound → t.cueTableSound) :
    s.Keeps t := ⟨h.screens, h.pool, h.sources, hc, h.offers⟩

/-! ## Actions -/

theorem State.firePreset_keeps (i : ScreenNo) (p : Nat) (s : State) : s.Keeps (s.firePreset i p).1 := by
  unfold State.firePreset
  split
  · split
    · exact s.select_keeps ..
    · exact .refl s
  · exact .refl s

theorem State.fireSource_keeps (i : ScreenNo) (e : Nat) (s : State) : s.Keeps (s.fireSource i e).1 := by
  unfold State.fireSource
  split
  · dsimp only
    split
    · exact .refl s
    · split
      · exact .refl s
      all_goals exact s.activateEntry_keeps _
  · exact .refl s

theorem State.firePrime_keeps (i : ScreenNo) (e : Nat) (s : State) : s.Keeps (s.firePrime i e).1 := by
  unfold State.firePrime
  split
  · dsimp only
    split
    · exact .refl s
    · split
      · exact .refl s
      · exact .refl s
      all_goals exact s.primeEntry_keeps _
  · exact .refl s

/-- R158, R159: the action of a cue, by its kind. -/
theorem State.fireAction_keeps (i : ScreenNo) (n : CueNo) (c : CueSpec) (s : State) : s.Keeps (s.fireAction i n c).1 := by
  unfold State.fireAction
  split
  case h_1 => exact s.firePreset_keeps ..
  case h_2 => exact s.modLevel_keeps i (fun l => l.startFade c.fadeTarget c.fadeDuration) (Level.startFade_sound _ _)
  case h_3 => exact s.modLevel_keeps i (fun l => { l with muted := true }) id
  case h_4 => exact s.modLevel_keeps i (fun l => { l with muted := false }) id
  case h_5 => exact s.fireSource_keeps ..
  case h_6 => exact s.firePrime_keeps ..
  case h_7 => exact s.requestBank_keeps ..
  case h_8 => exact s.setPattern_keeps ..
  case h_9 =>
    unfold State.fireCheck
    split
    · exact .refl s
    · next h => exact s.beginCheck_keeps i _ (by simpa using h)
  case h_10 =>
    unfold State.fireStopCheck
    split
    · exact s.endCheck_keeps i
    · exact .refl s
  case h_11 => exact s.raise_keeps ..

theorem State.fireCue_keepsButCues (i : ScreenNo) (n : CueNo) (s : State) : s.KeepsButCues (s.fireCue i n) := by
  have hfault (f : CueFault) (t : State) : t.Keeps (t.raiseCueFault i n f) :=
    .ite (fun _ => .refl t) fun _ => t.raise_keeps ..
  exact ((s.fireAction_keeps i n _).trans (hfault _ _)).butCues.trans (.of_cues rfl)

/-! ## Firing -/

/-- R157: a cue's firing leaves the other cues. -/
theorem State.fireCue_get_other (i : ScreenNo) (n m : CueNo) (s : State) (h : m ≠ n) :
    (s.fireCue i n).cues[m] = s.cues[m] := by
  rw [State.fireCue_cues, adjust_get, if_neg h]

theorem State.fireCue_fired (i : ScreenNo) (n p : CueNo) (s : State) (h : s.cues[p].state = .fired) :
    (s.fireCue i n).cues[p].state = .fired := by
  by_cases hp : p = n
  · rw [hp]
    exact (s.fireCue_same i n).1
  · rw [s.fireCue_get_other i n p hp]
    exact h

theorem State.fireCue_loaded (i : ScreenNo) (n : CueNo) (s : State) (hn : s.cues[n].state ≠ .empty) :
    s.SameLoaded (s.fireCue i n) := by
  intro m
  by_cases hm : m = n
  · subst hm
    exact ⟨s.fireCue_spec i m m, fun h => absurd h hn, fun _ => by rw [(s.fireCue_same i m).1]; nofun⟩
  · rw [s.fireCue_get_other i n m hm]
    exact ⟨rfl, fun _ => rfl, id⟩

/-- R157: the cue that fires is no longer among those about to fire. -/
theorem State.fireCue_armedSound (i : ScreenNo) (n : CueNo) (rest : List CueNo) (s : State)
    (h : ∀ m, s.cueArmedSound (n :: rest) m) (m : CueNo) : (s.fireCue i n).cueArmedSound rest m := by
  unfold State.cueArmedSound
  by_cases hm : m = n
  · obtain ⟨hstate, hcount, -⟩ := s.fireCue_same i n
    rw [hm, hstate]
    exact ⟨nofun, fun _ => hcount⟩
  · obtain ⟨harmed, hidle⟩ := h m
    rw [s.fireCue_get_other i n m hm]
    refine ⟨fun hst => ?_, hidle⟩
    obtain ⟨htrig, hparent, hcount⟩ := harmed hst
    exact ⟨htrig, fun p hp => s.fireCue_fired i n p (hparent p hp), fun hmem => hcount fun hin =>
      (List.mem_cons.mp hin).elim hm hmem⟩

/-- R157: due cues fire one by one: at the end each of them is FIRED, and no cue is left out of the table's invariant. -/
theorem State.fireEach_sound (i : ScreenNo) (due : List CueNo) (s : State) (hl : ∀ n, s.cueLoadedSound n)
    (ha : ∀ n, s.cueArmedSound due n) (hd : ∀ n ∈ due, s.cues[n].state ≠ .empty) :
    (∀ n, (due.foldl (fun s n => s.fireCue i n) s).cueLoadedSound n) ∧
      (∀ n, (due.foldl (fun s n => s.fireCue i n) s).cueArmedSound [] n) ∧
      ∀ p : CueNo, p ∈ due ∨ s.cues[p].state = .fired →
        (due.foldl (fun s n => s.fireCue i n) s).cues[p].state = .fired := by
  induction due generalizing s with
  | nil => exact ⟨hl, ha, fun p hp => hp.resolve_left List.not_mem_nil⟩
  | cons n rest ih =>
    have hsame := s.fireCue_loaded i n (hd n List.mem_cons_self)
    obtain ⟨hl', ha', hf'⟩ := ih (s.fireCue i n) (hsame.sound hl) (s.fireCue_armedSound i n rest ha)
      fun m hm => (hsame m).2.2 (hd m (List.mem_cons_of_mem n hm))
    refine ⟨hl', ha', fun p hp => hf' p ?_⟩
    rcases hp with hp | hp
    · rcases List.mem_cons.mp hp with rfl | hp
      · exact .inr (s.fireCue_same i p).1
      · exact .inl hp
    · exact .inr (s.fireCue_fired i n p hp)

/-- R157, R163: the children of FIRED cues are armed; a child whose parent so leaves FIRED is released. -/
theorem State.armChildren_sound (fired : List CueNo) (s : State) (hl : ∀ n, s.cueLoadedSound n)
    (ha : ∀ n, s.cueArmedSound [] n) (hf : ∀ p ∈ fired, s.cues[p].state = .fired) :
    (s.armChildren fired).cueTableSound := by
  obtain ⟨-, hcues⟩ := State.armChildren_cues s _ fired rfl
  generalize hR : (fun m : CueNo => s.cues[m].spec.trigger = .after ∧
    (s.cues[m].state = .pending ∨ s.cues[m].state = .armed ∨ s.cues[m].state = .fired) ∧
      ∃ p ∈ fired, s.cues[m].spec.parent = p.val) = armed at hcues
  have harmed (m : CueNo) : armed m ↔ s.cues[m].spec.trigger = .after ∧
      (s.cues[m].state = .pending ∨ s.cues[m].state = .armed ∨ s.cues[m].state = .fired) ∧
      ∃ p ∈ fired, s.cues[m].spec.parent = p.val := by rw [← hR]
  generalize hD : (fun m : CueNo => s.cues[m].spec.trigger = .after ∧ (armed m ∨ s.cues[m].state = .armed) ∧
      ∃ p : CueNo, s.cues[m].spec.parent = p.val ∧ armed p ∧ s.cues[p].state = .fired) = released at hcues
  have hreleased (m : CueNo) : released m ↔ s.cues[m].spec.trigger = .after ∧ (armed m ∨ s.cues[m].state = .armed) ∧
      ∃ p : CueNo, s.cues[m].spec.parent = p.val ∧ armed p ∧ s.cues[p].state = .fired := by rw [← hD]
  -- a parent whose child is not released stays FIRED
  have hparent (m p : CueNo) (hm : ¬released m) (htrig : s.cues[m].spec.trigger = .after)
      (hst : armed m ∨ s.cues[m].state = .armed) (hp : s.cues[m].spec.parent = p.val) (hpf : s.cues[p].state = .fired) :
      (s.armChildren fired).cues[p].state = .fired := by
    have hpa : ¬armed p := fun h => hm ((hreleased m).mpr ⟨htrig, hst, p, hp, h, hpf⟩)
    have hpr : ¬released p := fun h => by
      rcases ((hreleased p).mp h).2.1 with h | h
      · exact hpa h
      · exact absurd (hpf.symm.trans h) nofun
    rw [(hcues p).2.2 hpa hpr]
    exact hpf
  have hloaded : s.SameLoaded (s.armChildren fired) := by
    intro m
    refine ⟨State.armChildren_spec fired s m, fun h0 => ?_, fun hne => ?_⟩
    · have hma : ¬armed m := fun h => by
        rw [harmed, h0] at h
        exact absurd h.2.1 (by decide)
      refine (hcues m).2.2 hma fun h => ?_
      rw [hreleased, h0] at h
      exact h.2.1.elim hma nofun
    · by_cases hr : released m
      · rw [(hcues m).1 hr]; nofun
      · by_cases hma : armed m
        · rw [(hcues m).2.1 hma hr]; nofun
        · rw [(hcues m).2.2 hma hr]; exact hne
  rw [State.cueTableSound_iff]
  refine ⟨hloaded.sound hl, fun m => ?_⟩
  unfold State.cueArmedSound
  by_cases hr : released m
  · rw [(hcues m).1 hr]
    exact ⟨nofun, fun _ => rfl⟩
  by_cases hma : armed m
  · rw [(hcues m).2.1 hma hr]
    obtain ⟨htrig, hst, p, hpf, hpp⟩ := (harmed m).mp hma
    have hdelay := (((hl m).2 (by rintro h0; rw [h0] at hst; exact absurd hst (by decide))).2 htrig).1
    refine ⟨fun _ => ⟨htrig, fun q hq => ?_, fun _ => ⟨_, rfl, hdelay, Nat.le_refl _⟩⟩, fun h => absurd rfl h⟩
    obtain rfl : q = p := Fin.ext (hq.symm.trans hpp)
    exact hparent m q hr htrig (.inl hma) hq (hf q hpf)
  · rw [(hcues m).2.2 hma hr]
    obtain ⟨hsound, hidle⟩ := ha m
    refine ⟨fun hst => ?_, hidle⟩
    obtain ⟨htrig, hpar, hcount⟩ := hsound hst
    exact ⟨htrig, fun p hp => hparent m p hr htrig (.inr hst) hp (hpar p hp), hcount⟩

/-- R157: due cues fire and their children are armed. -/
theorem State.fireCues_cueTableSound (i : ScreenNo) (due : List CueNo) (s : State) (hl : ∀ n, s.cueLoadedSound n)
    (ha : ∀ n, s.cueArmedSound due n) (hd : ∀ n ∈ due, s.cues[n].state ≠ .empty) : (s.fireCues i due).cueTableSound := by
  obtain ⟨hl', ha', hf'⟩ := s.fireEach_sound i due hl ha hd
  exact State.armChildren_sound due _ hl' ha' fun p hp => hf' p (.inl hp)

theorem State.fireCues_keepsButCues (i : ScreenNo) (due : List CueNo) (s : State) : s.KeepsButCues (s.fireCues i due) := by
  refine State.KeepsButCues.trans (t := due.foldl (fun s n => s.fireCue i n) s) ?_
    (.of_cues (State.armChildren_cues _ _ due rfl).1)
  induction due generalizing s with
  | nil => exact .refl s
  | cons n rest ih => exact (s.fireCue_keepsButCues i n).trans (ih _)

/-- R163: fewer cues need a countdown when more are about to fire. -/
theorem State.cueArmedSound.weaken {s : State} {n : CueNo} (h : s.cueArmedSound [] n) (due : List CueNo) :
    s.cueArmedSound due n := by
  refine ⟨fun hst => ?_, h.2⟩
  obtain ⟨htrig, hparent, hcount⟩ := h.1 hst
  exact ⟨htrig, hparent, fun _ => hcount List.not_mem_nil⟩

/-- R157: loaded cues that fire on a sound table. -/
theorem State.fireCues_keeps (i : ScreenNo) (due : List CueNo) (s : State) (hd : ∀ n ∈ due, s.cues[n].state ≠ .empty) :
    s.Keeps (s.fireCues i due) := by
  refine (s.fireCues_keepsButCues i due).keeps fun hs => ?_
  obtain ⟨hl, ha⟩ := s.cueTableSound_iff.mp hs
  exact s.fireCues_cueTableSound i due hl (fun n => (ha n).weaken due) hd

/-! ## The judgement of a boundary -/

theorem State.removeMarkers_keeps (i : ScreenNo) (t : ScreenTime) (s : State) : s.Keeps (s.removeMarkers i t) :=
  s.modScreen_keeps i _ { markers := fun h => Nat.le_trans (List.length_filter_le ..) h }

/-- R151: an EMPTY cue has no GO request. -/
theorem State.loaded_of_go {s : State} {n : CueNo} (hs : s.cueLoadedSound n) (h : s.cues[n].go = true) :
    s.cues[n].state ≠ .empty := fun h0 => by
  rw [hs.1 h0] at h
  exact absurd h nofun

/-- R154 to R156: a cue that is due is loaded. -/
theorem State.dueCues_loaded (i : ScreenNo) (t : ScreenTime) (held : Bool) (s : State) (hs : ∀ n, s.cueLoadedSound n)
    (n : CueNo) (h : n ∈ s.dueCues i t held) : s.cues[n].state ≠ .empty := by
  have hdue := (Bool.and_eq_true_iff.mp (List.mem_filter.mp h).2).2
  rcases (Cue.isDue_iff ..).mp hdue with ⟨hst, -⟩ | ⟨-, hst, -⟩ | ⟨hst, -⟩ | hgo
  · rw [hst]; nofun
  · rw [hst]; nofun
  · rw [hst]; nofun
  · exact State.loaded_of_go (hs n) hgo

/-- R154, R156: a cue of the screen as `State.judgeCues` leaves it. -/
theorem State.judgeCues_cases (i : ScreenNo) (t : ScreenTime) (held : Bool) (s : State) (n : CueNo) :
    (s.judgeCues i t held).cues[n] = s.cues[n] ∧ s.cues[n].spec.screen ≠ i.val ∨
      s.cues[n].state = .pending ∧ (s.judgeCues i t held).cues[n] = { s.cues[n] with state := .missed } ∨
      s.cues[n].state ≠ .armed ∧ (s.judgeCues i t held).cues[n] = { s.cues[n] with go := false } ∨
      s.cues[n].spec.screen = i.val ∧ s.cues[n].state = .armed ∧ (s.judgeCues i t held).cues[n].spec = s.cues[n].spec ∧
        (s.judgeCues i t held).cues[n].state = .armed ∧
        ∀ c, s.cues[n].countdown = some c → 1 < c → (s.judgeCues i t held).cues[n].countdown = some (c - 1) := by
  rw [State.judgeCues_get]
  split
  · next hi =>
    split
    · next hm => exact .inr (.inl ⟨((Cue.timeMissed_iff _ t).mp hm.2).1, rfl⟩)
    · by_cases ha : s.cues[n].state = .armed
      · refine .inr (.inr (.inr ⟨hi, ha, rfl, ha, fun c hc h1 => ?_⟩))
        simp only [ha, hc, if_neg (Nat.not_le.mpr h1)]
      · refine .inr (.inr (.inl ⟨ha, ?_⟩))
        split
        · next h _ => exact absurd h ha
        · rfl
  · next hi => exact .inl ⟨rfl, hi⟩

theorem State.judgeCues_sameLoaded (i : ScreenNo) (t : ScreenTime) (held : Bool) (s : State)
    (hs : ∀ n, s.cueLoadedSound n) : s.SameLoaded (s.judgeCues i t held) := by
  intro n
  rcases s.judgeCues_cases i t held n with ⟨heq, -⟩ | ⟨hst, heq⟩ | ⟨-, heq⟩ | ⟨-, ha, hspec, hst, -⟩
  · rw [heq]
    exact ⟨rfl, fun _ => rfl, id⟩
  · rw [heq]
    exact ⟨rfl, fun h0 => absurd (hst.symm.trans h0) nofun, fun _ => nofun⟩
  · rw [heq]
    exact ⟨rfl, fun h0 => by rw [(hs n).1 h0]; rfl, id⟩
  · exact ⟨hspec, fun h0 => absurd (ha.symm.trans h0) nofun, fun _ => by rw [hst]; nofun⟩

/-- R154: a cue judged is FIRED if it was. -/
theorem State.judgeCues_fired (i : ScreenNo) (t : ScreenTime) (held : Bool) (s : State) (p : CueNo)
    (h : s.cues[p].state = .fired) : (s.judgeCues i t held).cues[p].state = .fired := by
  rcases s.judgeCues_cases i t held p with ⟨heq, -⟩ | ⟨hst, -⟩ | ⟨-, heq⟩ | ⟨-, ha, -⟩
  · rw [heq]; exact h
  · exact absurd (h.symm.trans hst) nofun
  · rw [heq]; exact h
  · exact absurd (h.symm.trans ha) nofun

/-- R154: a countdown that does not end at this boundary is lowered by 1 and stays above 0. -/
theorem State.judgeCues_armedSound (i : ScreenNo) (t : ScreenTime) (held : Bool) (s : State) (hs : s.cueTableSound)
    (n : CueNo) : (s.judgeCues i t held).cueArmedSound (s.dueCues i t held) n := by
  have ha := (s.cueTableSound_iff.mp hs).2 n
  have hfired (p : CueNo) (h : s.cues[p].state = .fired) := s.judgeCues_fired i t held p h
  unfold State.cueArmedSound
  rcases s.judgeCues_cases i t held n with ⟨heq, -⟩ | ⟨hst, heq⟩ | ⟨hne, heq⟩ | ⟨hscreen, hst, hspec, hst', hcount'⟩
  · rw [heq]
    refine ⟨fun h => ?_, ha.2⟩
    obtain ⟨htrig, hparent, hcount⟩ := ha.1 h
    exact ⟨htrig, fun p hp => hfired p (hparent p hp), fun _ => hcount List.not_mem_nil⟩
  · rw [heq]
    exact ⟨nofun, fun _ => ha.2 (by rw [hst]; nofun)⟩
  · rw [heq]
    exact ⟨fun h => absurd h hne, fun _ => ha.2 hne⟩
  · obtain ⟨htrig, hparent, hcount⟩ := ha.1 hst
    rw [hspec, hst']
    refine ⟨fun _ => ⟨htrig, fun p hp => hfired p (hparent p hp), fun hnot => ?_⟩, fun h => absurd rfl h⟩
    obtain ⟨c, hc, h1, hd⟩ := hcount List.not_mem_nil
    have hlarge : 1 < c := by
      refine Nat.lt_of_not_le fun hle => hnot ?_
      exact List.mem_filter.mpr ⟨mem_indexes n, Bool.and_eq_true_iff.mpr ⟨decide_eq_true hscreen,
        (Cue.isDue_iff ..).mpr (.inl ⟨hst, c, hc, hle⟩)⟩⟩
    exact ⟨c - 1, hcount' c hc hlarge, by omega, by omega⟩

/-- R154 to R157: the Cue Engine at stage 6. -/
theorem State.cueStage_keeps (i : ScreenNo) (t : ScreenTime) (held : Bool) (s : State) : s.Keeps (s.cueStage i t held) := by
  have hjudge : s.KeepsButCues (s.judgeCues i t held) :=
    (s.removeMarkers_keeps i t).butCues.trans (.of_cues rfl)
  refine (hjudge.trans (State.fireCues_keepsButCues i _ _)).keeps fun hs => ?_
  have hl := (s.cueTableSound_iff.mp hs).1
  have hsame := s.judgeCues_sameLoaded i t held hl
  exact State.fireCues_cueTableSound i _ _ (hsame.sound hl) (s.judgeCues_armedSound i t held hs)
    fun n hn => (hsame n).2.2 (s.dueCues_loaded i t held hl n hn)

/-! ## The rows of R154 and R155 -/

/-- R154: a countdown that reaches 0 outside a boundary. -/
theorem State.expireCountdown_keeps (cue : CueNo) (s : State) (h : s.cues[cue].countdownEnds = true) :
    s.Keeps ((s.modCue cue Cue.lowerCountdown).fireCues s.cues[cue].screenNo [cue]) := by
  obtain ⟨hst, k, hk, hle⟩ := (Cue.countdownEnds_iff _).mp h
  have hlower : s.cues[cue].lowerCountdown = { s.cues[cue] with countdown := none } := by
    simp only [Cue.lowerCountdown, hst, hk, if_pos hle, if_true]
  have hget (n : CueNo) : (s.modCue cue Cue.lowerCountdown).cues[n] =
      if n = cue then { s.cues[cue] with countdown := none } else s.cues[n] := by
    rw [← hlower]
    exact adjust_get _ _ _ _
  have hstate (n : CueNo) : (s.modCue cue Cue.lowerCountdown).cues[n].state = s.cues[n].state ∧
      (s.modCue cue Cue.lowerCountdown).cues[n].spec = s.cues[n].spec := by
    rw [hget]
    split
    · next hn => subst hn; exact ⟨rfl, rfl⟩
    · exact ⟨rfl, rfl⟩
  have hsame : s.SameLoaded (s.modCue cue Cue.lowerCountdown) := fun n => by
    refine ⟨(hstate n).2, fun h0 => ?_, fun hne => (hstate n).1 ▸ hne⟩
    rw [hget, if_neg]
    rintro rfl
    exact absurd (hst.symm.trans h0) nofun
  refine (State.KeepsButCues.trans (.of_cues rfl) (State.fireCues_keepsButCues _ _ _)).keeps fun hs => ?_
  obtain ⟨hl, ha⟩ := s.cueTableSound_iff.mp hs
  refine State.fireCues_cueTableSound _ _ _ (hsame.sound hl) (fun n => ?_) fun n hn => ?_
  · unfold State.cueArmedSound
    simp only [(hstate _).1, (hstate _).2]
    obtain ⟨harmed, hidle⟩ := ha n
    refine ⟨fun hn => ?_, fun hn => ?_⟩
    · obtain ⟨htrig, hparent, hcount⟩ := harmed hn
      refine ⟨htrig, hparent, fun hnot => ?_⟩
      rw [hget, if_neg fun h => hnot (List.mem_singleton.mpr h)]
      exact hcount List.not_mem_nil
    · rw [hget]
      split
      · rfl
      · exact hidle hn
  · rw [List.mem_singleton.mp hn, (hstate cue).1, hst]
    nofun

/-- R154: a PENDING cue becomes MISSED. -/
theorem State.missCue_keeps (cue : CueNo) (s : State) (h : s.cues[cue].state = .pending) :
    s.Keeps (s.modCue cue fun c => { c with state := .missed }) := by
  have hget (n : CueNo) : (s.modCue cue fun c => { c with state := .missed }).cues[n] =
      if n = cue then { s.cues[cue] with state := .missed } else s.cues[n] := adjust_get _ _ _ _
  refine .of_cues rfl fun hs => State.ArmsNone.cueTableSound ⟨fun n => ?_, fun n hn => ?_, fun n hn => ?_⟩ hs
  · rw [hget]
    split
    · next hn =>
      subst hn
      exact ⟨rfl, fun h0 => absurd (h.symm.trans h0) nofun, fun _ => nofun⟩
    · exact ⟨rfl, fun _ => rfl, id⟩
  · rw [hget] at hn ⊢
    split at hn
    · exact absurd hn nofun
    · next hne =>
      rw [if_neg hne]
      refine ⟨hn, rfl, fun p _ hf => ?_⟩
      rw [hget, if_neg]
      · exact hf
      · rintro rfl
        exact absurd (h.symm.trans hf) nofun
  · rw [hget] at hn ⊢
    split at hn
    · next heq =>
      rw [if_pos heq]
      exact (hs cue).2.2.2 (by rw [h]; nofun)
    · next hne =>
      rw [if_neg hne]
      exact (hs n).2.2.2 hn

theorem State.judgeTimed_keeps (cue : CueNo) (s : State) : s.Keeps (s.judgeTimed cue) := by
  refine .ite (fun _ => .refl s) fun _ => .ite (fun hdue => ?_) fun _ => .ite (fun hmiss => ?_) fun _ => .refl s
  · refine s.fireCues_keeps _ _ fun n hn => ?_
    rw [List.mem_singleton.mp hn, ((Cue.timeDue_iff _ _).mp hdue).1]
    nofun
  · exact s.missCue_keeps cue ((Cue.timeMissed_iff _ _).mp hmiss).1

/-- R155: the cues a due marker fires are PENDING. -/
theorem State.fireMarkers_keeps (i : ScreenNo) (t : ScreenTime) (s : State) :
    s.Keeps ((s.removeMarkers i t).fireCues i (s.markerCues i t)) := by
  refine (s.removeMarkers_keeps i t).trans (State.fireCues_keeps i _ _ fun n hn => ?_)
  have hdue := (Bool.and_eq_true_iff.mp (List.mem_filter.mp hn).2).2
  show s.cues[n].state ≠ .empty
  rw [((Cue.markerDue_iff _ _).mp hdue).1]
  nofun

end Sys2Proof.Machine
end

section
/-! PROOFS. What a request, its hand-off, an arriving frame and a sent frame keep (R13, R166, R168, R174). -/

namespace Sys2Proof.Machine

/-! ## One request -/

/-- R167, R170: a request carried out by the rule of its block. -/
theorem perform_keeps (r : Request) (s : State) : s.Keeps (perform r s).state := by
  cases r with
  | rejected result => exact .refl s
  | read table index => exact doRead_keeps ..
  | writeStream index w => exact doWriteStream_keeps ..
  | writePreset index p => exact doWritePreset_keeps ..
  | writeEqbank index list => exact doWriteEqbank_keeps ..
  | writeCue index w => exact doWriteCue_keeps ..
  | writeProfile index p => exact doWriteProfile_keeps ..
  | writeWave index tone => exact doWriteWave_keeps ..
  | writeScreen index r => exact doWriteScreen_keeps ..
  | writeFeed index trim => exact doWriteFeed_keeps ..
  | screenReset screen => exact doScreenReset_keeps ..
  | mute screen => exact doMute_keeps ..
  | unmute screen => exact doUnmute_keeps ..
  | setFader screen fader => exact doSetFader_keeps ..
  | fade screen target duration => exact doFade_keeps ..
  | setPreset screen preset => exact doSetPreset_keeps ..
  | selectBank screen bank => exact doSelectBank_keeps ..
  | prime entry => exact doPrime_keeps ..
  | activate entry => exact doActivate_keeps ..
  | deactivate entry => exact doDeactivate_keeps ..
  | go cue => exact doGo_keeps ..
  | cancel cue => exact doCancel_keeps ..
  | enable cue => exact doEnable_keeps ..
  | ack record => exact doAck_keeps ..
  | pattern screen spec => exact doPattern_keeps ..
  | startCheck screen spec => exact doStartCheck_keeps ..
  | stopCheck screen => exact doStopCheck_keeps ..
  | readStatus screen => exact doReadStatus_keeps ..
  | listAlarms screen => exact doListAlarms_keeps ..
  | readTally subject scope clear => exact doReadTally_keeps ..
  | readMeter screen reset => exact doReadMeter_keeps ..
  | readCheck screen => exact doReadCheck_keeps ..
  | readSense feed => exact doReadSense_keeps ..

/-! ## The handler and the Report Queue -/

/-- What an operation that also takes requests or sends frames keeps, its queues judged by themselves. -/
structure State.KeepsOwn (s t : State) : Prop where
  screens : ∀ i : ScreenNo, s.screens[i].Keeps t.screens[i]
  pool : s.poolSound → t.poolSound
  sources : s.sourcesSound → t.sourcesSound
  cues : s.cueTableSound → t.cueTableSound

theorem State.Keeps.own {s t : State} (h : s.Keeps t) : s.KeepsOwn t :=
  ⟨h.screens, h.tables.pool, h.tables.sources, h.tables.cues⟩

theorem State.KeepsOwn.trans {s t u : State} (h : s.KeepsOwn t) (g : t.KeepsOwn u) : s.KeepsOwn u :=
  ⟨fun i => (h.screens i).trans (g.screens i), g.pool ∘ h.pool, g.sources ∘ h.sources, g.cues ∘ h.cues⟩

/-- An operation that leaves the screens, the entries, the cues and the free list alone. -/
theorem State.KeepsOwn.of_same {s t : State} (screens : t.screens = s.screens := by rfl)
    (entries : t.entries = s.entries := by rfl) (cues : t.cues = s.cues := by rfl)
    (free : t.freeSlots = s.freeSlots := by rfl) : s.KeepsOwn t := by
  have hqueues : s.SameQueues t := ⟨free, fun i => by rw [screens], fun i => by rw [screens], fun i => by rw [screens]⟩
  have hroles : s.SameRoles t := ⟨fun e => by rw [entries], fun e => by rw [entries], fun e => by rw [entries]⟩
  refine ⟨fun i => ?_, hqueues.poolSound, hroles.sourcesSound hqueues, State.cueTableSound_of_same cues⟩
  rw [screens]
  exact .refl _

/-- R174: `State.reportsSound` without its parts about the requests that wait. -/
def State.repliesSound (s : State) : Prop :=
  s.reports.length ≤ 32 ∧ (s.replySlot.isSome → s.reports.length = 32) ∧ (s.sendingSeq.isSome ↔ s.reports ≠ [])

theorem State.OnlyOffers.repliesSound {s t : State} (h : s.OnlyOffers t) (hs : s.repliesSound) : t.repliesSound := by
  obtain ⟨hlen, hslot, hseq⟩ := hs
  have hdepth := h.depth
  rw [Nat.max_eq_left hlen] at hdepth
  refine ⟨hdepth, fun hr => ?_, h.sending hseq⟩
  rw [h.replySlot] at hr
  have := h.reports.length_le
  have := hslot hr
  omega

theorem State.OnlyOffers.reportsSound {s t : State} (h : s.OnlyOffers t) (hs : s.reportsSound) : t.reportsSound := by
  obtain ⟨hlen, hreq, hslot, hwait, hseq⟩ := hs
  obtain ⟨tlen, tslot, tseq⟩ := h.repliesSound ⟨hlen, hslot, hseq⟩
  refine ⟨tlen, h.requests ▸ hreq, tslot, ?_, tseq⟩
  rw [h.requests, h.replySlot]
  exact hwait

/-- R168, R174: a reply offered. -/
theorem State.offerReply_repliesSound (r : Reply) (s : State) (hs : s.repliesSound) : (s.offerReply r).repliesSound := by
  by_cases h : s.reports.length < 32
  · rw [State.offerReply_of_space s r h]
    exact (s.place_onlyOffers _ h).repliesSound hs
  · obtain ⟨hlen, -, hseq⟩ := hs
    rw [State.offerReply_of_full s r h]
    exact ⟨hlen, fun _ => by show s.reports.length = 32; omega, hseq⟩

theorem State.offerReply_own (r : Reply) (s : State) : s.KeepsOwn (s.offerReply r) :=
  .of_same (State.offerReply_screens r s) (State.offerReply_entries r s) (State.offerReply_cues r s)
    (State.offerReply_freeSlots r s)

/-- R166, R168: a request carried out and answered. -/
theorem State.carryOut_own (tag : Byte) (r : Request) (s : State) : s.KeepsOwn (s.carryOut tag r) :=
  (perform_keeps r s).own.trans (State.offerReply_own _ _)

theorem State.carryOut_repliesSound (tag : Byte) (r : Request) (s : State) (hs : s.repliesSound) :
    (s.carryOut tag r).repliesSound :=
  State.offerReply_repliesSound _ _ ((perform_keeps r s).tables.offers.repliesSound hs)

theorem State.carryOut_requests (tag : Byte) (r : Request) (s : State) : (s.carryOut tag r).requests = s.requests :=
  (State.offerReply_requests _ _).trans (perform_keeps r s).tables.offers.requests

/-- R166: a request handed on. -/
theorem State.submit_own (tag : Byte) (r : Request) (s : State) : s.KeepsOwn (s.submit tag r) := by
  unfold State.submit
  split
  · exact s.carryOut_own tag r
  · split <;> exact .of_same

theorem State.submit_reportsSound (tag : Byte) (r : Request) (s : State) (hs : s.reportsSound) :
    (s.submit tag r).reportsSound := by
  obtain ⟨hlen, hreq, hslot, hwait, hseq⟩ := hs
  unfold State.submit
  split
  · next hfree =>
    obtain ⟨hnil, -⟩ := s.handlerFree_iff.mp hfree
    obtain ⟨tlen, tslot, tseq⟩ := s.carryOut_repliesSound tag r ⟨hlen, hslot, hseq⟩
    have hempty : (s.carryOut tag r).requests = [] := (s.carryOut_requests tag r).trans hnil
    exact ⟨tlen, by rw [hempty]; exact Nat.zero_le _, tslot, fun h => absurd hempty h, tseq⟩
  next hbusy =>
  have hsome : s.replySlot.isSome := by
    refine Decidable.byContradiction fun hnone => ?_
    have hreply : s.replySlot = none := by simpa using hnone
    exact hbusy (s.handlerFree_iff.mpr ⟨Classical.byContradiction fun hne => hnone (hwait hne), hreply⟩)
  split
  · next hroom =>
    refine ⟨hlen, ?_, hslot, fun _ => hsome, hseq⟩
    show (s.requests ++ [(tag, r)]).length ≤ 16
    rw [List.length_append, List.length_singleton]
    exact hroom
  · exact ⟨hlen, hreq, hslot, hwait, hseq⟩

/-- R166, R168: requests taken as long as the reply slot is empty. -/
theorem State.takeFrom_own (queue : List (Byte × Request)) (s : State) : s.KeepsOwn (s.takeFrom queue) := by
  induction queue generalizing s with
  | nil => exact .of_same
  | cons r rest ih =>
    unfold State.takeFrom
    split
    · exact (s.carryOut_own r.1 r.2).trans (ih _)
    · exact .of_same

theorem State.takeFrom_reportsSound (queue : List (Byte × Request)) (s : State) (hlen : queue.length ≤ 16)
    (hs : s.repliesSound) : (s.takeFrom queue).reportsSound := by
  induction queue generalizing s with
  | nil =>
    obtain ⟨hdepth, hslot, hseq⟩ := hs
    exact ⟨hdepth, hlen, hslot, fun h => absurd rfl h, hseq⟩
  | cons r rest ih =>
    unfold State.takeFrom
    split
    · exact ih _ (Nat.le_of_succ_le hlen) (s.carryOut_repliesSound r.1 r.2 hs)
    · next h =>
      obtain ⟨hdepth, hslot, hseq⟩ := hs
      exact ⟨hdepth, hlen, hslot, fun _ => by simpa [Option.isSome_iff_ne_none] using h, hseq⟩

/-! ## A frame sent -/

theorem State.enterReply_own (s : State) : s.KeepsOwn s.enterReply := by
  unfold State.enterReply
  split <;> exact .of_same

theorem State.startSending_own (s : State) : s.KeepsOwn s.startSending := by
  unfold State.startSending
  split <;> exact .of_same

theorem State.frameSent_own (s : State) : s.KeepsOwn s.frameSent := by
  unfold State.frameSent
  split
  · exact .of_same
  · exact ((State.KeepsOwn.of_same (s := s)).trans (State.enterReply_own _)).trans
      ((State.startSending_own _).trans (State.takeFrom_own _ _))

/-- R174: the reply that waits enters a queue from which the head has left. -/
theorem State.enterReply_cases (s : State) :
    s.enterReply = { s with reports := s.reports ++ s.replySlot.toList.map .reply, replySlot := none } := by
  obtain ⟨pending, wordClock, screens, entries, freeSlots, portTallies, presets, tone, cues, requests, replySlot,
    reports, upSeq, sendingSeq⟩ := s
  cases replySlot with
  | none => simp [State.enterReply]
  | some r => rfl

theorem State.frameSent_reportsSound (s : State) (hs : s.reportsSound) : s.frameSent.reportsSound := by
  cases hr : s.reports with
  | nil => rw [State.frameSent_of_empty s hr]; exact hs
  | cons f rest =>
    obtain ⟨hlen, hreq, -⟩ := hs
    rw [State.frameSent_of_cons hr, State.enterReply_cases, State.startSending_of_idle _ rfl]
    refine State.takeFrom_reportsSound _ _ hreq ⟨?_, nofun, ?_⟩
    · show (rest ++ s.replySlot.toList.map UpFrame.reply).length ≤ 32
      have hone : s.replySlot.toList.length ≤ 1 := by cases s.replySlot <;> simp
      rw [hr, List.length_cons] at hlen
      rw [List.length_append, List.length_map]
      omega
    · dsimp only
      split
      · next h => exact ⟨nofun, fun hne => absurd h hne⟩
      · next h => exact ⟨fun _ => h, fun _ => rfl⟩

/-- R168, R174: a request carried out over a full Report Queue leaves it full. -/
theorem State.carryOut_of_full (tag : Byte) (q : Request) (s : State) (h : s.reports.length = 32) :
    s.carryOut tag q =
      { (perform q s).state with
        replySlot := some { tag := tag, result := (perform q s).result, record := (perform q s).record } } := by
  refine State.offerReply_of_full _ _ ?_
  have := (perform_keeps q s).tables.offers.reports.length_le
  omega

/-- R174: the state once the head frame has left and a waiting reply has entered. -/
def State.headSent (rest : List UpFrame) (s : State) : State :=
  let reports := rest ++ s.replySlot.toList.map .reply
  { s with
    reports := reports
    replySlot := none
    sendingSeq := if reports = [] then none else some s.upSeq
    upSeq := if reports = [] then s.upSeq else s.upSeq + 1 }

theorem State.headSent_of_none (rest : List UpFrame) (s : State) (h : s.replySlot = none) :
    s.headSent rest =
      { s with
        reports := rest
        sendingSeq := if rest = [] then none else some s.upSeq
        upSeq := if rest = [] then s.upSeq else s.upSeq + 1 } := by
  simp only [State.headSent, h, Option.toList_none, List.map_nil, List.append_nil]

theorem State.headSent_of_some (rest : List UpFrame) (s : State) (r : Reply) (h : s.replySlot = some r) :
    s.headSent rest =
      { s with
        reports := rest ++ [.reply r], replySlot := none, sendingSeq := some s.upSeq, upSeq := s.upSeq + 1 } := by
  simp only [State.headSent, h, Option.toList_some, List.map_cons, List.map_nil, List.append_eq_nil_iff, List.cons_ne_nil,
    and_false, if_false]

/-- R174: UPSTREAM_FRAME_SENT over a queue that is not empty. -/
theorem exec_upstreamFrameSent (s : State) {f : UpFrame} {rest : List UpFrame} (h : s.reports = f :: rest) :
    exec .upstreamFrameSent s = .next (s.headSent rest).takeRequests := by
  show Host.Outcome.next s.frameSent = _
  rw [State.frameSent_of_cons h, State.enterReply_cases, State.startSending_of_idle _ rfl]
  rfl

/-- Settles O16: a sent frame with an idle handler, with a reply waiting, and with a request behind it. -/
theorem sentFrameLeavesAndTheNextEnters : Obligations.SentFrameLeavesAndTheNextEnters := by
  intro s f rest hr
  rw [exec_upstreamFrameSent s hr]
  refine ⟨fun ⟨hreq, hslot⟩ => ?_, fun r hslot hreq => ?_, fun r tag q more hslot hreq hlen => ⟨_, rfl, ?_⟩⟩
  · rw [State.takeRequests_of_empty (s.headSent rest) hreq, State.headSent_of_none rest s hslot]
  · rw [State.takeRequests_of_empty (s.headSent rest) hreq, State.headSent_of_some rest s r hslot]
  · have hfull : (s.headSent rest).reports.length = 32 := by
      rw [State.headSent_of_some rest s r hslot]
      simp only [List.length_append, List.length_singleton, hlen]
    rw [State.takeRequests_of_cons (s.headSent rest) hreq rfl, State.carryOut_of_full tag q _ hfull,
      State.takeFrom_of_waiting _ _ rfl, State.headSent_of_some rest s r hslot]

/-! ## A frame arrives -/

theorem State.arrive_own (bytes : List Byte) (s : State) : s.KeepsOwn (s.arrive bytes) := by
  unfold State.arrive
  split
  · unfold State.classify
    split
    · exact .of_same
    · split
      · unfold State.handManage
        split
        · exact s.submit_own ..
        · exact .of_same
      · exact (s.classifyStream_keeps _).own
  · exact .of_same

theorem State.arrive_reportsSound (bytes : List Byte) (s : State) (hs : s.reportsSound) : (s.arrive bytes).reportsSound := by
  unfold State.arrive
  split
  · unfold State.classify
    split
    · exact hs
    · split
      · unfold State.handManage
        split
        · exact s.submit_reportsSound _ _ hs
        · exact hs
      · exact (s.classifyStream_keeps _).tables.offers.reportsSound hs
  · exact hs

end Sys2Proof.Machine
end

section
/-! PROOFS. What the blocks of a screen keep at a boundary: the noise register, the clock, the feeds, the lanes, the
alarm records and the speaker check (R37 to R40, R61, R84 to R91, R106, R113 to R115, R121, R123, R143, R144). -/

namespace Sys2Proof.Machine

/-! ## The noise register -/

/-- R106: the bit shifted in. -/
theorem noiseStep_first (r : BitVec 23) : (noiseStep r).getLsbD 0 = (r.getLsbD 22 != r.getLsbD 17) := by
  unfold noiseStep
  cases h : (r.getLsbD 22 != r.getLsbD 17) <;> simp

/-- R106: every other bit is the one below it. -/
theorem noiseStep_later (r : BitVec 23) (k : Nat) (hk : k < 22) : (noiseStep r).getLsbD (k + 1) = r.getLsbD k := by
  unfold noiseStep
  rw [BitVec.getLsbD_or, BitVec.getLsbD_shiftLeft]
  have h1 : k + 1 < 23 := by omega
  split <;> simp [h1]

/-- R106: the register never reaches 0: a step to 0 would leave every bit of the register 0. -/
theorem noiseStep_ne_zero (r : BitVec 23) (h : r ≠ 0) : noiseStep r ≠ 0 := by
  intro h0
  refine h (BitVec.eq_of_getLsbD_eq fun k hk => ?_)
  have hlow (j : Nat) (hj : j < 22) : r.getLsbD j = false := by
    rw [← noiseStep_later r j hj, h0]
    exact BitVec.getLsbD_zero
  have htop : r.getLsbD 22 = false := by
    have hfirst := noiseStep_first r
    rw [h0, hlow 17 (by decide)] at hfirst
    simpa using hfirst.symm
  rw [show (0 : BitVec 23).getLsbD k = false from BitVec.getLsbD_zero]
  by_cases hk22 : k = 22
  · rw [hk22, htop]
  · exact hlow k (by omega)

theorem noiseRun_ne_zero (n : Nat) (r : BitVec 23) (h : r ≠ 0) : (noiseRun n r).2 ≠ 0 := by
  induction n generalizing r with
  | zero => exact h
  | succ n ih => exact ih _ (noiseStep_ne_zero r h)

/-! ## The clock -/

theorem Clock.counted_sound {r : ScreenSettings} {c : Clock} (timeout : Nat) (hr : settingsInRange r)
    (h : c.soundUnder r) : (c.counted timeout).soundUnder r := by
  unfold Clock.counted
  split
  · next hl => exact Clock.toHoldover_sound hr hl.1 (Clock.countBlock_sound h)
  · exact Clock.countBlock_sound h

/-- R39, R50, R61, R44: the clock after stage 2. -/
theorem Screen.timed_sound {x : Screen} (h : x.clockSound) : x.timed.soundUnder x.settings :=
  Clock.counted_sound _ h.1 (Clock.advanced_sound h.2)

/-! ## The feeds -/

/-- R85: a bank at rest holds the same number of sections. -/
theorem restBank_length (bank : List EqSection) : (restBank bank).length = bank.length := List.length_map _

/-- R87 to R91: an ordinary or a switch block leaves the inactive bank at rest. -/
theorem Feed.equalise_sound {f : Feed} (requested : Bank) (words : List Int) (h : f.sound) :
    (f.equalise requested words).1.sound := by
  obtain ⟨ha, hb, hra, hrb, htrim, hhold, hone, htwo, heq⟩ := h
  have run (bank : List EqSection) (hl : bank.length ≤ 8) : (runBank bank words).sections.length ≤ 8 := by
    rw [(runBank_length bank words).1]
    exact hl
  have rest (bank : List EqSection) (hl : bank.length ≤ 8) : (restBank bank).length ≤ 8 := by
    rw [restBank_length]
    exact hl
  unfold Feed.equalise
  split
  · unfold Feed.equalisePlain
    cases hact : f.active with
    | a => exact ⟨run _ (by rw [Feed.bank]; exact ha), hb, fun hne => absurd hact hne, hrb, htrim, hhold, hone, htwo,
        satAdd_le _ _⟩
    | b => exact ⟨ha, run _ (by rw [Feed.bank]; exact hb), hra, fun hne => absurd hact hne, htrim, hhold, hone, htwo,
        satAdd_le _ _⟩
  · next hne =>
    unfold Feed.equaliseSwitch
    cases hact : f.active <;> cases requested
    · exact absurd hact.symm hne
    · exact ⟨rest _ ha, run _ (rest _ hb), fun _ => bankAtRest_restBank _, fun h0 => absurd rfl h0, htrim, hhold, hone,
        htwo, satAdd_le _ _⟩
    · exact ⟨run _ (rest _ ha), rest _ hb, fun h0 => absurd rfl h0, fun _ => bankAtRest_restBank _, htrim, hhold, hone,
        htwo, satAdd_le _ _⟩
    · exact absurd hact.symm hne

/-- R104: the peak of a feed's output block. -/
theorem Feed.process_peak_le (f : Feed) (requested : Bank) (gain : Option Int) (words : List Int) :
    peakOf (f.process requested gain words).out ≤ 8388608 :=
  peakOf_le fun v hv => by
    obtain ⟨hlo, hhi⟩ := f.process_out_mem requested gain words v hv
    exact ⟨hlo, by omega⟩

/-- R131, R132: the meter stage raises no hold. -/
theorem Screen.metered_hold_le (x : Screen) (room : Bool) (k : FeedNo) :
    (x.metered room).feeds[k].hold ≤ x.feeds[k].hold := by
  rcases x.metered_cases room with ⟨-, -, h⟩ | ⟨-, -, h⟩ | ⟨-, h⟩
  · have hk : (x.metered room).feeds[k] = { x.feeds[k] with hold := 0 } := by
      rw [h]
      exact tabulate_get _ k
    rw [hk]
    exact Nat.zero_le _
  · exact Nat.le_of_eq (by rw [h])
  · exact Nat.le_of_eq (by rw [h])

/-! ## The lanes -/

/-- R120, R121, R123: a lane after stage 4 and the hand-off of stage 6. -/
def Lane.exchanged (l : Lane) (samples : Vector (List Int) 8) : Lane :=
  (l.send samples).hand (l.send samples).dueCount

theorem Lane.hand_keeps (l : Lane) (due : BitVec 16) :
    (l.hand due).nextCount = l.nextCount ∧ (l.hand due).transmit = l.transmit ∧
      (l.hand due).seqErrors = l.seqErrors ∧
      (l.handed due = .none → (l.hand due).awaiting = l.awaiting ∧ (l.hand due).miss = l.miss) ∧
      (l.handed due ≠ .none → (l.hand due).awaiting = l.awaiting.drop 1) ∧
      (l.miss ≤ 65535 → (l.hand due).miss ≤ 65535) := by
  unfold Lane.hand
  cases l.handed due with
  | none => exact ⟨rfl, rfl, rfl, fun _ => ⟨rfl, rfl⟩, fun h => absurd rfl h, id⟩
  | lost => exact ⟨rfl, rfl, rfl, nofun, fun _ => rfl, fun _ => satAdd_le _ 1⟩
  | received v => exact ⟨rfl, rfl, rfl, nofun, fun _ => rfl, id⟩

/-- R123: two blocks await from the third block on: the oldest of three is handed over. -/
theorem Lane.exchanged_awaiting (l : Lane) (samples : Vector (List Int) 8) (h : l.sound) :
    (l.exchanged samples).awaiting =
      (l.awaiting ++ [({ count := l.nextCount, slot := none } : Awaiting)]).drop (l.awaiting.length - 1) := by
  obtain ⟨-, -, -, hnone, hsome, -⟩ := (l.send samples).hand_keeps (l.send samples).dueCount
  have hlen := h.1
  rw [l.send_handed h samples] at hnone hsome
  unfold Lane.exchanged
  rcases hl : l.awaiting with _ | ⟨a, _ | ⟨b, _ | ⟨c, rest⟩⟩⟩
  · rw [(hnone (by rw [Lane.twoBack, hl])).1]
    simp [Lane.send, hl]
  · rw [(hnone (by rw [Lane.twoBack, hl])).1]
    simp [Lane.send, hl]
  · rw [hsome (by rw [Lane.twoBack, hl]; dsimp only; split <;> nofun)]
    simp [Lane.send, hl]
  · rw [hl] at hlen
    simp at hlen

theorem Lane.exchanged_sound (l : Lane) (samples : Vector (List Int) 8) (h : l.sound)
    (hs : ∀ j : Fin 8, ∀ v ∈ samples[j], inSampleRange v) : (l.exchanged samples).sound := by
  have hwait := l.exchanged_awaiting samples h
  obtain ⟨hnext, htransmit, hseq, -, -, hmiss⟩ := (l.send samples).hand_keeps (l.send samples).dueCount
  obtain ⟨hlen, hcounts, -, hsamples, hm, hsq⟩ := h
  have hnext' : (l.exchanged samples).nextCount = l.nextCount + 1 := hnext
  have htransmit' : (l.exchanged samples).transmit =
      queueRecord l.transmit { count := l.nextCount, samples := samples } := htransmit
  refine ⟨?_, ?_, ?_, fun r hr j v hv => ?_, hmiss hm, by rw [Lane.exchanged, hseq]; exact hsq⟩
  · rw [hwait, List.length_drop, List.length_append, List.length_singleton]
    omega
  · rw [hwait, hnext']
    rcases hl : l.awaiting with _ | ⟨a, _ | ⟨b, _ | ⟨c, rest⟩⟩⟩
    · exact congrArg (fun n => [n]) (BitVec.add_sub_cancel l.nextCount 1#16).symm
    · rw [hl] at hcounts
      have ha : a.count = l.nextCount - 1 := by simpa using hcounts
      simp only [List.length_cons, List.length_nil, Nat.sub_self, List.drop_zero, List.cons_append, List.nil_append,
        List.map_cons, List.map_nil, ha, List.range_succ, List.range_zero, List.cons.injEq, and_true]
      constructor <;> bv_omega
    · rw [hl] at hcounts
      have hb : b.count = l.nextCount - 1 := by
        have := congrArg List.getLast? hcounts
        simpa [List.range_succ] using this
      simp only [List.length_cons, List.length_nil, List.cons_append, List.nil_append, List.drop_succ_cons, List.drop_zero,
        List.map_cons, List.map_nil, hb, List.range_succ, List.range_zero, List.cons.injEq, and_true]
      constructor <;> bv_omega
    · rw [hl] at hlen
      simp at hlen
  · rw [htransmit']
    exact queueRecord_length _ _
  · rw [htransmit'] at hr
    rcases mem_queueRecord _ _ _ hr with rfl | hmem
    · exact hs j v hv
    · exact hsamples r hmem j v hv

/-! ## The alarm records -/

theorem AlarmRecord.retire_sound {r : AlarmRecord} (h : r.sound) : r.retire.sound := by
  obtain ⟨-, -, -, -, -, -, hocc⟩ := h
  exact ⟨⟨nofun, nofun⟩, ⟨nofun, fun hne => absurd rfl hne⟩, nofun, fun _ => rfl, Nat.zero_le _,
    Nat.zero_le _, hocc⟩

/-- R79: the records that leave use with a new latch are at rest. -/
theorem Screen.latch_recordsSound (x : Screen) (new : Option LatchedPreset) (h : x.recordsSound) :
    (x.latch new).recordsSound := by
  intro k
  have hget : (x.latch new).records[k] = if leavesUse x.render.latched new k then x.records[k].retire else x.records[k] :=
    tabulate_get _ k
  obtain ⟨hsound, hrest⟩ := h k
  rw [hget]
  split
  · exact ⟨AlarmRecord.retire_sound hsound, fun _ => ⟨rfl, rfl, rfl⟩⟩
  · next hstay =>
    refine ⟨hsound, fun hout => hrest ?_⟩
    have hnew : recordInUse new k = false := hout
    simpa [leavesUse, hnew] using hstay

/-- R144: NORMAL to WARNING. -/
theorem AlarmRecord.warn_sound {r : AlarmRecord} (t : ScreenTime) (h : r.sound) (hn : r.state = .normal) : (r.warn t).sound := by
  obtain ⟨hrec, -, -, hack, -, -, -⟩ := h
  refine ⟨?_, ⟨fun _ => nofun, fun _ => rfl⟩, nofun, fun _ => hack (.inl hn), Nat.zero_le _, Nat.zero_le _, Nat.min_le_right _ _⟩
  rw [hn] at hrec
  exact ⟨fun h0 => absurd (hrec.mp h0) nofun, nofun⟩

/-- R144: WARNING to ACTION. -/
theorem AlarmRecord.act_sound {r : AlarmRecord} (p : Profile) (h : r.sound) (hw : r.state = .warning) : (r.act p).sound := by
  obtain ⟨-, hraised, -, -, -, -, hocc⟩ := h
  rw [hw] at hraised
  exact ⟨⟨fun _ => rfl, fun _ => rfl⟩, ⟨fun _ => nofun, fun _ => hraised.mpr nofun⟩, nofun,
    fun h0 => h0.elim nofun nofun, Nat.zero_le _, Nat.zero_le _, hocc⟩

/-- R143: counts moved within their range. -/
theorem AlarmRecord.counts_sound {r : AlarmRecord} {run clear : Nat} (h : r.sound) (hr : run ≤ 65535) (hc : clear ≤ 65535) :
    AlarmRecord.sound { r with run := run, clear := clear } := by
  obtain ⟨hrec, hraised, hacked, hack, -, -, hocc⟩ := h
  exact ⟨hrec, hraised, hacked, hack, hr, hc, hocc⟩

theorem AlarmRecord.clearing_sound {r : AlarmRecord} (p : Profile) (h : r.sound) : (r.clearing p).1.sound := by
  unfold AlarmRecord.clearing
  split
  · exact AlarmRecord.retire_sound h
  · exact AlarmRecord.counts_sound h h.2.2.2.2.1 (satAdd_le _ 1)

/-- R143, R144: a record after one judgement. -/
theorem AlarmRecord.evaluate_sound {r : AlarmRecord} (p : Profile) (t : ScreenTime) (j : Judgement) (h : r.sound) :
    (r.evaluate p t j).1.sound := by
  have hrun := h.2.2.2.2.1
  have hclear := h.2.2.2.2.2.1
  unfold AlarmRecord.evaluate
  split
  · exact h
  · next hst =>
    split
    · exact AlarmRecord.warn_sound t h hst
    · exact AlarmRecord.counts_sound h (satAdd_le _ 1) hclear
  · exact AlarmRecord.counts_sound h (Nat.zero_le _) hclear
  · next hst =>
    split
    · exact AlarmRecord.act_sound p h hst
    · exact AlarmRecord.counts_sound h (satAdd_le _ 1) (Nat.zero_le _)
  · exact AlarmRecord.clearing_sound p (AlarmRecord.counts_sound h (Nat.zero_le _) hclear)
  · exact AlarmRecord.counts_sound h hrun (Nat.zero_le _)
  · exact AlarmRecord.clearing_sound p h
  · exact AlarmRecord.counts_sound h hrun (Nat.zero_le _)
  · exact AlarmRecord.clearing_sound p h

/-! ## The speaker check -/

/-- R36, R106, R113: `Signal.soundUnder` between the count of stage 1 and the judgement of stage 6: the count may be
that of the closing block. -/
def Signal.countedUnder (mode : ScreenMode) (g : Signal) : Prop :=
  g.noise ≠ 0 ∧ (mode = .check ↔ g.check.running = true) ∧ (g.check.running = false → g.check.count = none) ∧
    (g.check.running = true →
      g.check.feeds ≠ [] ∧ ∀ n, g.check.count = some n → n ≤ g.check.closingCount)

/-- R113: the count of stage 1. -/
theorem Signal.countCheck_counted {g : Signal} {mode : ScreenMode} (h : g.soundUnder mode) :
    g.countCheck.countedUnder mode := by
  obtain ⟨hnoise, hmode, hidle, hrun⟩ := h
  obtain ⟨hsame, hcount⟩ := g.countCheck_spec _ rfl
  cases hr : g.check.running with
  | false =>
    rw [hsame hr]
    exact ⟨hnoise, hmode, hidle, fun h0 => absurd (hr.symm.trans h0) nofun⟩
  | true =>
    obtain ⟨results, heq, -⟩ := hcount hr
    rw [heq]
    obtain ⟨hfeeds, hlt⟩ := hrun hr
    refine ⟨hnoise, hmode, fun h0 => absurd (hr.symm.trans h0) nofun, fun _ => ⟨hfeeds, fun n hn => ?_⟩⟩
    obtain rfl := Option.some.inj hn
    show _ ≤ g.check.closingCount
    cases hc : g.check.count with
    | none => exact Nat.zero_le _
    | some m => exact hlt m hc

/-- R106, R107: the generators advance by a block. -/
theorem Signal.advance_counted {g : Signal} {mode : ScreenMode} (h : g.countedUnder mode) : g.advance.countedUnder mode :=
  ⟨noiseRun_ne_zero _ _ h.1, h.2⟩

/-- R114, R115: the judgement of stage 6 touches the results alone. -/
theorem Signal.judgeCheck_eq (g : Signal) (n : Nat) (handed : Vector Handed 2) :
    g.judgeCheck n handed = { g with results := (g.judgeCheck n handed).results } := by
  obtain ⟨counted, hj, -⟩ := g.judgeReturn_results n handed
  obtain ⟨results, hd, -⟩ := (g.judgeReturn n handed).decideAt_results n
  unfold Signal.judgeCheck
  rw [hd, hj]

theorem State.modSignal_screen (i : ScreenNo) (f : Signal → Signal) (s : State) :
    (s.modSignal i f).screens[i] = { s.screens[i] with signal := f s.screens[i].signal } := State.modScreen_same ..

/-- R115: a completed check leaves it IDLE and the screen in SHOW. -/
theorem State.completeCheck_screen (i : ScreenNo) (s : State) :
    (s.completeCheck i).screens[i].signal = { s.screens[i].signal with check := s.screens[i].signal.check.idle } ∧
      (s.completeCheck i).screens[i].playout.mode = .show := by
  unfold State.completeCheck State.raiseCheckDone State.raise
  rw [State.offerNotice_screen_signal, State.offerNotice_screen_playout, State.modScreen_same, State.modSignal_screen]
  exact ⟨rfl, rfl⟩

/-- R114, R115, R117: after stage 6 the count is below the closing block's, or the check is over. -/
theorem State.checkStage_signalSound (i : ScreenNo) (handed : Vector Handed 2) (s : State)
    (h : s.screens[i].signal.countedUnder s.screens[i].playout.mode) : (s.checkStage i handed).screens[i].signalSound := by
  obtain ⟨hnoise, hmode, hidle, hrun⟩ := h
  unfold State.checkStage
  dsimp only
  split
  · next n hr hc =>
    obtain ⟨hfeeds, hle⟩ := hrun hr
    split
    · obtain ⟨hsig, hshow⟩ := (s.modSignal i fun g => g.judgeCheck n handed).completeCheck_screen i
      rw [Screen.signalSound_iff, hsig, hshow, State.modSignal_screen]
      dsimp only
      rw [Signal.judgeCheck_eq]
      exact Signal.soundUnder_idle hnoise rfl rfl
    · next hne =>
      rw [Screen.signalSound_iff, State.modSignal_screen]
      dsimp only
      rw [Signal.judgeCheck_eq]
      refine ⟨hnoise, hmode, hidle, fun _ => ⟨hfeeds, fun m hm => ?_⟩⟩
      obtain rfl := Option.some.inj (hc.symm.trans hm)
      exact Nat.lt_of_le_of_ne (hle n hc) hne
  · next hno =>
    refine ⟨hnoise, hmode, hidle, fun hr => ⟨(hrun hr).1, fun n hn => absurd hn (hno n hr)⟩⟩

end Sys2Proof.Machine
end

section
/-! PROOFS. A boundary of one screen stays within that screen (00_scope, R37), and what its stages keep of the shared
tables. -/

namespace Sys2Proof.Machine

/-! ## Operations within one screen -/

/-- What a boundary leaves of the state outside the fields its stages write. -/
def State.boundaryFrame (s t : State) : Prop :=
  t = { s with
    screens := t.screens, entries := t.entries, cues := t.cues, freeSlots := t.freeSlots, reports := t.reports
    sendingSeq := t.sendingSeq, upSeq := t.upSeq }

theorem State.boundaryFrame.trans {s t u : State} (h : s.boundaryFrame t) (g : t.boundaryFrame u) : s.boundaryFrame u := by
  unfold State.boundaryFrame at *
  rw [g, h]

/-- An operation for screen i leaves the other screens and their stream entries as they were. -/
structure State.Within (i : ScreenNo) (s t : State) : Prop where
  others : ∀ j : ScreenNo, j ≠ i → t.screens[j] = s.screens[j]
  owner : ∀ e : EntryNo, t.entries[e].screen = s.entries[e].screen
  entries : ∀ e : EntryNo, s.entries[e].screen ≠ i → t.entries[e] = s.entries[e]
  frame : s.boundaryFrame t

section
variable {i : ScreenNo}

theorem State.Within.refl (s : State) : s.Within i s := ⟨fun _ _ => rfl, fun _ => rfl, fun _ _ => rfl, rfl⟩

theorem State.Within.trans {s t u : State} (h : s.Within i t) (g : t.Within i u) : s.Within i u where
  others j hj := (g.others j hj).trans (h.others j hj)
  owner e := (g.owner e).trans (h.owner e)
  entries e he := (g.entries e (by rw [h.owner]; exact he)).trans (h.entries e he)
  frame := h.frame.trans g.frame

theorem State.Within.ite {s t u : State} {p : Prop} [Decidable p] (ht : s.Within i t) (hu : s.Within i u) :
    s.Within i (if p then t else u) := by
  split
  · exact ht
  · exact hu

/-- An operation that writes neither the screens nor the entries. -/
theorem State.Within.of_frame {s t : State} (frame : s.boundaryFrame t) (screens : t.screens = s.screens := by rfl)
    (entries : t.entries = s.entries := by rfl) : s.Within i t :=
  ⟨fun j _ => by rw [screens], fun e => by rw [entries], fun e _ => by rw [entries], frame⟩

theorem State.modScreen_within (f : Screen → Screen) (s : State) : s.Within i (s.modScreen i f) :=
  ⟨fun j hj => s.modScreen_other i j f hj, fun _ => rfl, fun _ _ => rfl, rfl⟩

theorem State.modEntry_within (e : EntryNo) (f : StreamEntry → StreamEntry) (s : State) (he : s.entries[e].screen = i)
    (hf : (f s.entries[e]).screen = s.entries[e].screen := by rfl) : s.Within i (s.modEntry e f) where
  others _ _ := rfl
  owner o := by
    by_cases h : o = e
    · rw [h, State.modEntry_same, hf]
    · rw [State.modEntry_other _ _ _ _ h]
  entries o ho := State.modEntry_other _ _ _ _ fun h => ho (h ▸ he)
  frame := rfl

theorem State.place_within (f : UpFrame) (s : State) : s.Within i (s.place f) :=
  .of_frame (by unfold State.boundaryFrame; rw [State.place_eq]) (s.place_screens f) (s.place_entries f)

theorem State.offerNotice_within (n : Notice) (s : State) (h : n.screen = i) : s.Within i (s.offerNotice n) := by
  subst h
  rcases s.offerNotice_cases n with h | h
  · rw [h]; exact s.place_within _
  · rw [h]; exact s.modScreen_within _

theorem State.raise_within (kind : NoticeKind) (a b c : Nat) (d : Int) (s : State) : s.Within i (s.raise kind i a b c d) :=
  s.offerNotice_within _ rfl

theorem State.bumpEntry?_within (e : Option EntryNo) (t : EntryTally) (n : Nat) (s : State)
    (he : ∀ o, e = some o → s.entries[o].screen = i) : s.Within i (s.bumpEntry? e t n) := by
  cases e with
  | none => exact .refl s
  | some e => exact s.modEntry_within e _ (he e rfl)

theorem State.foldl_within {α : Type} (f : State → α → State) (h : ∀ (s : State) a, s.Within i (f s a)) (l : List α)
    (s : State) : s.Within i (l.foldl f s) := by
  induction l generalizing s with
  | nil => exact .refl s
  | cons a l ih => exact (h s a).trans (ih _)

/-! ## Source changes -/

theorem State.release_within (n : Nat) (s : State) : s.Within i (s.release n) := .of_frame rfl

theorem State.freeProgram_within (s : State) : s.Within i (s.freeProgram i) :=
  (s.release_within _).trans (State.modScreen_within _ _)

theorem State.freeStandby_within (s : State) : s.Within i (s.freeStandby i) :=
  (s.release_within _).trans (State.modScreen_within _ _)

theorem State.retireActive_within (s : State) : s.Within i (s.retireActive i) := by
  unfold State.retireActive
  split
  · next h => exact s.modEntry_within _ _ (State.activeEntry_some h).2
  · exact .refl s

theorem State.displacePrimed_within (s : State) : s.Within i (s.displacePrimed i) := by
  unfold State.displacePrimed
  split
  · next h => exact (s.modEntry_within _ _ (State.primedEntry_some h).2).trans (State.freeStandby_within _)
  · exact .refl s

theorem State.primeEntry_within (e : EntryNo) (s : State) (he : s.entries[e].screen = i) : s.Within i (s.primeEntry e).1 := by
  unfold State.primeEntry
  split
  · have h1 := s.displacePrimed_within (i := i)
    have h2 := State.modEntry_within e (fun x => { x with state := .primed }) (s.displacePrimed i)
      ((h1.owner e).trans he)
    unfold State.primeInactive
    rw [he]
    exact (h1.trans h2).trans (State.modEntry_within e _ _ (((h1.trans h2).owner e).trans he))
  all_goals exact .refl s

theorem State.activateEntry_within (e : EntryNo) (s : State) (he : s.entries[e].screen = i) :
    s.Within i (s.activateEntry e).1 := by
  unfold State.activateEntry
  split
  · have h1 : s.Within i ((s.freeProgram i).swapQueues i) := (s.freeProgram_within).trans (State.modScreen_within _ _)
    have h2 := h1.trans (State.retireActive_within _)
    unfold State.activatePrimed
    rw [he]
    exact h2.trans (State.modEntry_within e _ _ ((h2.owner e).trans he))
  · have h1 := (s.freeProgram_within (i := i)).trans (State.retireActive_within _)
    have h2 := h1.trans (State.modEntry_within e (fun x => { x with state := .active }) _ ((h1.owner e).trans he))
    unfold State.activateInactive
    rw [he]
    exact h2.trans (State.modEntry_within e _ _ ((h2.owner e).trans he))
  all_goals exact .refl s

/-! ## The cue stage -/

theorem State.beginCheck_within (spec : CheckSpec) (s : State) : s.Within i (s.beginCheck i spec) := by
  unfold State.beginCheck
  dsimp only
  split
  · exact (s.modScreen_within _).trans (State.raise_within ..)
  · exact (s.modScreen_within _).trans (State.modScreen_within _ _)

theorem State.endCheck_within (s : State) : s.Within i (s.endCheck i) :=
  ((s.modScreen_within _).trans (State.modScreen_within _ _)).trans (State.raise_within ..)

/-- R158, R159: an action of the Cue Engine. -/
theorem State.fireAction_within (n : CueNo) (c : CueSpec) (s : State) : s.Within i (s.fireAction i n c).1 := by
  unfold State.fireAction
  split
  case h_1 =>
    unfold State.firePreset
    split
    · split
      · exact s.modScreen_within _
      · exact .refl s
    · exact .refl s
  case h_5 =>
    unfold State.fireSource
    split
    · dsimp only
      split
      · exact .refl s
      · next he =>
        split
        · exact .refl s
        all_goals exact s.activateEntry_within _ (Decidable.not_not.mp he)
    · exact .refl s
  case h_6 =>
    unfold State.firePrime
    split
    · dsimp only
      split
      · exact .refl s
      · next he =>
        split
        · exact .refl s
        · exact .refl s
        all_goals exact s.primeEntry_within _ (Decidable.not_not.mp he)
    · exact .refl s
  case h_9 =>
    unfold State.fireCheck
    split
    · exact .refl s
    · exact s.beginCheck_within _
  case h_10 =>
    unfold State.fireStopCheck
    split
    · exact s.endCheck_within
    · exact .refl s
  case h_11 => exact s.raise_within ..
  all_goals exact s.modScreen_within _

theorem State.fireCue_within (n : CueNo) (s : State) : s.Within i (s.fireCue i n) := by
  have hfault (f : CueFault) (t : State) : t.Within i (t.raiseCueFault i n f) := .ite (.refl t) (t.raise_within ..)
  exact ((s.fireAction_within n _).trans (hfault _ _)).trans (.of_frame rfl)

theorem State.cueStage_within (t : ScreenTime) (held : Bool) (s : State) : s.Within i (s.cueStage i t held) := by
  have hjudge : s.Within i (s.judgeCues i t held) := (s.modScreen_within _).trans (.of_frame rfl)
  refine (hjudge.trans (State.foldl_within _ (fun s n => s.fireCue_within n) (s.dueCues i t held) _)).trans
    (State.Within.of_frame (t := s.cueStage i t held) ?_ (State.armChildren_screens _ _) ?_)
  all_goals unfold State.cueStage State.fireCues; rw [(State.armChildren_cues _ _ _ rfl).1]
  rfl

end

/-! ## The cues of other screens -/

/-- An operation for screen i keeps every written field of a cue, and the cues of other screens. -/
def State.CuesWithin (i : ScreenNo) (s t : State) : Prop :=
  (∀ n : CueNo, t.cues[n].spec = s.cues[n].spec) ∧
    ∀ n : CueNo, s.cues[n].spec.screen ≠ i.val → t.cues[n] = s.cues[n]

theorem State.CuesWithin.of_same {i : ScreenNo} {s t : State} (h : t.cues = s.cues) : s.CuesWithin i t :=
  ⟨fun n => by rw [h], fun n _ => by rw [h]⟩

theorem State.CuesWithin.trans {i : ScreenNo} {s t u : State} (h : s.CuesWithin i t) (g : t.CuesWithin i u) :
    s.CuesWithin i u :=
  ⟨fun n => (g.1 n).trans (h.1 n), fun n hn => (g.2 n (by rw [h.1]; exact hn)).trans (h.2 n hn)⟩

/-- R161, R163: a rearm releases children of its own screen alone. -/
theorem State.rearmCues_within (i : ScreenNo) (t : ScreenTime) (s : State) (hs : s.cueTableSound) :
    s.CuesWithin i (s.rearmCues i t) := by
  refine ⟨s.rearmCues_spec i t, fun n hn => ?_⟩
  have hkeep : (s.mapCues fun _ c => if c.rearmedBy i t then c.toPending else c).cues[n] = s.cues[n] := by
    rw [State.rearmed_get, if_neg fun h => hn ((Cue.rearmedBy_iff _ i t).mp h).1]
  unfold State.rearmCues
  dsimp only
  rw [State.releaseChildren_get, hkeep, if_neg]
  intro hr
  obtain ⟨harmed, htrig, p, hp, hleft⟩ := (Cue.releasedBy_iff _ _).mp hr
  have hscreen := (hs.loaded_parent (by rw [harmed]; nofun) htrig hp).2
  have hpi := ((Cue.rearmedBy_iff _ i t).mp (Bool.and_eq_true_iff.mp hleft).1).1
  exact hn (hscreen.symm.trans hpi)

/-- R152: a loaded AFTER cue stands on its parent's screen. -/
theorem State.cueLoadedSound.parent_screen {s : State} {m p : CueNo} (h : s.cueLoadedSound m) (hm : s.cues[m].state ≠ .empty)
    (htrig : s.cues[m].spec.trigger = .after) (hp : s.cues[m].spec.parent = p.val) :
    s.cues[p].spec.screen = s.cues[m].spec.screen := by
  obtain ⟨-, q, hq, -, -, hscreen⟩ := (h.2 hm).2 htrig
  obtain rfl : p = q := Fin.ext (hp.symm.trans hq)
  exact hscreen

/-- R157: a cue armed by cues of screen i is a cue of screen i. -/
theorem State.armedBy_screen {i : ScreenNo} {s : State} {fired : List CueNo} (hl : ∀ n, s.cueLoadedSound n)
    (hf : ∀ p ∈ fired, s.cues[p].spec.screen = i.val) (m : CueNo) (h : s.cues[m].armedBy fired = true) :
    s.cues[m].spec.screen = i.val := by
  obtain ⟨htrig, hst, p, hmem, hp⟩ := (Cue.armedBy_iff _ _).mp h
  have hm : s.cues[m].state ≠ .empty := by
    intro h0
    rw [h0] at hst
    exact hst.elim nofun fun h => h.elim nofun nofun
  exact ((hl m).parent_screen hm htrig hp).symm.trans (hf p hmem)

/-- R152, R157: arming arms and releases cues of the fired cues' own screen alone. -/
theorem State.armChildren_within {i : ScreenNo} {s : State} {fired : List CueNo} (hl : ∀ n, s.cueLoadedSound n)
    (hf : ∀ p ∈ fired, s.cues[p].spec.screen = i.val) (n : CueNo) (hn : s.cues[n].spec.screen ≠ i.val) :
    (s.armChildren fired).cues[n] = s.cues[n] := by
  unfold State.armChildren
  dsimp only
  rw [State.releaseChildren_get, State.mapCues_get, if_neg fun h => hn (State.armedBy_screen hl hf n h), if_neg]
  intro hr
  obtain ⟨hst, htrig, p, hp, hleft⟩ := (Cue.releasedBy_iff _ _).mp hr
  have hpi := State.armedBy_screen hl hf p (Bool.and_eq_true_iff.mp hleft).1
  exact hn (((hl n).parent_screen (by rw [hst]; nofun) htrig hp).symm.trans hpi)

/-- R157: cues that fire one by one leave the others. -/
theorem State.fireEach_get_other (i : ScreenNo) (due : List CueNo) (s : State) (n : CueNo) (h : n ∉ due) :
    (due.foldl (fun s n => s.fireCue i n) s).cues[n] = s.cues[n] := by
  induction due generalizing s with
  | nil => rfl
  | cons m rest ih =>
    rw [List.mem_cons, not_or] at h
    rw [List.foldl_cons, ih _ h.2, s.fireCue_get_other i m n h.1]

/-- R157: cues of screen i that fire. -/
theorem State.fireCues_within (i : ScreenNo) (due : List CueNo) (s : State) (hl : ∀ n, s.cueLoadedSound n)
    (ha : ∀ n, s.cueArmedSound due n) (hd : ∀ n ∈ due, s.cues[n].state ≠ .empty)
    (hi : ∀ n ∈ due, s.cues[n].spec.screen = i.val) : s.CuesWithin i (s.fireCues i due) := by
  have hspec (m : CueNo) : (due.foldl (fun s n => s.fireCue i n) s).cues[m].spec = s.cues[m].spec :=
    (State.armChildren_spec due _ m).symm.trans (s.fireCues_spec i due m)
  obtain ⟨hloaded, -, -⟩ := s.fireEach_sound i due hl ha hd
  refine ⟨s.fireCues_spec i due, fun n hn => ?_⟩
  refine (State.armChildren_within hloaded (fun p hp => by rw [hspec]; exact hi p hp) n (by rw [hspec]; exact hn)).trans ?_
  exact s.fireEach_get_other i due n fun h => hn (hi n h)

theorem State.cueStage_cuesWithin (i : ScreenNo) (t : ScreenTime) (held : Bool) (s : State) (hs : s.cueTableSound) :
    s.CuesWithin i (s.cueStage i t held) := by
  have hl := (s.cueTableSound_iff.mp hs).1
  have hsame := s.judgeCues_sameLoaded i t held hl
  have hjudge : s.CuesWithin i (s.judgeCues i t held) :=
    ⟨fun n => (hsame n).1, fun n hn => by rw [State.judgeCues_get, if_neg hn]⟩
  refine hjudge.trans (State.fireCues_within i _ _ (hsame.sound hl) (s.judgeCues_armedSound i t held hs)
    (fun n hn => (hsame n).2.2 (s.dueCues_loaded i t held hl n hn)) fun n hn => ?_)
  rw [(hsame n).1]
  exact of_decide_eq_true (Bool.and_eq_true_iff.mp (List.mem_filter.mp hn).2).1

/-! ## The stages before the cues -/

/-- What each stage of a boundary of screen i does to the state. -/
structure State.Stage (i : ScreenNo) (s t : State) : Prop where
  within : s.Within i t
  tables : s.KeepsTables t
  cues : s.cueTableSound → s.CuesWithin i t

theorem State.Stage.refl {i : ScreenNo} (s : State) : s.Stage i s := ⟨.refl s, .refl s, fun _ => .of_same rfl⟩

theorem State.Stage.trans {i : ScreenNo} {s t u : State} (h : s.Stage i t) (g : t.Stage i u) : s.Stage i u :=
  ⟨h.within.trans g.within, h.tables.trans g.tables, fun hs => (h.cues hs).trans (g.cues (h.tables.cues hs))⟩

theorem State.Stage.ite {i : ScreenNo} {s t u : State} {p : Prop} [Decidable p] (ht : s.Stage i t) (hu : s.Stage i u) :
    s.Stage i (if p then t else u) := by
  split
  · exact ht
  · exact hu

/-- A change of a screen that leaves its queues and its settings. -/
def Screen.LeavesQueues (f : Screen → Screen) : Prop :=
  ∀ x : Screen, (f x).playout.program = x.playout.program ∧ (f x).playout.standby = x.playout.standby ∧
    (f x).settings = x.settings

theorem State.modScreen_stage (i : ScreenNo) (f : Screen → Screen) (s : State)
    (h : Screen.LeavesQueues f := by exact fun _ => ⟨rfl, rfl, rfl⟩) : s.Stage i (s.modScreen i f) := by
  obtain ⟨hprogram, hstandby, hsettings⟩ := h s.screens[i]
  exact ⟨s.modScreen_within f, .of_same (s.modScreen_sameQueues i f hprogram hstandby (by rw [hsettings])),
    fun _ => .of_same rfl⟩

/-- A stage followed by a change of the screen. -/
theorem State.Stage.modScreen {i : ScreenNo} {s t : State} (h : s.Stage i t) (f : Screen → Screen)
    (hf : Screen.LeavesQueues f := by exact fun _ => ⟨rfl, rfl, rfl⟩) : s.Stage i (t.modScreen i f) :=
  h.trans (t.modScreen_stage i f hf)

theorem State.raise_stage (i : ScreenNo) (kind : NoticeKind) (a b c : Nat) (d : Int) (s : State) :
    s.Stage i (s.raise kind i a b c d) :=
  ⟨s.raise_within .., (s.raise_keeps ..).tables, fun _ => .of_same (State.offerNotice_cues _ _)⟩

theorem State.stepClock_stage (i : ScreenNo) (d : Int) (s : State) : s.Stage i (s.stepClock i d) := by
  refine ⟨?_, (s.stepClock_keeps i d).tables, fun hs => ?_⟩
  · unfold State.stepClock
    refine .ite (.refl s) ?_
    have h : s.Within i ((s.modClock i fun c => { c with base := c.base + BitVec.ofInt 32 d }).bumpScreen i .step) :=
      (s.modScreen_within _).trans (State.modScreen_within _ _)
    refine State.Within.ite (h.trans (.of_frame ?_ ?_ ?_)) h
    all_goals rw [State.rearmCues_eq]
    rfl
  · unfold State.stepClock
    split
    · exact .of_same rfl
    · dsimp only
      split
      · exact State.rearmCues_within i _ ((s.modClock i _).bumpScreen i .step) hs
      · exact .of_same rfl

theorem State.stageTime_stage (i : ScreenNo) (s : State) : s.Stage i (s.stageTime i) := by
  have hadvance : s.Stage i (s.advanceClock i) :=
    .ite (s.modScreen_stage i _) ((s.modScreen_stage i _).trans (State.modScreen_stage i _ _))
  have hcount (s : State) : s.Stage i (s.countReference i) :=
    (s.modScreen_stage i _).trans (.ite ((State.modScreen_stage i _ _).trans (State.raise_stage ..)) (.refl _))
  have hresync (s : State) : s.Stage i (s.resync i) := by
    unfold State.resync
    split
    · exact .refl s
    · exact .ite (s.modScreen_stage i _)
        ((s.modScreen_stage i _).trans ((State.stepClock_stage ..).trans (State.raise_stage ..)))
  exact (hadvance.trans (hcount _)).trans (hresync _)

theorem State.bumpEntry?_cues (e : Option EntryNo) (t : EntryTally) (n : Nat) (s : State) :
    (s.bumpEntry? e t n).cues = s.cues := by
  cases e <;> rfl

/-- R41 to R43: the effects of a selection at the screen's ACTIVE entry. -/
theorem State.applySelection_stage (i : ScreenNo) (r : Selection) (s : State) (h : r.rest <:+ s.screens[i].playout.program) :
    s.Stage i (s.applySelection i (s.activeEntry i) r) := by
  have hact (o : EntryNo) (ho : s.activeEntry i = some o) : s.entries[o].screen = i := (State.activeEntry_some ho).2
  refine ⟨?_, (s.applySelection_keeps i _ r h).tables, fun _ => .of_same ?_⟩
  · unfold State.applySelection
    dsimp only
    have h1 := (s.release_within (i := i) (s.screens[i].playout.program.length - r.rest.length)).trans
      (State.modScreen_within (fun x => { x with
        playout := { x.playout with
          program := r.rest
          resync := x.playout.resync || (x.settings.clockMode = .selfTimed && 0 < r.stale + r.farEarly) } }) _)
    have h2 := h1.trans (State.bumpEntry?_within (s.activeEntry i) .stale r.stale _
      fun o ho => (h1.owner o).trans (hact o ho))
    have h3 := h2.trans (State.bumpEntry?_within (s.activeEntry i) .farEarly r.farEarly _
      fun o ho => (h2.owner o).trans (hact o ho))
    refine h3.trans ?_
    cases r.decision with
    | underrun => exact .ite (State.modScreen_within _ _) (.refl _)
    | wait => exact State.modScreen_within _ _
    | latePlay => exact State.bumpEntry?_within _ _ _ _ fun o ho => (h3.owner o).trans (hact o ho)
    | onTime => exact .refl _
  · unfold State.applySelection State.countDecision
    dsimp only
    split
    · split <;> simp only [State.bumpScreen_cues, State.bumpEntry?_cues, State.modScreen_cues, State.release_cues]
    all_goals simp only [State.bumpScreen_cues, State.bumpEntry?_cues, State.modScreen_cues, State.release_cues]

theorem State.pruneStandby_stage (i : ScreenNo) (s : State) : s.Stage i (s.pruneStandby i) := by
  have hprimed (o : EntryNo) (ho : s.primedEntry i = some o) : s.entries[o].screen = i := (State.primedEntry_some ho).2
  have hpool (n : Nat) (f : Screen → Screen) : s.Within i ((s.release n).modScreen i f) :=
    (s.release_within n).trans (State.modScreen_within f _)
  refine ⟨?_, (s.pruneStandby_keeps i).tables, fun _ => .of_same ?_⟩
  · unfold State.pruneStandby
    dsimp only
    refine .ite (.refl s) ((hpool _ _).trans (State.bumpEntry?_within _ _ _ _ fun o ho => ?_))
    exact ((hpool _ _).owner o).trans (hprimed o ho)
  · unfold State.pruneStandby
    dsimp only
    split
    · rfl
    · rw [State.bumpEntry?_cues]
      rfl

theorem State.stageTwo_stage (i : ScreenNo) (s : State) : s.Stage i (s.stageTwo i).state := by
  rw [State.stageTwo_eq]
  dsimp only
  refine State.Stage.trans ?_ (State.pruneStandby_stage i _)
  refine State.Stage.trans (s.stageTime_stage i) (State.applySelection_stage i _ _ ?_)
  exact selectBlock_suffix ..

theorem State.foldl_stage {i : ScreenNo} {α : Type} (f : State → α → State) (h : ∀ (s : State) a, s.Stage i (f s a))
    (l : List α) (s : State) : s.Stage i (l.foldl f s) := by
  induction l generalizing s with
  | nil => exact .refl s
  | cons a l ih => exact (h s a).trans (ih _)

theorem State.meterStage_stage (i : ScreenNo) (s : State) : s.Stage i (s.meterStage i) := by
  have hoffer : s.Stage i (s.offerMeter i) := by
    unfold State.offerMeter
    split
    · next h =>
      have hplace := s.place_keeps (.meter (s.meterFrame i)) (s.reportSpace_iff.mp h)
      exact .trans ⟨s.place_within _, hplace.tables, fun _ => .of_same (s.place_cues _)⟩ (State.modScreen_stage i _ _)
    · exact .refl s
  exact .ite (hoffer.trans (State.modScreen_stage i _ _)) (s.modScreen_stage i _)

theorem State.evaluateAlarms_stage (i : ScreenNo) (b : BlockReport) (s : State) : s.Stage i (s.evaluateAlarms i b) := by
  refine State.foldl_stage _ (fun s k => .ite ?_ (.refl s)) _ s
  unfold State.evaluateRecord
  dsimp only
  split
  · exact (s.modScreen_stage i _).trans (State.raise_stage ..)
  · exact s.modScreen_stage i _

theorem State.checkStage_stage (i : ScreenNo) (handed : Vector Handed 2) (s : State) : s.Stage i (s.checkStage i handed) := by
  unfold State.checkStage
  dsimp only
  split
  · next n _ _ =>
    have hjudge : s.Stage i (s.modSignal i fun g => g.judgeCheck n handed) := s.modScreen_stage i _
    refine .ite (State.Stage.trans ?_ (State.raise_stage ..)) hjudge
    refine State.Stage.modScreen ?_ _
    exact State.Stage.modScreen hjudge _
  · exact .refl s

theorem State.cueStage_stage (i : ScreenNo) (t : ScreenTime) (held : Bool) (s : State) : s.Stage i (s.cueStage i t held) :=
  ⟨s.cueStage_within t held, (s.cueStage_keeps i t held).tables, s.cueStage_cuesWithin i t held⟩

theorem State.computeBlock_stage (i : ScreenNo) (l : Latched) (p : Selected) (s : State) :
    s.Stage i (s.computeBlock i l p) := by
  unfold State.computeBlock State.stageSix
  refine State.Stage.trans ?_ (State.cueStage_stage ..)
  refine State.Stage.modScreen (State.Stage.trans ?_ (State.checkStage_stage ..)) _
  refine State.Stage.trans (State.Stage.modScreen ?_ _) (State.evaluateAlarms_stage ..)
  refine State.Stage.trans (State.Stage.modScreen ?_ _) (State.meterStage_stage ..)
  exact s.modScreen_stage i _

/-- R37: a boundary stays within its screen. -/
theorem State.boundary_stage (i : ScreenNo) (s : State) : s.Stage i (s.boundary i) := by
  unfold State.boundary
  dsimp only
  refine State.Stage.trans ?_ (State.computeBlock_stage ..)
  refine State.Stage.trans ?_ (State.foldl_stage _ (fun s k => s.raise_stage ..) _ _)
  refine State.Stage.trans ?_ (State.stageTwo_stage ..)
  exact s.modScreen_stage i _

/-- Settles O50, by the stages of a boundary; a boundary that a phase write withdrew (R35) leaves everything. -/
theorem boundaryLeavesOtherScreensAlone : Obligations.BoundaryLeavesOtherScreensAlone := by
  intro s i hs
  have hboundary : ∃ t, exec (.blockBoundary i) s = .next t ∧ s.Stage i t := by
    show ∃ t, execBlockBoundary i s = .next t ∧ s.Stage i t
    unfold execBlockBoundary
    split
    · exact ⟨s, rfl, .refl s⟩
    · exact ⟨_, rfl, s.boundary_stage i⟩
  obtain ⟨t, ht, hstage⟩ := hboundary
  obtain ⟨hspec, hcues⟩ := hstage.cues hs.1
  exact ⟨t, ht, hstage.within.others, hstage.within.entries, hcues, hspec, hstage.within.frame⟩

end Sys2Proof.Machine
end

section
/-! PROOFS. Every step keeps the invariants of the state (R21, R28, R29, R36, R54, R55, R78, R85, R94, R104, R106, R113,
R120 to R123, R133, R151, R163, R166, R174). -/

namespace Sys2Proof.Machine

/-! ## The screen of a boundary -/

/-- R38 to R40: what the stages of a boundary before its cue stage leave of the parts of screen i, `v` being the state
whose check stage 6 judges. -/
theorem State.boundary_parts (i : ScreenNo) (s : State) (x y : Screen) (hx : x = s.screens[i]) (hy : y = s.latchedScreen i) :
    ∃ (u v : State) (held : Bool) (played : Option Block) (handed : Vector Handed 2),
      s.boundary i = u.cueStage i u.screens[i].clock.base held ∧
      (u.screens[i].settings = x.settings ∧ u.screens[i].clock = x.timed ∧ u.screens[i].level = x.level.advanceFade ∧
        u.screens[i].markers = x.markers) ∧
      (u.screens[i].render.latched = y.render.latched ∧
        ∀ k : RecordNo, u.screens[i].records[k] = y.records[k] ∨
          recordInUse y.render.latched k = true ∧
            ∃ (p : Profile) (t : ScreenTime) (j : Judgement), u.screens[i].records[k] = (y.records[k].evaluate p t j).1) ∧
      (∀ l : Fin 2, u.screens[i].lanes[l] = x.lanes[l].exchanged
        (tabulate fun j : Fin 8 => (s.feedBlocks i played)[laneFeed l j].out)) ∧
      (∀ k : FeedNo, ∃ hold : Nat,
        hold ≤ max (s.feedBlocks i played)[k].feed.hold (peakOf (s.feedBlocks i played)[k].out) ∧
        u.screens[i].feeds[k] =
          { (s.feedBlocks i played)[k].feed with
            hold := hold
            sentOne := peakOf (s.feedBlocks i played)[k].out
            sentTwo := (s.feedBlocks i played)[k].feed.sentOne }) ∧
      v.screens[i].signal = x.signal.countCheck.advance ∧ v.screens[i].playout.mode = x.playout.mode ∧
      u.screens[i].signal = (v.checkStage i handed).screens[i].signal ∧
      u.screens[i].playout.mode = (v.checkStage i handed).screens[i].playout.mode := by
  obtain ⟨a, p, v, u, m, z, b, hbd, has, -, -, -, -, hkp, ⟨lost, hm⟩, hz, -, -, -, hvs, -, hu⟩ :=
    State.boundary_stages i s x y _ _ hx hy rfl rfl
  obtain ⟨done, -, hck, hfeeds⟩ := State.checkStage_shiftPeaks_leaves i b.handed _ v u hu
  have hps := hkp.1
  rw [has] at hps
  generalize (s.selectionAt i x.timed.base).played = played at hm hu hfeeds
  have hzeq := Screen.metered_measured_eq { p.screens[i] with noticeLost := lost } played (s.feedBlocks i played)
    (decide (s.reports.length + (s.earlyFrames i).length < 32))
  rw [← hm, ← hz] at hzeq
  have hzclock : z.clock = x.timed := by rw [hzeq, hps]
  have hzrender : z.render = y.render := by rw [hzeq, hps]
  have hzrecords : z.records = y.records := by rw [hzeq, hps]
  have hzsettings : z.settings = x.settings := by rw [hzeq, hps, hy, hx]; rfl
  have hzlevel : z.level = x.level.advanceFade := by rw [hzeq, hps, hy, hx]; rfl
  have hzmarkers : z.markers = x.markers := by rw [hzeq, hps, hy, hx]; rfl
  have hzmode : z.playout.mode = x.playout.mode := by rw [hzeq, hps, hx]; rfl
  have hmeq := m.metered_eq (decide (s.reports.length + (s.earlyFrames i).length < 32))
  rw [← hz] at hmeq
  have hzsignal : z.signal = x.signal.countCheck.advance := by rw [hmeq, hm, hps, hy, hx]; rfl
  have hzlanes (l : Fin 2) : z.lanes[l] = x.lanes[l].send
      (tabulate fun j : Fin 8 => (s.feedBlocks i played)[laneFeed l j].out) := by
    rw [hmeq, hm, hps, hy, hx]
    refine (tabulate_get _ l).trans (congrArg _ ?_)
    refine table_ext fun j => ?_
    rw [tabulate_get, tabulate_get]
    exact tabulate_get _ _
  refine ⟨u, v, _, played, b.handed, hbd, ⟨?_, ?_, ?_, ?_⟩, ⟨?_, fun k => ?_⟩, fun l => ?_, fun k => ?_, ?_, ?_, ?_, ?_⟩
  · rw [hck.screen, hvs]; exact hzsettings
  · rw [hck.screen, hvs]; exact hzclock
  · rw [hck.screen, hvs]; exact hzlevel
  · rw [hck.screen, hvs]; exact hzmarkers
  · rw [hck.screen, hvs]; exact congrArg Render.latched hzrender
  · rw [hck.screen, hvs]
    dsimp only
    rw [tabulate_get, hzrender, hzrecords]
    split
    · next huse =>
      have heval : z.handLanes.evaluated b k = y.records[k].evaluate
          z.handLanes.profiles[(recordKind k).profileIndex] z.handLanes.clock.now (z.handLanes.judge b k) := by
        rw [← hzrecords]
        rfl
      exact .inr ⟨huse, _, _, _, congrArg Prod.fst heval⟩
    · exact .inl rfl
  · rw [hck.screen, hvs]
    show z.handLanes.lanes[l] = _
    rw [show z.handLanes.lanes[l] = z.lanes[l].hand z.lanes[l].dueCount from tabulate_get _ l, hzlanes]
    rfl
  · refine ⟨u.screens[i].feeds[k].hold, ?_, ?_⟩
    · rw [hfeeds k, hvs]
      show z.feeds[k].hold ≤ _
      rw [hz]
      exact Nat.le_trans (m.metered_hold_le _ k) (Nat.le_of_eq (by rw [hm, Screen.measured_feed]))
    · have hzk : z.feeds[k] = { (s.feedBlocks i played)[k].feed with hold := z.feeds[k].hold } := by
        rw [hz, Screen.metered_feed, hm, Screen.measured_feed]
      have hvk : v.screens[i].feeds = z.feeds := by rw [hvs]; rfl
      rw [hfeeds k, hvk, hzk]
  · rw [hvs]; exact hzsignal
  · rw [hvs]; exact hzmode
  · rw [hu, State.modScreen_same]
    rfl
  · rw [hu, State.modScreen_same]
    rfl

/-- R84, R104: the feed of a boundary before its peaks and hold are stored. -/
theorem State.feedBlocks_sound (i : ScreenNo) (s : State) (played : Option Block) (k : FeedNo)
    (h : s.screens[i].feeds[k].sound) :
    (s.feedBlocks i played)[k].feed.sound ∧
      (s.feedBlocks i played)[k].feed.active = s.screens[i].level.requested ∧
      peakOf (s.feedBlocks i played)[k].out ≤ 8388608 ∧
      ∀ v ∈ (s.feedBlocks i played)[k].out, inSampleRange v := by
  unfold State.feedBlocks
  dsimp only
  rw [tabulate_get]
  exact ⟨Feed.equalise_sound _ _ h, Feed.equalise_active .., Feed.process_peak_le ..,
    fun v hv => Feed.process_out_mem _ _ _ _ v hv⟩

/-- R104: every output sample of a boundary is within the sample range. -/
theorem State.feedBlocks_out_mem (i : ScreenNo) (s : State) (played : Option Block) (k : FeedNo) (v : Int)
    (h : v ∈ (s.feedBlocks i played)[k].out) : inSampleRange v := by
  unfold State.feedBlocks at h
  dsimp only at h
  rw [tabulate_get] at h
  exact Feed.process_out_mem _ _ _ _ v h

/-- R38, R72, R79: the records once stage 1 has latched the preset. -/
theorem State.latchedScreen_recordsSound (i : ScreenNo) (s : State) (h : s.screens[i].recordsSound) :
    (s.latchedScreen i).recordsSound := by
  have hlatch := Screen.latch_recordsSound (s.screens[i].scheduleNext s.wordClock) (s.toLatch i) h
  have heq := s.stageOne_eq i
  have hrecords : (s.latchedScreen i).records = ((s.screens[i].scheduleNext s.wordClock).latch (s.toLatch i)).records :=
    (congrArg Screen.records heq).symm
  have hrender : (s.latchedScreen i).render = ((s.screens[i].scheduleNext s.wordClock).latch (s.toLatch i)).render :=
    (congrArg Screen.render heq).symm
  unfold Screen.recordsSound
  rw [hrecords, hrender]
  exact hlatch

/-- R37: the stages of a boundary keep the invariants of its screen. -/
theorem State.boundary_screen_keeps (i : ScreenNo) (s : State) : s.screens[i].Keeps (s.boundary i).screens[i] := by
  obtain ⟨u, v, held, played, handed, hbd, ⟨hsettings, hclock, hlevel, hmarkers⟩, ⟨hlatched, hrecords⟩, hlanes, hfeeds,
    hvsignal, hvmode, hsignal, hmode⟩ := s.boundary_parts i _ _ rfl rfl
  rw [hbd]
  refine Screen.Keeps.trans ?_ ((u.cueStage_keeps i u.screens[i].clock.base held).screens i)
  exact
    { clock := fun h => by
        rw [Screen.clockSound_iff, hsettings, hclock]
        exact ⟨h.1, Screen.timed_sound h⟩
      level := fun h => by
        rw [hlevel]
        exact Level.advanceFade_sound h
      records := fun h k => by
        obtain ⟨hsound, hrest⟩ := s.latchedScreen_recordsSound i h k
        rw [hlatched]
        rcases hrecords k with hk | ⟨huse, p, t, j, hk⟩
        · rw [hk]
          exact ⟨hsound, hrest⟩
        · rw [hk]
          exact ⟨AlarmRecord.evaluate_sound p t j hsound, fun hno => absurd (huse.symm.trans hno) nofun⟩
      lanes := fun ⟨hsound, hcount, hwait⟩ => by
        unfold Screen.lanesSound
        simp only [hlanes]
        refine ⟨fun l => Lane.exchanged_sound _ _ (hsound l) fun j w hw => ?_, ?_, ?_⟩
        · rw [tabulate_get] at hw
          exact s.feedBlocks_out_mem i played _ w hw
        · show ((Lane.send _ _).hand _).nextCount = ((Lane.send _ _).hand _).nextCount
          rw [(Lane.hand_keeps _ _).1, (Lane.hand_keeps _ _).1]
          exact congrArg (· + 1) hcount
        · rw [Lane.exchanged_awaiting _ _ (hsound 0), Lane.exchanged_awaiting _ _ (hsound 1)]
          simp only [List.length_drop, List.length_append, hwait, List.length_singleton]
      feeds := fun h k => by
        obtain ⟨hold, hle, hk⟩ := hfeeds k
        obtain ⟨hold0, -, h0⟩ := hfeeds 0
        obtain ⟨⟨ha, hb, hra, hrb, htrim, hh, hone, -, heq⟩, hact, hpeak, -⟩ := s.feedBlocks_sound i played k (h k).1
        obtain ⟨-, hact0, -, -⟩ := s.feedBlocks_sound i played 0 (h 0).1
        rw [hk, h0]
        refine ⟨⟨ha, hb, hra, hrb, htrim, ?_, hpeak, hone, heq⟩, hact.trans hact0.symm⟩
        show hold ≤ 8388608
        omega
      signal := fun h => by
        have hcheck := v.checkStage_signalSound i handed (by
          rw [hvsignal, hvmode]
          exact Signal.advance_counted (Signal.countCheck_counted h))
        rw [Screen.signalSound_iff, hsignal, hmode]
        exact hcheck
      markers := fun h => by
        rw [hmarkers]
        exact h }

/-- R37: a boundary. -/
theorem State.boundary_keeps (i : ScreenNo) (s : State) : s.Keeps (s.boundary i) := by
  obtain ⟨hwithin, htables, -⟩ := s.boundary_stage i
  refine ⟨fun j => ?_, htables⟩
  by_cases h : j = i
  · subst h
    exact s.boundary_screen_keeps j
  · rw [hwithin.others j h]
    exact .refl _

/-! ## The state after reset -/

theorem State.reset_cueTableSound : State.reset.cueTableSound := by
  intro n
  have hn (m : CueNo) : State.reset.cues[m] = Cue.powerOn := State.reset_cue m
  unfold State.cueSound
  rw [hn]
  exact ⟨fun _ => rfl, fun h => absurd rfl h, nofun, fun _ => rfl⟩

theorem State.reset_poolSound : State.reset.poolSound := by
  rw [State.poolSound_iff]
  have h (i : ScreenNo) : State.reset.screens[i] = Screen.powerOn := State.reset_screen i
  simp only [h]
  decide

theorem State.reset_sourcesSound : State.reset.sourcesSound := by
  have he (e : EntryNo) : State.reset.entries[e] = StreamEntry.powerOn := State.reset_entry e
  have hi (i : ScreenNo) : State.reset.screens[i] = Screen.powerOn := State.reset_screen i
  unfold State.sourcesSound
  simp only [he, hi]
  exact ⟨fun _ _ _ _ h => h.elim nofun nofun, fun _ _ h => absurd rfl h, fun _ => by decide,
    fun _ _ h => absurd h List.not_mem_nil, fun _ _ h => absurd h List.not_mem_nil⟩

/-- What a screen meets, all invariants together. -/
structure Screen.Sound (x : Screen) : Prop where
  clock : x.clockSound
  level : x.level.sound
  records : x.recordsSound
  lanes : x.lanesSound
  feeds : x.feedsSound
  signal : x.signalSound
  markers : x.markers.length ≤ 8

theorem Screen.powerOn_sound : Screen.powerOn.Sound where
  clock := by
    unfold Screen.clockSound settingsInRange
    decide
  level := ⟨by decide, nofun⟩
  records k := by
    rw [show Screen.powerOn.records[k] = AlarmRecord.powerOn from Vector.getElem_replicate _]
    exact ⟨AlarmRecord.powerOn_sound, fun _ => ⟨rfl, rfl, rfl⟩⟩
  lanes := by
    have h (l : Fin 2) : Screen.powerOn.lanes[l] = Lane.powerOn := Vector.getElem_replicate _
    unfold Screen.lanesSound
    simp only [h]
    exact ⟨fun _ => ⟨by decide, rfl, by decide, fun r hr => absurd hr List.not_mem_nil, by decide, by decide⟩, trivial, trivial⟩
  feeds k := by
    have h (k : FeedNo) : Screen.powerOn.feeds[k] = Feed.powerOn := Vector.getElem_replicate _
    rw [h, h]
    exact ⟨⟨by decide, by decide, fun _ e he => absurd he List.not_mem_nil, fun _ e he => absurd he List.not_mem_nil,
      by decide, by decide, by decide, by decide, by decide⟩, rfl⟩
  signal := Signal.soundUnder_idle (by decide) rfl rfl
  markers := by decide

/-- Settles O4, table by table and screen by screen. -/
theorem resetMeetsEveryInvariant : Obligations.ResetMeetsEveryInvariant := by
  have h (i : ScreenNo) : State.reset.screens[i].Sound := by
    rw [State.reset_screen i]
    exact Screen.powerOn_sound
  refine ⟨State.reset_poolSound, ?_, fun i => (h i).clock, fun i => (h i).level, fun i => (h i).records,
    State.reset_sourcesSound, fun i => (h i).lanes, fun i => (h i).feeds, fun i => (h i).signal,
    State.reset_cueTableSound, fun i => (h i).markers⟩
  unfold State.reportsSound
  decide

/-! ## One step -/

theorem State.tick_own (s : State) : s.KeepsOwn s.tick := by
  have hscreen (i : ScreenNo) : s.tick.screens[i] = { s.screens[i] with clock := s.screens[i].clock.tick } :=
    tabulate_get _ i
  have hqueues : s.SameQueues s.tick :=
    ⟨rfl, fun i => by rw [hscreen], fun i => by rw [hscreen], fun i => by rw [hscreen]⟩
  refine ⟨fun i => ?_, hqueues.poolSound, State.SameRoles.sourcesSound ⟨fun _ => rfl, fun _ => rfl, fun _ => rfl⟩ hqueues,
    State.cueTableSound_of_same rfl⟩
  rw [hscreen]
  exact { clock := id }

/-- What a command keeps: everything, the queues of the handler and of the reports by themselves. -/
structure State.KeepsAll (s t : State) : Prop where
  own : s.KeepsOwn t
  reports : s.reportsSound → t.reportsSound

theorem State.Keeps.all {s t : State} (h : s.Keeps t) : s.KeepsAll t := ⟨h.own, h.tables.offers.reportsSound⟩

theorem State.KeepsAll.refl (s : State) : s.KeepsAll s := (State.Keeps.refl s).all

theorem State.submit_keepsAll (tag : Byte) (r : Request) (s : State) : s.KeepsAll (s.submit tag r) :=
  ⟨s.submit_own tag r, s.submit_reportsSound tag r⟩

theorem State.arrive_keepsAll (bytes : List Byte) (s : State) : s.KeepsAll (s.arrive bytes) :=
  ⟨s.arrive_own bytes, s.arrive_reportsSound bytes⟩

theorem State.frameSent_keepsAll (s : State) : s.KeepsAll s.frameSent := ⟨s.frameSent_own, s.frameSent_reportsSound⟩

/-- Every command but POWER_ON, by its row. -/
theorem exec_keepsAll (c : Instr) (s : State) (hc : c ≠ .powerOn) : ∃ t, exec c s = .next t ∧ s.KeepsAll t := by
  have event {p : Prop} [Decidable p] {t : State} (h : p → s.Keeps t) :
      ∃ u, (if p then Host.Outcome.next t else .next s : Answered) = .next u ∧ s.KeepsAll u := by
    split
    · exact ⟨t, rfl, (h ‹_›).all⟩
    · exact ⟨s, rfl, .refl s⟩
  cases hr : requestOf c with
  | some q => exact ⟨_, exec_request c q.1 q.2 s hr, s.submit_keepsAll ..⟩
  | none =>
    cases c with
    | powerOn => exact absurd rfl hc
    | frameArrival frame => exact ⟨_, rfl, s.arrive_keepsAll frame⟩
    | blockBoundary i =>
      show ∃ t, execBlockBoundary i s = .next t ∧ s.KeepsAll t
      unfold execBlockBoundary
      split
      · exact ⟨s, rfl, .refl s⟩
      · exact ⟨_, rfl, (s.boundary_keeps i).all⟩
    | referenceTimeout i => exact event fun _ => s.countReference_keeps i
    | meterDue i => exact event fun _ => s.emitMeter_keeps i
    | checkComplete i => exact event fun _ => (s.decideLast_keeps i).trans (State.completeCheck_keeps i _)
    | fadeEnd i => exact event fun _ => s.modLevel_keeps i Level.advanceFade Level.advanceFade_sound
    | cueCountdownExpiry cue => exact event fun h => s.expireCountdown_keeps cue h
    | cueTimeDue cue => exact ⟨_, rfl, (s.judgeTimed_keeps cue).all⟩
    | markerDue i => exact ⟨_, rfl, (s.fireMarkers_keeps i _).all⟩
    | laneRecordSent lane =>
      exact ⟨_, rfl, (s.modLane_keeps lane _ (fun _ => Lane.sent_sound) (fun _ => rfl) fun _ => rfl).all⟩
    | senseRecordArrival lane record =>
      exact ⟨_, rfl, (s.modLane_keeps lane _ (fun _ => Lane.arrive_sound record) (fun l => (l.arrive_keeps record).1)
        (Lane.arrive_length record)).all⟩
    | upstreamFrameSent => exact ⟨_, rfl, s.frameSent_keepsAll⟩
    | _ => exact nomatch hr

/-- A step keeps every invariant, or it is POWER_ON. -/
theorem step_keepsAll {s t : State} (h : step s = .next t) :
    s.KeepsAll t ∨ ∃ pending, t = { State.reset with pending := pending } := by
  unfold step at h
  split at h
  · obtain rfl := Host.Outcome.next.inj h
    exact .inl ⟨s.tick_own, id⟩
  · next c rest _ =>
    by_cases hc : c = .powerOn
    · subst hc
      obtain rfl := Host.Outcome.next.inj h
      exact .inr ⟨rest, rfl⟩
    · obtain ⟨u, hu, hown, hreports⟩ := exec_keepsAll c { s with pending := rest } hc
      obtain rfl := Host.Outcome.next.inj (h.symm.trans hu)
      exact .inl ⟨(State.KeepsOwn.of_same (s := s)).trans hown, hreports⟩

/-- An invariant of the state that reset meets and a command keeps is kept by every step. -/
theorem step_keeps {P : State → Prop} (hreset : ∀ pending, P { State.reset with pending := pending })
    (hkeep : ∀ {s t : State}, s.KeepsAll t → P s → P t) (s t : State) (hs : P s) (h : step s = .next t) : P t := by
  rcases step_keepsAll h with hall | ⟨pending, rfl⟩
  · exact hkeep hall hs
  · exact hreset pending

/-- An invariant of each screen. -/
theorem step_keeps_screens {P : Screen → Prop} (hreset : P Screen.powerOn) (hkeep : ∀ {x y : Screen}, x.Keeps y → P x → P y)
    (s t : State) (hs : ∀ i : ScreenNo, P s.screens[i]) (h : step s = .next t) (i : ScreenNo) : P t.screens[i] := by
  refine step_keeps (P := fun s => ∀ i : ScreenNo, P s.screens[i]) (fun pending j => ?_)
    (fun hall hs j => hkeep (hall.own.screens j) (hs j)) s t hs h i
  rw [show ({ State.reset with pending := pending } : State).screens[j] = Screen.powerOn from State.reset_screen j]
  exact hreset

/-! ## The invariants -/

/-- Settles O5, by `State.KeepsAll`. -/
theorem everyStepConservesThePool : Obligations.EveryStepConservesThePool :=
  step_keeps (fun _ => State.reset_poolSound) fun h => h.own.pool

/-- Settles O6, by `State.KeepsAll`: what waits is only displaced by what is sent. -/
theorem everyStepBoundsTheReportQueue : Obligations.EveryStepBoundsTheReportQueue :=
  step_keeps (fun _ => resetMeetsEveryInvariant.2.1) fun h => h.reports

/-- Settles O7, screen by screen. -/
theorem everyStepKeepsClocksAndFadersInRange : Obligations.EveryStepKeepsClocksAndFadersInRange :=
  ⟨step_keeps_screens Screen.powerOn_sound.clock Screen.Keeps.clock,
    step_keeps_screens (P := fun x => x.level.sound) Screen.powerOn_sound.level Screen.Keeps.level⟩

/-- Settles O8, screen by screen. -/
theorem everyStepKeepsRetiredRecordsAtRest : Obligations.EveryStepKeepsRetiredRecordsAtRest :=
  step_keeps_screens Screen.powerOn_sound.records Screen.Keeps.records

/-- Settles O9, by `State.KeepsAll`. -/
theorem everyStepKeepsOneSourcePerQueue : Obligations.EveryStepKeepsOneSourcePerQueue :=
  step_keeps (fun _ => State.reset_sourcesSound) fun h => h.own.sources

/-- Settles O10, screen by screen. -/
theorem everyStepKeepsTheLanesInStep : Obligations.EveryStepKeepsTheLanesInStep :=
  step_keeps_screens Screen.powerOn_sound.lanes Screen.Keeps.lanes

/-- Settles O11, screen by screen. -/
theorem everyStepKeepsInactiveBanksAtRest : Obligations.EveryStepKeepsInactiveBanksAtRest :=
  step_keeps_screens Screen.powerOn_sound.feeds Screen.Keeps.feeds

/-- Settles O12, screen by screen. -/
theorem everyStepKeepsCheckModeWithTheCheck : Obligations.EveryStepKeepsCheckModeWithTheCheck :=
  step_keeps_screens Screen.powerOn_sound.signal Screen.Keeps.signal

/-- Settles O13: the cue table by `State.KeepsAll`, the marker lists screen by screen. -/
theorem everyStepArmsOnlyUnderFiredParents : Obligations.EveryStepArmsOnlyUnderFiredParents := fun s t hs h =>
  ⟨step_keeps (P := State.cueTableSound) (fun _ => State.reset_cueTableSound) (fun hk => hk.own.cues) s t hs.1 h,
    step_keeps_screens (P := fun x => x.markers.length ≤ 8) Screen.powerOn_sound.markers Screen.Keeps.markers s t hs.2 h⟩

end Sys2Proof.Machine
end

section
/-! PROOFS. The rows of the tables and of the screens' levels: STREAM, PRESET, EQBANK, FEED and WAVE writes, SET_PRESET,
SELECT_BANK, SET_FADER, FADE, MUTE, UNMUTE and PATTERN (R22, R68, R70, R86, R89, R93, R96, R97, R99, R107, R109). -/

namespace Sys2Proof.Machine

/-! ## Answers -/

/-- A request the handler takes at once, by what its block makes of it. -/
theorem exec_answer {c : Instr} {tag : Byte} {r : Request} {s : State} {a : Answer} (hc : requestOf c = some (tag, r))
    (hs : s.free) (hr : perform r s = a) : exec c s = a.state.answers tag a.result a.record := by
  rw [exec_request c tag r s hc, State.submit_of_free s tag r hs, hr]
  rfl

/-- A request carried out with nothing clamped. -/
theorem exec_ok {c : Instr} {tag : Byte} {r : Request} {s t : State} {record : List Byte}
    (hc : requestOf c = some (tag, r)) (hs : s.free) (hr : perform r s = accept t false record) :
    exec c s = t.answers tag .ok record := exec_accepted hc hs hr

/-- A request carried out, its result by whether the stored value is the requested one. -/
theorem exec_stored {c : Instr} {tag : Byte} {r : Request} {s t : State} {clamped : Bool} {record : List Byte} {p : Prop}
    [Decidable p] (hc : requestOf c = some (tag, r)) (hs : s.free) (hr : perform r s = accept t clamped record)
    (hp : clamped = true ↔ ¬p) : exec c s = t.answers tag (if p then .ok else .okClamped) record := by
  rw [exec_accepted hc hs hr]
  by_cases h : p
  · rw [if_pos h, if_neg fun hcl => hp.mp hcl h]
  · rw [if_neg h, if_pos (hp.mpr h)]

/-! ## STREAM -/

/-- R22 step 4, field by field. -/
theorem StreamEntry.differs_iff (x : StreamEntry) (w : StreamWrite) (channels : Nat) (i : ScreenNo) (hi : w.screen = i.val) :
    x.differs w channels = true ↔
      w.number ≠ x.number ∨ i ≠ x.screen ∨ channels ≠ x.channels ∨ w.timing ≠ x.timing := by
  simp only [StreamEntry.differs, Bool.or_eq_true, bne_iff_ne, hi, ne_eq, Fin.val_inj, or_assoc]
  simp only [eq_comm]

theorem State.modEntry_eq_set (e : EntryNo) (f : StreamEntry → StreamEntry) (s : State) :
    s.modEntry e f = { s with entries := s.entries.set e.val (f s.entries[e]) e.isLt } := by
  unfold State.modEntry
  rw [adjust_eq_set]

/-- R22: a STREAM write that names an entry and a screen within their ranges. -/
theorem doWriteStream_of_lt (e : EntryNo) (i : ScreenNo) (w : StreamWrite) (s : State) (hi : w.screen = i.val)
    (hw : w.number ≤ 4095) :
    doWriteStream e.val w s =
      if (s.entries[e].state = .primed ∨ s.entries[e].state = .active) ∧
          s.entries[e].differs w (clampNat 1 8 w.channels) then refuse s .inUse
      else if w.number ≠ 0 ∧ s.numberTaken e w.number then refuse s .badValue
      else accept (s.modEntry e fun x => x.write w i (clampNat 1 8 w.channels)) (clampNat 1 8 w.channels != w.channels)
        (streamBytes (s.entries[e].write w i (clampNat 1 8 w.channels))) := by
  have hscreen : w.screen < 6 := hi ▸ i.isLt
  have hfin : (⟨w.screen, hscreen⟩ : ScreenNo) = i := Fin.ext hi
  unfold doWriteStream
  rw [dif_pos e.isLt, if_pos hw, dif_pos hscreen]
  simp only [hfin, Fin.eta, State.modEntry_same]

theorem doWriteStream_of_range (e : EntryNo) (w : StreamWrite) (s : State) (h : 4095 < w.number ∨ 6 ≤ w.screen) :
    doWriteStream e.val w s = refuse s .badValue := by
  unfold doWriteStream
  rw [dif_pos e.isLt]
  split
  · rw [dif_neg (by omega)]
  · rfl

/-- Settles O17: the checks of `doWriteStream` in their order, then the effect table of `StreamEntry.write`. -/
theorem writeStreamFollowsItsChecks : Obligations.WriteStreamFollowsItsChecks := by
  intro tag w s hfree
  refine ⟨fun index h => exec_refused rfl hfree (dif_neg (Nat.not_lt.mpr h)),
    fun e h => exec_refused rfl hfree (doWriteStream_of_range e w s h), fun e i x n hi hw hx hn => ?_⟩
  have hwrite := doWriteStream_of_lt e i w s hi hw
  have hclamp : clampNat 1 8 w.channels = n := hn.symm
  rw [hclamp, ← hx] at hwrite
  have hheld := x.differs_iff w n i hi
  have htaken := s.numberTaken_iff e w.number
  refine ⟨fun h => ?_, fun hno h => ?_, fun hno hfresh => ⟨x.write w i n, ?_, ?_⟩⟩
  · refine exec_refused rfl hfree (hwrite.trans (if_pos ⟨h.1, hheld.mpr h.2⟩))
  · refine exec_refused rfl hfree (hwrite.trans ?_)
    rw [if_neg fun h' => hno ⟨h'.1, hheld.mp h'.2⟩, if_pos ⟨h.1, htaken.mpr h.2⟩]
  · rw [show s.entries.set e.val (x.write w i n) e.isLt = (s.modEntry e fun y => y.write w i n).entries by
      rw [hx, State.modEntry_eq_set]]
    have hperform : perform (.writeStream e.val w) s =
        accept (s.modEntry e fun y => y.write w i n) (n != w.channels) (streamBytes (x.write w i n)) := by
      refine hwrite.trans ?_
      rw [if_neg fun h' => hno ⟨h'.1, hheld.mp h'.2⟩, if_neg fun h' => hfresh ⟨h'.1, htaken.mp h'.2⟩]
    exact exec_stored rfl hfree hperform bne_iff_ne
  · unfold StreamEntry.write StreamEntry.store StreamEntry.forget
    refine ⟨fun hst h0 => ?_, fun hst h0 => ?_, fun hst h0 => ?_, fun hst h0 hsame => ?_, fun hst h0 hdiff => ?_, fun hst => ?_⟩
    · simp only [hst, h0, if_true]
    · simp only [hst, h0, if_false]
    · simp only [hst, h0, if_true]
    · obtain ⟨hnumber, hscreen⟩ := hsame
      rw [hnumber] at h0
      simp only [hst, hnumber, hscreen, h0, if_false, and_self, if_true]
    · have hdiff' : ¬(x.number = w.number ∧ x.screen = i) := fun h => hdiff ⟨h.1.symm, h.2.symm⟩
      simp only [hst, h0, hdiff', if_false]
    · rcases hst with hst | hst <;> simp only [hst]

/-! ## PRESET -/

theorem State.presetInUse_iff (p : PresetNo) (s : State) :
    s.presetInUse p = true ↔ ∃ i : ScreenNo, s.screens[i].render.selection = some p := by
  simp [State.presetInUse]

/-- R68 step 4: the donors of one fill entry. -/
theorem donorsAllowed_iff (i n : Nat) (e : FillEntry) :
    donorsAllowed i n e = true ↔ ¬(e.mode = .fill ∧
      (e.donorA = i ∨ n ≤ e.donorA ∨ ∃ b k, e.donorB = some (b, k) ∧ (b = i ∨ n ≤ b))) := by
  obtain ⟨mode, donorA, coefA, donorB⟩ := e
  cases mode with
  | none => simp [donorsAllowed]
  | mute => simp [donorsAllowed]
  | fill =>
    cases donorB with
    | none => simp [donorsAllowed, not_or]
    | some q =>
      obtain ⟨b, k⟩ := q
      simp [donorsAllowed, not_or, and_assoc]

theorem fillsAllowed_iff (n : Nat) (fill : Vector FillEntry 8) :
    fillsAllowed n fill = true ↔ ¬∃ c : ChannelNo, c.val < n ∧ fill[c].mode = .fill ∧
      (fill[c].donorA = c.val ∨ n ≤ fill[c].donorA ∨
        ∃ b k, fill[c].donorB = some (b, k) ∧ (b = c.val ∨ n ≤ b)) := by
  unfold fillsAllowed
  simp only [List.all_eq_true, mem_indexes, true_implies, Bool.or_eq_true, decide_eq_true_eq, donorsAllowed_iff, not_exists]
  refine forall_congr' fun c => ?_
  by_cases h : c.val < n
  · simp only [h, Nat.not_le.mpr h, false_or, true_and]
  · simp only [h, Nat.not_lt.mp h, true_or, false_and, not_false_eq_true]

theorem State.setPreset_eq_set (p : PresetNo) (r : Preset) (s : State) :
    s.setPreset p r = { s with presets := s.presets.set p.val r p.isLt } := by
  unfold State.setPreset
  rw [adjust_eq_set]

/-- R68: a PRESET write to a preset of the table. -/
theorem doWritePreset_of_lt (p : PresetNo) (r : Preset) (s : State) :
    doWritePreset p.val r s =
      if !r.used then
        if s.presetInUse p then refuse s .inUse
        else accept (s.setPreset p Preset.powerOn) false (presetBytes Preset.powerOn)
      else if fillsAllowed (clampNat 1 8 r.channels) r.fill then
        accept (s.setPreset p { r with channels := clampNat 1 8 r.channels }) (clampNat 1 8 r.channels != r.channels)
          (presetBytes { r with channels := clampNat 1 8 r.channels })
      else refuse s .badValue := dif_pos p.isLt

/-- R70: SET_PRESET of a preset of the table. -/
theorem doSetPreset_of_lt (i : ScreenNo) (p : PresetNo) (s : State) :
    doSetPreset i.val (some p.val) s =
      if s.presets[p].used then accept (s.select i (some p)) false (selectionBytes (some p)) else refuse s .empty := by
  unfold doSetPreset
  rw [dif_pos i.isLt]
  exact dif_pos p.isLt

/-- Settles O21: the checks of a PRESET write in their order, then SET_PRESET by what it names. -/
theorem presetsAreWrittenAndSelected : Obligations.PresetsAreWrittenAndSelected := by
  refine ⟨fun tag r s hfree => ⟨fun index h => exec_refused rfl hfree (dif_neg (Nat.not_lt.mpr h)),
    fun p hr => ⟨fun h => ?_, fun h => ?_⟩, fun p n hr hn => ?_⟩, fun tag s hfree => ⟨fun screen preset h =>
      exec_refused rfl hfree (dif_neg (Nat.not_lt.mpr h)), fun i => ⟨fun p h => ?_, fun p h => ?_, fun p h => ?_, ?_⟩⟩⟩
  · refine exec_refused rfl hfree ((doWritePreset_of_lt p r s).trans ?_)
    rw [if_pos (by rw [hr]; rfl), if_pos (s.presetInUse_iff p |>.mpr h)]
  · rw [← State.setPreset_eq_set]
    refine exec_ok rfl hfree ((doWritePreset_of_lt p r s).trans ?_)
    rw [if_pos (by rw [hr]; rfl), if_neg fun h' => h (s.presetInUse_iff p |>.mp h')]
  · have hwrite := doWritePreset_of_lt p r s
    have hclamp : clampNat 1 8 r.channels = n := hn.symm
    rw [if_neg (by rw [hr]; decide), hclamp] at hwrite
    refine ⟨fun h => ?_, fun h => ?_⟩
    · exact exec_refused rfl hfree (hwrite.trans (if_neg fun h' => (fillsAllowed_iff n r.fill).mp h' h))
    · rw [← State.setPreset_eq_set]
      exact exec_stored rfl hfree (hwrite.trans (if_pos ((fillsAllowed_iff n r.fill).mpr h))) bne_iff_ne
  · refine exec_refused rfl hfree ?_
    show doSetPreset i.val (some p) s = _
    unfold doSetPreset
    rw [dif_pos i.isLt]
    exact dif_neg (Nat.not_lt.mpr h)
  · exact exec_refused rfl hfree ((doSetPreset_of_lt i p s).trans (if_neg (by rw [h]; decide)))
  · refine Eq.trans (exec_ok rfl hfree ((doSetPreset_of_lt i p s).trans (if_pos h))) ?_
    simp only [selectionBytes, optionBytes, beNat_one]
    rfl
  · exact exec_ok rfl hfree (dif_pos i.isLt)

/-! ## EQBANK and FEED -/

/-- The index 16i + k of feed k of screen i. -/
theorem feedIndex_parts (i : ScreenNo) (k : FeedNo) :
    16 * i.val + k.val < 96 ∧ (16 * i.val + k.val) / 16 = i.val ∧ (16 * i.val + k.val) % 16 = k.val := by omega

/-- R86: an EQBANK write to bank b of feed k of screen i. -/
theorem doWriteEqbank_of_feed (i : ScreenNo) (k : FeedNo) (bank : Bank) (index : Nat) (list : List Section) (s : State)
    (hindex : index = (match bank with | .a => 0 | .b => 96) + 16 * i.val + k.val) :
    doWriteEqbank index list s =
      if 8 < list.length then refuse s .badValue
      else if s.screens[i].feeds[k].active = bank ∨ s.screens[i].level.requested = bank then refuse s .inUse
      else accept (s.modFeed i k fun f => f.setBank bank (list.map EqSection.atRest)) false
        (bankBytes (list.map EqSection.atRest)) := by
  have hparts : index < 192 ∧ index % 96 / 16 = i.val ∧ index % 16 = k.val ∧ bankOfIndex index = bank := by
    unfold bankOfIndex
    cases bank with
    | a =>
      have h : index = 0 + 16 * i.val + k.val := hindex
      exact ⟨by omega, by omega, by omega, if_pos (by omega)⟩
    | b =>
      have h : index = 96 + 16 * i.val + k.val := hindex
      exact ⟨by omega, by omega, by omega, if_neg (by omega)⟩
  obtain ⟨hlt, hi, hk, hb⟩ := hparts
  have hi' : (⟨index % 96 / 16, by omega⟩ : ScreenNo) = i := Fin.ext hi
  have hk' : (⟨index % 16, by omega⟩ : FeedNo) = k := Fin.ext hk
  unfold doWriteEqbank
  rw [dif_pos hlt]
  simp only [hi', hk', hb]

/-- R93: a FEED write of feed k of screen i. -/
theorem doWriteFeed_of_feed (i : ScreenNo) (k : FeedNo) (trim : Int) (s : State) :
    doWriteFeed (16 * i.val + k.val) trim s =
      accept (s.modFeed i k fun f => { f with trim := clampInt (-40) 24 trim })
        (decide (trim < -40 ∨ 24 < trim)) (beBytes 1 (clampInt (-40) 24 trim)) := by
  obtain ⟨hlt, hi, hk⟩ := feedIndex_parts i k
  have hi' : (⟨(16 * i.val + k.val) / 16, by omega⟩ : ScreenNo) = i := Fin.ext hi
  have hk' : (⟨(16 * i.val + k.val) % 16, by omega⟩ : FeedNo) = k := Fin.ext hk
  unfold doWriteFeed
  rw [dif_pos hlt]
  simp only [hi', hk']

theorem bankBytes_atRest (list : List Section) :
    bankBytes (list.map EqSection.atRest) = BitVec.ofNat 8 list.length :: list.flatMap sectionBytes := by
  unfold bankBytes listBytes
  rw [beNat_one, List.length_map, List.flatMap_map]
  rfl

/-- Settles O22: an EQBANK write by its checks, a FEED write with its clamp. -/
theorem bankAndTrimWritesFollowTheirChecks : Obligations.BankAndTrimWritesFollowTheirChecks := by
  refine ⟨fun tag list s hfree => ⟨fun index h => exec_refused rfl hfree (dif_neg (Nat.not_lt.mpr h)),
    fun i k bank index hindex => ?_⟩, fun tag trim s hfree => ⟨fun index h =>
      exec_refused rfl hfree (dif_neg (Nat.not_lt.mpr h)), fun i k v hv => ?_⟩⟩
  · have hwrite := doWriteEqbank_of_feed i k bank index list s hindex
    refine ⟨fun h => exec_refused rfl hfree (hwrite.trans (if_pos h)), fun h hused => ?_, fun h hfresh => ?_⟩
    · exact exec_refused rfl hfree (hwrite.trans ((if_neg (Nat.not_lt.mpr h)).trans (if_pos hused)))
    · rw [← bankBytes_atRest]
      exact exec_ok rfl hfree (hwrite.trans ((if_neg (Nat.not_lt.mpr h)).trans (if_neg hfresh)))
  · have hclamp : clampInt (-40) 24 trim = v := hv.symm
    have hwrite := doWriteFeed_of_feed i k trim s
    rw [hclamp] at hwrite
    refine Eq.trans (exec_stored rfl hfree hwrite ?_) (congrArg _ ?_)
    · rw [decide_eq_true_iff]
      omega
    · simp [beBytes]

/-! ## Levels -/

/-- R4: two bytes of a count. -/
theorem beNat_two (n : Nat) : beNat 2 n = twoBytes (BitVec.ofNat 16 n) := by
  have hhigh : BitVec.ofInt 8 ((n : Int) / 256 ^ 1) = ((BitVec.ofNat 16 n) >>> 8).setWidth 8 := by
    refine BitVec.eq_of_toNat_eq ?_
    simp only [BitVec.toNat_ofInt, BitVec.toNat_setWidth, BitVec.toNat_ushiftRight, BitVec.toNat_ofNat,
      Nat.shiftRight_eq_div_pow]
    omega
  have hlow : BitVec.ofInt 8 ((n : Int) / 256 ^ 0) = (BitVec.ofNat 16 n).setWidth 8 := by
    refine BitVec.eq_of_toNat_eq ?_
    simp only [BitVec.toNat_ofInt, BitVec.toNat_setWidth, BitVec.toNat_ofNat]
    omega
  show [BitVec.ofInt 8 ((n : Int) / 256 ^ 1), BitVec.ofInt 8 ((n : Int) / 256 ^ 0)] = _
  rw [hhigh, hlow]
  rfl

/-- R97: FADE on a screen of the part. -/
theorem doFade_of_lt (i : ScreenNo) (target duration : Nat) (s : State) :
    doFade i.val target duration s =
      accept (s.modLevel i fun l => l.startFade target duration)
        (decide (100 < target ∨ duration = 0 ∨ 60000 < duration))
        (startedFadeBytes (s.screens[i].level.startFade target duration)) := by
  unfold doFade
  rw [dif_pos i.isLt]
  simp only [Fin.eta, State.modLevel, State.modScreen_same]

/-- Settles O23, row by row. -/
theorem levelCommandsStoreTheirValues : Obligations.LevelCommandsStoreTheirValues := by
  refine ⟨fun tag bank s hfree => ⟨fun screen h => exec_refused rfl hfree (dif_neg (Nat.not_lt.mpr h)), fun i => ?_⟩,
    fun tag s hfree => ⟨fun screen f h => exec_refused rfl hfree (dif_neg (Nat.not_lt.mpr h)),
      fun screen ft d h => exec_refused rfl hfree (dif_neg (Nat.not_lt.mpr h)), fun i f => ?_,
      fun i ft d target duration ht hd => ?_⟩,
    fun tag s hfree => ⟨fun screen h => ⟨exec_refused rfl hfree (dif_neg (Nat.not_lt.mpr h)),
      exec_refused rfl hfree (dif_neg (Nat.not_lt.mpr h))⟩, fun i =>
      ⟨exec_ok rfl hfree (dif_pos i.isLt), exec_ok rfl hfree (dif_pos i.isLt)⟩⟩⟩
  · refine Eq.trans (exec_ok rfl hfree (dif_pos i.isLt)) ?_
    cases bank <;> rfl
  · have hclamp : clampNat 0 100 f = min 100 f := Nat.zero_max _
    have hset : perform (.setFader i.val f) s =
        accept (s.modScreen i fun x => { x with level := { x.level with fader := min 100 f, fade := none } })
          (decide (100 < f)) [BitVec.ofNat 8 (min 100 f)] := by
      refine (dif_pos i.isLt).trans ?_
      unfold State.modLevel Level.setFader
      rw [hclamp, beNat_one]
    exact exec_stored rfl hfree hset (by rw [decide_eq_true_iff, Nat.not_le])
  · have htarget : clampNat 0 100 ft = target := (Nat.zero_max _).trans ht.symm
    have hduration : clampNat 1 60000 d = duration := hd.symm
    have hfade := doFade_of_lt i ft d s
    unfold State.modLevel Level.startFade at hfade
    rw [htarget, hduration] at hfade
    refine Eq.trans (exec_stored rfl hfree hfade ?_) (congrArg _ ?_)
    · rw [decide_eq_true_iff]
      omega
    · simp only [startedFadeBytes, fadeBytes, beNat_one, beNat_two, List.cons_append,
        List.nil_append]
      rfl

/-! ## PATTERN and WAVE -/

/-- R109: PATTERN on a screen of the part. -/
theorem doPattern_of_lt (i : ScreenNo) (p : PatternSpec) (s : State) :
    doPattern i.val p s =
      accept (s.setPattern i p) (patternClamped p) (optionBytes patternBytes (storedPattern p)) := dif_pos i.isLt

theorem storedPattern_of_on (p : PatternSpec) (h : p.kind ≠ .off) :
    storedPattern p = some { p with level := clampInt (-160) 0 p.level } := by
  unfold storedPattern
  split
  · next h0 => exact absurd h0 h
  all_goals rfl

/-- Settles O24: PATTERN by its kind, a WAVE write by its index. -/
theorem patternAndWaveAreStored : Obligations.PatternAndWaveAreStored := by
  intro tag s hfree
  refine ⟨fun screen spec h => exec_refused rfl hfree (dif_neg (Nat.not_lt.mpr h)), fun i spec hoff => ?_,
    fun i spec level hon hlevel => ?_, fun index tone h => exec_refused rfl hfree (if_neg h),
    fun tone => exec_ok rfl hfree rfl⟩
  · have hstored : storedPattern spec = none := by simp only [storedPattern, hoff]
    have hpattern := doPattern_of_lt i spec s
    unfold State.setPattern patternClamped at hpattern
    rw [hstored, hoff] at hpattern
    exact exec_ok rfl hfree hpattern
  · have hclamp : clampInt (-160) 0 spec.level = level := hlevel.symm
    have hpattern := doPattern_of_lt i spec s
    unfold State.setPattern at hpattern
    rw [storedPattern_of_on spec hon, hclamp] at hpattern
    refine exec_stored rfl hfree hpattern ?_
    simp only [patternClamped, Bool.and_eq_true, bne_iff_ne, decide_eq_true_eq]
    constructor
    · rintro ⟨-, h⟩
      omega
    · intro h
      exact ⟨hon, by omega⟩

end Sys2Proof.Machine
end

section
/-! PROOFS. The speaker check's commands and the alarm records: START_CHECK, STOP_CHECK, PROFILE writes, ACK and the
judgement of each kind (R112, R117, R135 to R141, R146). -/

namespace Sys2Proof.Machine

/-! ## START_CHECK -/

/-- R112: the feed list of a check. -/
theorem Screen.checkFeeds_eq (x : Screen) (mask : BitVec 16) :
    x.checkFeeds mask = (List.finRange 16).filter fun k =>
      mask.getLsbD k.val && x.render.latched.any fun l => l.preset.feedSet.getLsbD k.val := by
  unfold Screen.checkFeeds
  rw [indexes_eq_finRange]
  cases x.render.latched with
  | none =>
    simp only [Option.any_none, Bool.and_false]
    exact (List.filter_eq_nil_iff.mpr fun _ _ => Bool.false_ne_true).symm
  | some l => rfl

/-- R112: START_CHECK on a screen of the part. -/
theorem doStartCheck_of_lt (i : ScreenNo) (spec : CheckSpec) (s : State) :
    doStartCheck i.val spec s =
      if spec.kind = .off then refuse s .badValue
      else if s.screens[i].signal.check.running then refuse s .busy
      else accept (s.beginCheck i spec) (decide (clampCheckSpec spec ≠ spec))
        (checkBytes (s.beginCheck i spec).screens[i].signal.check) := dif_pos i.isLt

/-- R112: a check with feeds runs and the screen is in CHECK. -/
theorem State.beginCheck_of_feeds (i : ScreenNo) (spec : CheckSpec) (s : State) {feeds : List FeedNo}
    (hf : s.screens[i].checkFeeds spec.mask = feeds) (hne : feeds ≠ []) :
    s.beginCheck i spec = s.modScreen i fun x =>
      { x with
        playout := { x.playout with mode := .check }
        signal :=
          { x.signal with
            check := { running := true, spec := clampCheckSpec spec, feeds := feeds, count := none }
            results := tabulate (startedEntry feeds) } } := by
  have hrun : (!feeds.isEmpty) = true := by simpa using hne
  unfold State.beginCheck Signal.startCheck State.modSignal
  simp only [hf, hrun]
  rw [if_neg (by simpa using hne), State.modScreen_modScreen]
  rfl

/-- R112: with no feed in the table being untested there is none to count. -/
theorem Signal.countResults_of_skipped (g : Signal) (st : ResultState) (hst : st ≠ .skipped)
    (h : ∀ k : FeedNo, g.results[k].state = .skipped) : g.countResults st = 0 := by
  unfold Signal.countResults
  rw [List.filter_eq_nil_iff.mpr fun k _ => ?_]
  · rfl
  · rw [decide_eq_true_iff, h k]
    exact fun h => hst h.symm

/-- A change of a screen is what it makes of that screen. -/
theorem State.modScreen_congr (i : ScreenNo) {f g : Screen → Screen} (s : State)
    (h : f s.screens[i] = g s.screens[i]) : s.modScreen i f = s.modScreen i g := by
  unfold State.modScreen
  rw [adjust_eq_set, adjust_eq_set, h]

/-- A change of a screen outside its clock leaves its time. -/
theorem State.modScreen_stNow (i : ScreenNo) (f : Screen → Screen) (s : State)
    (h : (f s.screens[i]).clock = s.screens[i].clock) : (s.modScreen i f).stNow i = s.stNow i := by
  unfold State.stNow
  rw [State.modScreen_same, h]

/-- R112: a check of no feeds is complete at once. -/
theorem State.beginCheck_of_none (i : ScreenNo) (spec : CheckSpec) (s : State)
    (hf : s.screens[i].checkFeeds spec.mask = []) :
    s.beginCheck i spec = (s.modScreen i fun x =>
      { x with
        signal :=
          { x.signal with
            check := { running := false, spec := clampCheckSpec spec, feeds := [], count := none }
            results := tabulate (startedEntry []) } }).offerNotice
      { kind := .checkDone, screen := i, subject := 0, state := 0, valueA := 0, valueB := 0, st := s.stNow i } := by
  unfold State.beginCheck
  rw [hf]
  have hskip (g : Signal) (k : FeedNo) : (g.startCheck (clampCheckSpec spec) []).results[k].state = .skipped := by
    rw [show (g.startCheck (clampCheckSpec spec) []).results[k] = startedEntry [] k from tabulate_get _ k]
    rfl
  show (s.modSignal i _).raiseCheckDone i 0 = _
  unfold State.raiseCheckDone State.raise
  rw [State.modSignal_screen, Signal.countResults_of_skipped _ .pass nofun (hskip _),
    Signal.countResults_of_skipped _ .fail nofun (hskip _), State.modSignal, State.modScreen_stNow i _ s (by rfl)]
  rfl

/-- Settles O25: the refusals in their order, then a check with feeds and one with none. -/
theorem startCheckFollowsItsRules : Obligations.StartCheckFollowsItsRules := by
  intro tag spec s hfree
  refine ⟨fun screen h => exec_refused rfl hfree (dif_neg (Nat.not_lt.mpr h)), fun i x hx => ?_⟩
  subst hx
  have hcheck := doStartCheck_of_lt i spec s
  refine ⟨fun hoff => exec_refused rfl hfree (hcheck.trans (if_pos hoff)),
    fun hon hrun => exec_refused rfl hfree (hcheck.trans ((if_neg hon).trans (if_pos hrun))),
    fun hon hidle d c feeds hd hc hfeeds => ?_⟩
  have hclamp : clampCheckSpec spec = c := by
    rw [hc, hd]
    rfl
  have hlist : s.screens[i].checkFeeds spec.mask = feeds := (Screen.checkFeeds_eq _ _).trans hfeeds.symm
  rw [if_neg hon, if_neg (by rw [hidle]; nofun)] at hcheck
  refine ⟨s.beginCheck i spec, tabulate (startedEntry feeds), fun k => ?_, ?_, fun hne => ?_, fun hnil => ?_⟩
  · rw [tabulate_get]
    simp only [startedEntry, List.contains_iff_mem]
  · exact exec_stored rfl hfree hcheck (by rw [decide_eq_true_iff, hclamp])
  · rw [State.beginCheck_of_feeds i spec s hlist hne, hclamp]
  · rw [State.beginCheck_of_none i spec s (hlist.trans hnil), hclamp, hnil]

/-! ## STOP_CHECK -/

/-- R117: the entries of a table in a state, counted in ascending order. -/
theorem Signal.countResults_eq (g : Signal) (st : ResultState) :
    g.countResults st = ((List.finRange 16).filter fun k => g.results[k].state = st).length := by
  unfold Signal.countResults
  rw [indexes_eq_finRange]

/-- R117: the state as a running check is stopped. -/
theorem State.endCheck_eq (i : ScreenNo) (s : State) (results : Vector ResultEntry 16)
    (hr : results = tabulate fun k => s.screens[i].signal.results[k].stop) :
    s.endCheck i = (s.modScreen i fun x =>
      { x with
        playout := { x.playout with mode := .show }
        signal :=
          { x.signal with
            check := { x.signal.check with running := false, count := none }, results := results } }).offerNotice
      { kind := .checkDone, screen := i, subject := 0, state := 1
        valueA := ((List.finRange 16).filter fun k => results[k].state = .pass).length
        valueB := ((List.finRange 16).filter fun k => results[k].state = .fail).length
        st := s.stNow i } := by
  have hmod : (s.modSignal i Signal.stopCheck).modScreen i (fun x => x.setMode .show) = s.modScreen i fun x =>
      { x with
        playout := { x.playout with mode := .show }
        signal :=
          { x.signal with
            check := { x.signal.check with running := false, count := none }, results := results } } := by
    unfold State.modSignal
    rw [State.modScreen_modScreen, hr]
    exact State.modScreen_congr i s rfl
  unfold State.endCheck State.raiseCheckDone State.raise
  rw [hmod, State.modScreen_stNow i _ s (by rfl), State.modScreen_same, Signal.countResults_eq, Signal.countResults_eq]

theorem ResultEntry.stop_eq (r : ResultEntry) :
    r.stop = if r.state = .running ∨ r.state = .untested then { r with state := .skipped } else r := by
  unfold ResultEntry.stop
  cases h : r.state <;> simp

/-- Settles O26: STOP_CHECK by whether a check runs. -/
theorem stopCheckEndsARunningCheck : Obligations.StopCheckEndsARunningCheck := by
  intro tag s hfree
  refine ⟨fun screen h => exec_refused rfl hfree (dif_neg (Nat.not_lt.mpr h)), fun i => ⟨fun hidle => ?_, fun hrun =>
    ⟨s.endCheck i, tabulate fun k => s.screens[i].signal.results[k].stop, fun k => ?_, ?_, s.endCheck_eq i _ rfl⟩⟩⟩
  · refine exec_refused rfl hfree ((dif_pos i.isLt).trans (if_neg ?_))
    rw [hidle]
    nofun
  · rw [tabulate_get, ResultEntry.stop_eq]
  · exact exec_ok rfl hfree ((dif_pos i.isLt).trans (if_pos hrun))

/-! ## PROFILE and ACK -/

/-- The places of the profiles and of the records in their tables' indexes. -/
theorem doWriteProfile_of_parts (i : ScreenNo) (k : Fin 6) (p : Profile) (s : State) :
    doWriteProfile (6 * i.val + k.val) p s =
      if (profileKind k).allows p.action then
        accept (s.modScreen i fun x => { x with profiles := adjust x.profiles k fun _ => clampProfile p })
          (decide (clampProfile p ≠ p)) (profileBytes (clampProfile p))
      else refuse s .badValue := by
  have hi : (⟨(6 * i.val + k.val) / 6, by omega⟩ : ScreenNo) = i := Fin.ext (by show _ / 6 = _; omega)
  have hk : (⟨(6 * i.val + k.val) % 6, by omega⟩ : Fin 6) = k := Fin.ext (by show _ % 6 = _; omega)
  unfold doWriteProfile
  rw [dif_pos (by omega)]
  simp only [hi, hk]

/-- R141: the action a profile of the table may name. -/
theorem profileKind_allows_iff (k : Fin 6) (a : AlarmAction) :
    (profileKind k).allows a = true ↔ a = .none ∨ (k = 0 ∧ a = .fill) ∨ (k = 2 ∧ a = .holdCues) ∨
      (k = 3 ∧ a = .reduce) ∨ (k = 5 ∧ a = .muteFeed) := by
  cases a <;> revert k <;> decide

/-- Settles O27: the allowed actions, then the clamps. -/
theorem writeProfileFollowsItsChecks : Obligations.WriteProfileFollowsItsChecks := by
  intro tag p s hfree
  refine ⟨fun index h => exec_refused rfl hfree (dif_neg (Nat.not_lt.mpr h)), fun i k q hq => ?_⟩
  have hwrite := doWriteProfile_of_parts i k p s
  have hclamp : clampProfile p = q := by
    rw [hq]
    simp only [clampProfile, clampNat, Nat.zero_max]
  rw [hclamp] at hwrite
  refine ⟨fun h => ?_, fun h => ?_⟩
  · exact exec_refused rfl hfree (hwrite.trans (if_neg fun h' => h ((profileKind_allows_iff k _).mp h')))
  · exact exec_stored rfl hfree (hwrite.trans (if_pos ((profileKind_allows_iff k _).mpr h))) (by rw [decide_eq_true_iff])

/-- R146: ACK of record 58i + k. -/
theorem doAck_of_parts (i : ScreenNo) (k : RecordNo) (s : State) :
    doAck (58 * i.val + k.val) s =
      if s.screens[i].records[k].state = .normal then refuse s .notRaised
      else if s.screens[i].records[k].state = .acked then accept s false (alarmBytes k s.screens[i].records[k])
      else if s.screens[i].records[k].state = .warning then
        accept (s.setRecord i k s.screens[i].records[k].acknowledgeWarning) false
          (alarmBytes k s.screens[i].records[k].acknowledgeWarning)
      else accept (s.setRecord i k { s.screens[i].records[k] with acked := true }) false
          (alarmBytes k { s.screens[i].records[k] with acked := true }) := by
  have hi : (⟨(58 * i.val + k.val) / 58, by omega⟩ : ScreenNo) = i := Fin.ext (by show _ / 58 = _; omega)
  have hk : (⟨(58 * i.val + k.val) % 58, by omega⟩ : RecordNo) = k := Fin.ext (by show _ % 58 = _; omega)
  unfold doAck
  rw [dif_pos (by omega)]
  simp only [hi, hk]
  cases s.screens[i].records[k].state <;> rfl

/-- Settles O28: ACK by the state of the record. -/
theorem ackFollowsTheRecordState : Obligations.AckFollowsTheRecordState := by
  intro tag s hfree
  refine ⟨fun record h => exec_refused rfl hfree (dif_neg (Nat.not_lt.mpr h)), fun i k r hr => ?_⟩
  have hack := doAck_of_parts i k s
  rw [← hr] at hack
  refine ⟨fun h => ?_, fun h => ?_, fun h q hq => ?_, fun h q hq => ?_⟩
  · exact exec_refused rfl hfree (hack.trans (if_pos h))
  · exact exec_ok rfl hfree (hack.trans ((if_neg (by rw [h]; nofun)).trans (if_pos h)))
  · subst hq
    rw [if_neg (by rw [h]; nofun), if_neg (by rw [h]; nofun), if_pos h] at hack
    exact exec_ok rfl hfree hack
  · subst hq
    rw [if_neg (by rw [h]; nofun), if_neg (by rw [h]; nofun), if_neg (by rw [h]; nofun)] at hack
    exact exec_ok rfl hfree hack

/-! ## Judgements -/

/-- Settles O29: a record's kind by its place, then the judgement of its kind. -/
theorem eachKindJudgesItsOwnInput : Obligations.EachKindJudgesItsOwnInput := by
  intro x b
  refine ⟨fun c k hk => ?_, fun k hk => ?_, fun k hk => ?_, fun f k hk => ?_, fun f k hk => ?_, fun f k hk => ?_⟩
  · have hkind : recordKind k = .chLoss := if_pos (by omega)
    have hchannel : recordChannel k = c := by
      refine Fin.ext ?_
      show recordSubject k % 8 = c.val
      rw [recordSubject, if_pos (by omega)]
      omega
    unfold Screen.judge
    rw [hkind]
    simp only [hchannel, judgeChLoss]
    cases b.mode <;> cases b.status[c] <;> rfl
  · have hkind : recordKind k = .starve := by
      rw [recordKind, if_neg (by omega), if_pos hk]
    unfold Screen.judge
    rw [hkind]
    simp only [judgeStarve]
    cases b.hadActive <;> cases b.muted <;> cases b.mode <;> cases b.decision <;> rfl
  · have hkind : recordKind k = .refLost := by
      rw [recordKind, if_neg (by omega), if_neg (by omega), if_pos hk]
    unfold Screen.judge
    rw [hkind]
    cases x.clock.state <;> rfl
  · have hkind : recordKind k = .overload := by
      rw [recordKind, if_neg (by omega), if_neg (by omega), if_neg (by omega), if_pos (by omega)]
    have hfeed : recordFeed k = f := by
      refine Fin.ext ?_
      show recordSubject k % 16 = f.val
      rw [recordSubject, if_neg (by omega), if_neg (by omega), if_pos (by omega)]
      omega
    unfold Screen.judge
    rw [hkind]
    simp only [hfeed, judgeOverload]
    rfl
  · have hkind : recordKind k = .feedOpen := by
      rw [recordKind, if_neg (by omega), if_neg (by omega), if_neg (by omega), if_neg (by omega), if_pos (by omega)]
    have hfeed : recordFeed k = f := by
      refine Fin.ext ?_
      show recordSubject k % 16 = f.val
      rw [recordSubject, if_neg (by omega), if_neg (by omega), if_neg (by omega), if_pos (by omega)]
      omega
    unfold Screen.judge
    rw [hkind]
    simp only [hfeed, judgeFeedOpen]
    cases feedReturn b.handed f <;> rfl
  · have hkind : recordKind k = .ampFault := by
      rw [recordKind, if_neg (by omega), if_neg (by omega), if_neg (by omega), if_neg (by omega), if_neg (by omega)]
    have hfeed : recordFeed k = f := by
      refine Fin.ext ?_
      show recordSubject k % 16 = f.val
      rw [recordSubject, if_neg (by omega), if_neg (by omega), if_neg (by omega), if_neg (by omega)]
      omega
    unfold Screen.judge
    rw [hkind]
    cases h : feedReturn b.handed f <;> simp only [hfeed, judgeAmpFault, h, Bool.or_eq_true]

end Sys2Proof.Machine
end

section
/-! PROOFS. The cue commands and the backward step: CUE writes, GO, CANCEL, ENABLE and the rearm (R51, R152, R156,
R161 to R163). -/

namespace Sys2Proof.Machine

/-- A conditional under an equivalent test. -/
theorem ite_eq_of_iff {α : Type} {p q : Prop} [Decidable p] [Decidable q] {a b c d : α} (h : p ↔ q) (ha : a = c)
    (hb : b = d) : (if p then a else b) = if q then c else d := ite_congr (propext h) (fun _ => ha) fun _ => hb

/-! ## The written record of a cue -/

theorem clampTrigger_eq (w : CueSpec) :
    clampTrigger w = { w with delay := if w.trigger = .after then max 1 (min 60000 w.delay) else w.delay } := by
  unfold clampTrigger
  split
  · next h => rw [if_pos h, clampNat]
  all_goals next h => rw [if_neg (by rw [h]; nofun)]

theorem clampAction_eq (w : CueSpec) :
    clampAction w = { w with
      fadeTarget := if w.action = .fade then min 100 w.fadeTarget else w.fadeTarget
      fadeDuration := if w.action = .fade then max 1 (min 60000 w.fadeDuration) else w.fadeDuration
      pattern := if w.action = .pattern then clampPattern w.pattern else w.pattern
      check := if w.action = .check then clampCheckSpec w.check else w.check } := by
  have hunless {k : CueAction} {α : Type} (a b : α) (h : w.action ≠ k) : (if w.action = k then a else b) = b := if_neg h
  unfold clampAction
  split
  · next h =>
    rw [if_pos h, if_pos h, hunless _ _ (by rw [h]; nofun), hunless _ _ (by rw [h]; nofun), clampNat, Nat.zero_max, clampNat]
  · next h =>
    rw [hunless _ _ (by rw [h]; nofun), hunless _ _ (by rw [h]; nofun), if_pos h, hunless _ _ (by rw [h]; nofun)]
  · next h =>
    rw [hunless _ _ (by rw [h]; nofun), hunless _ _ (by rw [h]; nofun), hunless _ _ (by rw [h]; nofun), if_pos h]
  all_goals
    next h =>
    rw [hunless _ _ (by rw [h]; nofun), hunless _ _ (by rw [h]; nofun), hunless _ _ (by rw [h]; nofun),
      hunless _ _ (by rw [h]; nofun)]

/-- R152 step 5: the values no clamp can mend. -/
theorem actionAllowed_iff (w : CueSpec) :
    actionAllowed w = true ↔ ¬((w.action = .preset ∧ 16 ≤ w.preset) ∨
      ((w.action = .source ∨ w.action = .prime) ∧ 32 ≤ w.entry) ∨ (w.action = .check ∧ w.check.kind = .off)) := by
  unfold actionAllowed
  cases h : w.action <;> simp

/-! ## The release of a cue's children -/

/-- R163: what a release does to each cue. -/
theorem State.releaseIfFired_cue (n : CueNo) (s : State) (m : CueNo) :
    (s.releaseIfFired n).cues[m] =
      if s.cues[n].state = .fired ∧ s.cues[m].state = .armed ∧ s.cues[m].spec.trigger = .after ∧
          s.cues[m].spec.parent = n.val then
        { s.cues[m] with state := .pending, countdown := none }
      else s.cues[m] := by
  unfold State.releaseIfFired
  by_cases hf : s.cues[n].state = .fired
  · have hrel : s.cues[m].releasedBy (fun k => k = n) = true ↔ s.cues[n].state = .fired ∧ s.cues[m].state = .armed ∧
        s.cues[m].spec.trigger = .after ∧ s.cues[m].spec.parent = n.val := by
      simp only [Cue.releasedBy_iff, hf, true_and, decide_eq_true_eq, exists_eq_right]
    rw [if_pos hf, State.releaseChildren_get]
    exact ite_eq_of_iff hrel rfl rfl
  · rw [if_neg hf, if_neg fun h => hf h.1]

/-- R163: cue n replaced after its children are released. -/
theorem State.releaseIfFired_modCue (n : CueNo) (f : Cue → Cue) (s : State) (m : CueNo) :
    ((s.releaseIfFired n).modCue n f).cues[m] =
      if m = n then f s.cues[n]
      else if s.cues[n].state = .fired ∧ s.cues[m].state = .armed ∧ s.cues[m].spec.trigger = .after ∧
          s.cues[m].spec.parent = n.val then
        { s.cues[m] with state := .pending, countdown := none }
      else s.cues[m] := by
  by_cases hm : m = n
  · subst hm
    rw [State.modCue_same, if_pos rfl, State.releaseIfFired_cue, if_neg]
    rintro ⟨hf, ha, -, -⟩
    exact absurd (hf.symm.trans ha) nofun
  · rw [State.modCue_other n m f _ hm, if_neg hm, State.releaseIfFired_cue]

theorem State.releaseIfFired_modCue_eq (n : CueNo) (f : Cue → Cue) (s : State) :
    (s.releaseIfFired n).modCue n f = { s with cues := ((s.releaseIfFired n).modCue n f).cues } := by
  rw [State.releaseIfFired_eq]
  rfl

theorem State.modCue_eq_set (n : CueNo) (f : Cue → Cue) (s : State) {c : Cue} (hc : f s.cues[n] = c) :
    s.modCue n f = { s with cues := s.cues.set n.val c n.isLt } := by
  unfold State.modCue
  rw [adjust_eq_set, hc]

/-! ## CUE writes -/

/-- R152: the checks of a CUE write on a cue of the part, in order. -/
theorem doWriteCue_of_lt (n : CueNo) (w : CueSpec) (s : State) :
    doWriteCue n.val w s =
      if !w.used then
        if s.hasChildren n then refuse s .inUse
        else accept (s.modCue n fun _ => Cue.powerOn) false (cueBytes Cue.powerOn)
      else if 6 ≤ w.screen then refuse s .badValue
      else if w.trigger = .after ∧ !s.parentAllowed n w then refuse s .badValue
      else if !(actionAllowed w) then refuse s .badValue
      else if s.cues[n].state ≠ .empty ∧ s.cues[n].spec.screen ≠ w.screen ∧ s.hasChildren n then refuse s .inUse
      else
        accept ((s.releaseIfFired n).modCue n fun _ => Cue.loaded (clampCue w)) (decide (clampCue w ≠ w))
          (cueBytes (Cue.loaded (clampCue w))) := dif_pos n.isLt

/-- Settles O31: the checks of a CUE write in their order, then the stored record and the released children. -/
theorem writeCueFollowsItsChecks : Obligations.WriteCueFollowsItsChecks := by
  intro tag w s hfree
  refine ⟨fun index h => exec_refused rfl hfree (dif_neg (Nat.not_lt.mpr h)), fun n => ?_⟩
  have hwrite := doWriteCue_of_lt n w s
  have hchildren := State.hasChildren_iff n s
  have hparent := State.parentAllowed_iff n w s
  have haction := actionAllowed_iff w
  dsimp only
  refine ⟨fun hu hc => ?_, fun hu hc => ?_, fun hu hbad => ?_, fun hu hlt hafter hact hheld => ?_,
    fun hu hlt hafter hact hheld => ?_⟩
  · rw [if_pos (by rw [hu]; rfl), if_pos (hchildren.mpr hc)] at hwrite
    exact exec_refused rfl hfree hwrite
  · rw [if_pos (by rw [hu]; rfl), if_neg fun h => hc (hchildren.mp h), State.modCue_eq_set n _ s rfl] at hwrite
    exact exec_ok rfl hfree hwrite
  · rw [if_neg (by rw [hu]; nofun)] at hwrite
    refine exec_refused rfl hfree (hwrite.trans ?_)
    by_cases hscreen : 6 ≤ w.screen
    · exact if_pos hscreen
    by_cases hpar : w.trigger = .after ∧ !s.parentAllowed n w
    · rw [if_neg hscreen, if_pos hpar]
    rw [if_neg hscreen, if_neg hpar, if_pos]
    rw [Bool.not_eq_true', Bool.eq_false_iff, ne_eq, haction, Decidable.not_not]
    refine (hbad.resolve_left hscreen).resolve_left fun ⟨ht, hp⟩ => hpar ⟨ht, ?_⟩
    rw [Bool.not_eq_true', Bool.eq_false_iff, ne_eq, hparent]
    exact hp
  all_goals
    have hafter' : ¬(w.trigger = .after ∧ (!s.parentAllowed n w) = true) := fun ⟨ht, hp⟩ =>
      hafter ⟨ht, fun hgood => by rw [hparent.mpr hgood] at hp; exact absurd hp nofun⟩
    rw [if_neg (by rw [hu]; nofun), if_neg (Nat.not_le.mpr hlt), if_neg hafter',
      if_neg (by rw [haction.mpr hact]; nofun)] at hwrite
  · obtain ⟨hloaded, hmoved, hchild⟩ := hheld
    exact exec_refused rfl hfree (hwrite.trans (if_pos ⟨hloaded, hmoved, hchildren.mpr hchild⟩))
  · rw [if_neg fun ⟨hl, hm, hc⟩ => hheld ⟨hl, hm, hchildren.mp hc⟩] at hwrite
    refine ⟨clampCue w, Cue.loaded (clampCue w), _, ?_, rfl, exec_stored rfl hfree hwrite ?_,
      State.releaseIfFired_modCue_eq n _ s, fun m => State.releaseIfFired_modCue n _ s m⟩
    · rw [clampCue, clampAction_eq, clampTrigger_eq]
      rfl
    · rw [decide_eq_true_iff]

/-! ## GO, CANCEL and ENABLE -/

theorem doGo_of_lt (n : CueNo) (s : State) :
    doGo n.val s =
      if s.cues[n].state = .empty then refuse s .empty
      else if s.cues[n].state = .disabled then refuse s .badValue
      else accept (s.modCue n fun c => { c with go := true }) false
        (cueBytes (s.modCue n fun c => { c with go := true }).cues[n]) := by
  refine (dif_pos n.isLt).trans ?_
  dsimp only [Fin.eta]
  cases s.cues[n].state <;> rfl

theorem doCancel_of_lt (n : CueNo) (s : State) :
    doCancel n.val s =
      if s.cues[n].state = .empty then refuse s .empty
      else if s.cues[n].state = .disabled then accept s false (cueBytes s.cues[n])
      else
        accept ((s.releaseIfFired n).modCue n fun c => { c with state := .disabled, countdown := none, go := false })
          false (cueBytes
            ((s.releaseIfFired n).modCue n fun c => { c with state := .disabled, countdown := none, go := false }).cues[n]) := by
  refine (dif_pos n.isLt).trans ?_
  dsimp only [Fin.eta]
  cases s.cues[n].state <;> rfl

theorem doEnable_of_lt (n : CueNo) (s : State) :
    doEnable n.val s =
      if s.cues[n].state = .empty then refuse s .empty
      else if s.cues[n].state = .disabled then
        accept (s.modCue n fun c => { c with state := .pending }) false
          (cueBytes (s.modCue n fun c => { c with state := .pending }).cues[n])
      else accept s false (cueBytes s.cues[n]) := by
  refine (dif_pos n.isLt).trans ?_
  dsimp only [Fin.eta]
  cases s.cues[n].state <;> rfl

/-- Settles O32: the three commands by the state of the cue. -/
theorem goCancelEnableFollowTheCueState : Obligations.GoCancelEnableFollowTheCueState := by
  intro tag s hfree
  refine ⟨fun n h => ⟨exec_refused rfl hfree (dif_neg (Nat.not_lt.mpr h)),
    exec_refused rfl hfree (dif_neg (Nat.not_lt.mpr h)), exec_refused rfl hfree (dif_neg (Nat.not_lt.mpr h))⟩,
    fun n c hc => ?_⟩
  subst hc
  have hgo := doGo_of_lt n s
  have hcancel := doCancel_of_lt n s
  have henable := doEnable_of_lt n s
  refine ⟨fun h => ?_, fun h => ?_, fun hloaded hon => ?_⟩
  · rw [if_pos h] at hgo hcancel henable
    exact ⟨exec_refused rfl hfree hgo, exec_refused rfl hfree hcancel, exec_refused rfl hfree henable⟩
  · rw [if_neg (by rw [h]; nofun), if_pos h] at hgo hcancel henable
    rw [State.modCue_same, State.modCue_eq_set n _ s rfl] at henable
    exact ⟨exec_refused rfl hfree hgo, exec_ok rfl hfree hcancel, exec_ok rfl hfree henable⟩
  · rw [if_neg hloaded, if_neg hon] at hgo hcancel henable
    rw [State.modCue_same, State.modCue_eq_set n _ s rfl] at hgo
    rw [State.releaseIfFired_modCue, if_pos rfl] at hcancel
    exact ⟨exec_ok rfl hfree hgo, exec_ok rfl hfree henable, _, exec_ok rfl hfree hcancel,
      State.releaseIfFired_modCue_eq n _ s, fun m => State.releaseIfFired_modCue n _ s m⟩

/-! ## The rearm of a backward step -/

/-- R161, R163: what a rearm does to each cue; no cue is both rearmed and released, for one is FIRED or MISSED and the
other ARMED. -/
theorem State.rearmCues_cue (i : ScreenNo) (t : ScreenTime) (s : State) (n : CueNo) :
    (s.rearmCues i t).cues[n] =
      if s.cues[n].rearmedBy i t then s.cues[n].toPending
      else if s.cues[n].releasedBy fun p => s.cues[p].rearmedBy i t && decide (s.cues[p].state = .fired) then
        s.cues[n].toPending
      else s.cues[n] := by
  unfold State.rearmCues
  rw [State.releaseChildren_get, State.rearmed_get]
  by_cases h : s.cues[n].rearmedBy i t = true
  · have hnot : CueState.pending ≠ .armed := nofun
    rw [if_pos h, if_pos h, if_neg fun hrel => hnot ((Cue.releasedBy_iff _ _).mp hrel).1]
  · rw [if_neg h, if_neg h]

/-- R51: a step's screen. -/
theorem State.stepClock_screen (i : ScreenNo) (d : Int) (s : State) (h : d ≠ 0) :
    (s.stepClock i d).screens[i] =
      { s.screens[i] with
        clock := { s.screens[i].clock with base := s.screens[i].clock.base + BitVec.ofInt 32 d }
        tallies := s.screens[i].tallies.set 2 (min (s.screens[i].tallies[2] + 1) 65535) } := by
  rw [State.stepClock_screens i d s h, adjust_same]
  rfl

/-- R49, R51: a step moves the time by its amount. -/
theorem State.stepClock_now (i : ScreenNo) (d : Int) (s : State) (h : d ≠ 0) :
    (s.stepClock i d).stNow i = s.stNow i + BitVec.ofInt 32 d := by
  unfold State.stNow Clock.now
  rw [State.stepClock_screen i d s h]
  show _ + BitVec.ofInt 32 d + _ = _ + _ + BitVec.ofInt 32 d
  rw [BitVec.add_assoc, BitVec.add_comm (BitVec.ofInt 32 d), BitVec.add_assoc]

/-- R51: a backward step's cues. -/
theorem State.stepClock_cues_backward (i : ScreenNo) (d : Int) (s : State) (h : d < 0) :
    (s.stepClock i d).cues = (s.rearmCues i (s.stNow i + BitVec.ofInt 32 d)).cues := by
  have hcues (t : ScreenTime) {u : State} (hu : u.cues = s.cues) : (u.rearmCues i t).cues = (s.rearmCues i t).cues := by
    refine table_ext fun n => ?_
    rw [State.rearmCues_cue, State.rearmCues_cue, hu]
  have hnow := State.stepClock_now i d s (Int.ne_of_lt h)
  unfold State.stepClock at hnow ⊢
  rw [if_neg (Int.ne_of_lt h)] at hnow ⊢
  dsimp only at hnow ⊢
  rw [if_pos h] at hnow ⊢
  rw [hcues _ (by rfl)]
  rw [State.stNow, State.rearmCues_eq] at hnow
  exact congrArg (fun t => (s.rearmCues i t).cues) hnow

/-- Settles O33: the step's own change, then the cues by the sign of the step. -/
theorem backwardStepRearmsCues : Obligations.BackwardStepRearmsCues := by
  intro i d s hlo hhi
  have hrearmed (n : CueNo) := Cue.rearmedBy_iff s.cues[n] i (s.stNow i + BitVec.ofInt 32 d)
  refine ⟨fun h => by rw [h, State.stepClock_zero], fun hd => ⟨?_, ?_, State.stepClock_eq i d s, fun j hj =>
    State.stepClock_other i j d s hj⟩, fun h => State.stepClock_cues_forward i d s (Int.le_of_lt h), fun h n => ?_⟩
  · exact State.stepClock_now i d s hd
  · exact State.stepClock_screen i d s hd
  · rw [State.stepClock_cues_backward i d s h, State.rearmCues_cue]
    refine ite_eq_of_iff (hrearmed n) rfl (ite_eq_of_iff ?_ rfl rfl)
    simp only [Cue.releasedBy_iff, Bool.and_eq_true, decide_eq_true_eq, hrearmed]

end Sys2Proof.Machine
end

section
/-! PROOFS. The SCREEN write and the screen reset (R26, R29, R35, R48, R52, R53, R66, R118, R164, R169, R171). -/

namespace Sys2Proof.Machine

/-! ## Tallies charged to entries -/

/-- R25: an entry with `n` more on the tally `t`. -/
def StreamEntry.charged (x : StreamEntry) (t : EntryTally) (n : Nat) : StreamEntry :=
  { x with tallies := if n = 0 then x.tallies else adjust x.tallies t.place (satAdd · n) }

theorem satAdd_satAdd (a m n : Nat) : satAdd (satAdd a m) n = satAdd a (m + n) := by
  show min (min (a + m) 65535 + n) 65535 = min (a + (m + n)) 65535
  omega

theorem StreamEntry.charged_charged (x : StreamEntry) (t : EntryTally) (m n : Nat) :
    (x.charged t m).charged t n = x.charged t (m + n) := by
  unfold StreamEntry.charged
  by_cases hm : m = 0
  · rw [if_pos hm, hm, Nat.zero_add]
  by_cases hn : n = 0
  · rw [if_pos hn, hn, Nat.add_zero]
  rw [if_neg hm, if_neg hn, if_neg (by omega), adjust_adjust]
  simp only [satAdd_satAdd]

theorem State.bumpEntry_get (b e : EntryNo) (t : EntryTally) (n : Nat) (s : State) (hn : n ≠ 0) :
    (s.bumpEntry b t n).entries[e] = s.entries[e].charged t (if b = e then n else 0) := by
  unfold State.bumpEntry StreamEntry.charged
  by_cases h : b = e
  · subst h
    rw [State.modEntry_same, if_pos rfl, if_neg hn]
  · rw [State.modEntry_other b e _ s (Ne.symm h), if_neg h, if_pos rfl]

/-- R29: QUOTA_DROP of an entry rises by the number of its freed blocks. -/
theorem State.chargeTrim_get (freed : List Block) (s : State) (e : EntryNo) :
    (s.chargeTrim freed).entries[e] = s.entries[e].charged .quotaDrop (freed.countP fun b => b.entry = e) := by
  unfold State.chargeTrim
  induction freed generalizing s with
  | nil => rfl
  | cons b rest ih =>
    rw [List.foldl_cons, ih, State.bumpEntry_get b.entry e _ 1 s Nat.one_ne_zero, StreamEntry.charged_charged, List.countP_cons,
      Nat.add_comm]
    simp only [decide_eq_true_eq]

theorem State.chargeTrim_eq (freed : List Block) (s : State) :
    s.chargeTrim freed = { s with entries := (s.chargeTrim freed).entries } := by
  unfold State.chargeTrim
  induction freed generalizing s with
  | nil => rfl
  | cons b rest ih =>
    rw [List.foldl_cons]
    exact (ih _).trans rfl

/-- R25: a charge changes the tally's own place alone. -/
theorem StreamEntry.charged_parts (x : StreamEntry) (t : EntryTally) (n : Nat) :
    { x.charged t n with tallies := x.tallies } = x ∧
      (∀ k : Fin 13, k ≠ t.place → (x.charged t n).tallies[k] = x.tallies[k]) ∧
      (x.charged t n).tallies[t.place] = if n = 0 then x.tallies[t.place] else min (x.tallies[t.place] + n) 65535 := by
  refine ⟨rfl, fun k hk => ?_, ?_⟩ <;> show (if n = 0 then x.tallies else _)[_] = _ <;> by_cases h : n = 0
  · rw [if_pos h]
  · rw [if_neg h, adjust_other _ _ _ _ hk]
  · rw [if_pos h, if_pos h]
  · rw [if_neg h, if_neg h, adjust_same]
    rfl

/-! ## SCREEN writes -/

/-- R169: the state a SCREEN write leaves, its CLOCK notice aside. -/
def State.written (i : ScreenNo) (r : ScreenSettings) (s : State) : State :=
  (s.storeTrimmed i r).modScreen i fun x => x.settled s.screens[i].settings.clockMode r

theorem State.storeScreen_eq (i : ScreenNo) (r : ScreenSettings) (s : State) :
    s.storeScreen i r =
      if r.clockMode = s.screens[i].settings.clockMode then s.written i r else (s.written i r).raiseClock i 0 :=
  State.settleClock_eq i _ r (s.storeTrimmed i r)

/-- R29, R35, R52, R53, R132, R169: the screen a SCREEN write leaves. -/
def Screen.written (x : Screen) (now : Nat) (r : ScreenSettings) : Screen :=
  Screen.settled { x.storeSettings now r with playout := (x.storeSettings now r).playout.trimmed r.quota }
    x.settings.clockMode r

theorem State.written_screen (i : ScreenNo) (r : ScreenSettings) (s : State) :
    (s.written i r).screens[i] = s.screens[i].written s.wordClock r := by
  unfold State.written
  rw [State.modScreen_same, State.storeTrimmed_screen]
  rfl

theorem State.trimFreed_length (p : Playout) (quota : Nat) :
    (p.trimFreed quota).length = (p.program.length - quota) + (p.standby.length - (quota - p.program.length)) := by
  rw [Playout.trimFreed, List.length_append, List.length_drop, List.length_drop, Nat.add_comm]

theorem Screen.storeSettings_eq (x : Screen) (now : Nat) (r : ScreenSettings) :
    x.storeSettings now r =
      { x with
        settings := r
        playout :=
          { x.playout with
            nextBoundary := if r.phase = x.settings.phase then x.playout.nextBoundary else nextCount now r.phase
            voidedAt := if r.phase ≠ x.settings.phase ∧ x.playout.nextBoundary = now then some now
              else x.playout.voidedAt }
        meterCount := if r.meterInterval = x.settings.meterInterval then x.meterCount else 0 } := by
  unfold Screen.storeSettings Playout.movePhase
  by_cases h : r.phase = x.settings.phase
  · simp only [h, if_true, ne_eq, not_true_eq_false, false_and, if_false]
  · simp only [h, if_false, ne_eq, not_false_eq_true, true_and]

theorem Screen.settled_eq (x : Screen) (old : ClockMode) (r : ScreenSettings) :
    x.settled old r =
      { x with
        playout :=
          { x.playout with resync := x.playout.resync || decide (r.clockMode ≠ old ∧ r.clockMode = .selfTimed) }
        clock := if r.clockMode = old then x.clock.limited r
          else { x.clock.cleared with state := ClockState.starting r.clockMode } } := by
  unfold Screen.settled Screen.changeMode
  by_cases h : r.clockMode = old
  · rw [if_pos h, if_pos h, decide_eq_false fun hm => hm.1 h, Bool.or_false]
  · rw [if_neg h, if_neg h]
    by_cases hs : r.clockMode = .selfTimed
    · rw [if_pos hs, decide_eq_true ⟨h, hs⟩, Bool.or_true]
    · rw [if_neg hs, decide_eq_false fun hm => hs hm.2, Bool.or_false]

/-- R29, R35, R52, R53, R132: the screen a SCREEN write leaves, field by field. -/
theorem Screen.written_eq (x : Screen) (now : Nat) (r : ScreenSettings) :
    x.written now r =
      { x with
        settings := r
        playout :=
          { x.playout with
            program := x.playout.program.take r.quota
            standby := x.playout.standby.take (r.quota - x.playout.program.length)
            resync := x.playout.resync || decide (r.clockMode ≠ x.settings.clockMode ∧ r.clockMode = .selfTimed)
            nextBoundary := if r.phase = x.settings.phase then x.playout.nextBoundary else nextCount now r.phase
            voidedAt := if r.phase ≠ x.settings.phase ∧ x.playout.nextBoundary = now then some now
              else x.playout.voidedAt }
        clock := if r.clockMode = x.settings.clockMode then x.clock.limited r
          else { x.clock.cleared with state := ClockState.starting r.clockMode }
        meterCount := if r.meterInterval = x.settings.meterInterval then x.meterCount else 0 } := by
  unfold Screen.written
  rw [Screen.settled_eq, Screen.storeSettings_eq]
  rfl

/-- R29, R169: what a SCREEN write changes, and the entries its trim charges. -/
theorem State.written_eq (i : ScreenNo) (r : ScreenSettings) (s : State) :
    s.written i r =
      { s with
        entries := (s.written i r).entries
        freeSlots := s.freeSlots + (s.screens[i].playout.trimFreed r.quota).length
        screens := s.screens.set i.val (s.screens[i].written s.wordClock r) i.isLt } ∧
    ∀ e : EntryNo, (s.written i r).entries[e] =
      s.entries[e].charged .quotaDrop ((s.screens[i].playout.trimFreed r.quota).countP fun b => b.entry = e) := by
  have hscreens : (s.written i r).screens = s.screens.set i.val (s.screens[i].written s.wordClock r) i.isLt := by
    refine table_ext fun j => ?_
    by_cases h : j = i
    · subst h
      rw [State.written_screen]
      exact (Vector.getElem_set_self _).symm
    · rw [State.written, State.modScreen_other _ _ _ _ h, State.storeTrimmed_other _ _ _ _ h]
      exact (Vector.getElem_set_ne _ _ fun he => h (Fin.ext he.symm)).symm
  have hfreed : (s.modScreen i fun x => x.storeSettings s.wordClock r).screens[i].playout.trimFreed r.quota =
      s.screens[i].playout.trimFreed r.quota := by
    rw [State.modScreen_same, Screen.storeSettings_eq]
    rfl
  refine ⟨?_, fun e => ?_⟩
  · rw [← hscreens]
    unfold State.written State.storeTrimmed
    rw [State.trimQuota_eq, hfreed, State.chargeTrim_eq]
    rfl
  · show (s.storeTrimmed i r).entries[e] = _
    rw [State.storeTrimmed, State.trimQuota_eq, hfreed, State.chargeTrim_get]
    rfl

theorem doWriteScreen_of_lt (i : ScreenNo) (w : ScreenSettings) (s : State) :
    doWriteScreen i.val w s =
      if s.phaseHeld i (clampSettings w).phase then refuse s .inUse
      else accept (s.storeScreen i (clampSettings w)) (decide (clampSettings w ≠ w)) (settingsBytes (clampSettings w)) :=
  dif_pos i.isLt

theorem State.activeEntry_isSome (i : ScreenNo) (s : State) :
    (s.activeEntry i).isSome = true ↔ ∃ e : EntryNo, s.entries[e].state = .active ∧ s.entries[e].screen = i := by
  cases h : s.activeEntry i with
  | some e => exact iff_of_true rfl ⟨e, State.activeEntry_some h⟩
  | none => exact iff_of_false nofun fun ⟨e, he⟩ => State.activeEntry_none h e he

/-- R35: whether a phase may not change. -/
theorem State.phaseHeld_iff (i : ScreenNo) (phase : Nat) (s : State) :
    s.phaseHeld i phase = true ↔ phase ≠ s.screens[i].settings.phase ∧
      ((∃ e : EntryNo, s.entries[e].state = .active ∧ s.entries[e].screen = i) ∨ s.screens[i].playout.mode = .check) := by
  unfold State.phaseHeld
  rw [Bool.and_eq_true, bne_iff_ne, Bool.or_eq_true, State.activeEntry_isSome, decide_eq_true_iff]

/-- R53, R64: the CLOCK notice of a changed mode. -/
theorem State.raiseClock_written (i : ScreenNo) (r : ScreenSettings) (s : State)
    (h : r.clockMode ≠ s.screens[i].settings.clockMode) :
    (s.written i r).raiseClock i 0 = (s.written i r).offerNotice
      { kind := .clock, screen := i, subject := 0, state := if r.clockMode = .referenced then 1 else 0
        valueA := 0, valueB := 0, st := s.stNow i } := by
  have hclock : (s.written i r).screens[i].clock =
      { s.screens[i].clock.cleared with state := ClockState.starting r.clockMode } := by
    rw [State.written_screen, Screen.written_eq]
    exact if_neg h
  unfold State.raiseClock State.raise State.stNow
  rw [hclock]
  cases r.clockMode <;> rfl

/-- Settles O34: the refusal of a changed phase in use, then what the write leaves and its notice. -/
theorem writeScreenStoresElevenSettings : Obligations.WriteScreenStoresElevenSettings := by
  intro tag w s hfree
  refine ⟨fun index h => exec_refused rfl hfree (dif_neg (Nat.not_lt.mpr h)), fun i r x hx hr => ?_⟩
  subst hx
  have hclamp : clampSettings w = r := by
    rw [hr]
    simp only [clampSettings, clampNat, clampInt, Nat.zero_max]
  have hwrite := doWriteScreen_of_lt i w s
  rw [hclamp] at hwrite
  dsimp only
  rw [← State.phaseHeld_iff]
  refine ⟨fun h => exec_refused rfl hfree (hwrite.trans (if_pos h)), fun h => ?_⟩
  have hrange : r.phase % 48 = r.phase := Nat.mod_eq_of_lt (by rw [hr]; exact Nat.lt_succ_of_le (Nat.min_le_left ..))
  obtain ⟨hwritten, hentries⟩ := s.written_eq i r
  rw [State.trimFreed_length, ← Nat.add_assoc, Screen.written_eq] at hwritten
  rw [if_neg h, State.storeScreen_eq] at hwrite
  refine ⟨_, s.written i r, _, _, _, exec_stored rfl hfree hwrite (by rw [decide_eq_true_iff]), fun h => if_pos h,
    fun h => ?_, fun h => if_pos h, fun h => ?_, fun e freed hfreed => ?_, hwritten, rfl, fun h => if_pos h, fun h => ?_⟩
  · rw [if_neg h]
    obtain ⟨hlt, hle, hmod⟩ := nextCount_spec s.wordClock r.phase
    exact ⟨hlt, hle, hmod.trans hrange⟩
  · rw [if_neg h]
    cases r.clockMode <;> rfl
  · rw [hentries e, hfreed]
    exact StreamEntry.charged_parts _ .quotaDrop _
  · have hreports : (s.written i r).reports = s.reports := by rw [hwritten]
    rw [if_neg h, State.raiseClock_written i r s h]
    refine ⟨rfl, fun hspace => ?_, fun hfull => State.offerNotice_of_full _ _ (by rw [hreports]; exact Nat.not_lt.mpr hfull)⟩
    rw [State.offerNotice_of_space _ _ (by rw [hreports]; exact hspace), State.place_reports, hreports]

/-! ## The screen reset -/

/-- R26, R48, R164, R171: a reset once a running check is stopped, its CLOCK notice aside. -/
def State.resetBody (i : ScreenNo) (s : State) : State := (s.resetShared i).modScreen i Screen.afterReset

/-- R48, R171: what a reset leaves of a screen on which no check runs. -/
def Screen.emptied (x : Screen) : Screen :=
  { x.afterReset with playout := { x.playout.afterReset with program := [], standby := [] } }

/-- R171: what a reset changes. -/
theorem State.resetBody_eq (i : ScreenNo) (s : State) :
    s.resetBody i =
      { s with
        entries := (s.resetEntries i).entries
        cues := (s.resetCues i).cues
        freeSlots := s.freeSlots + s.screens[i].playout.program.length + s.screens[i].playout.standby.length
        screens := adjust s.screens i Screen.emptied } := by
  have hstandby : (s.freeProgram i).screens[i].playout.standby = s.screens[i].playout.standby := by
    rw [State.freeProgram_screen]
  have hscreens : (s.resetBody i).screens = adjust s.screens i Screen.emptied := by
    show adjust (adjust (adjust s.screens i fun x => { x with playout := { x.playout with program := [] } }) i
      fun x => { x with playout := { x.playout with standby := [] } }) i Screen.afterReset = _
    rw [adjust_adjust, adjust_adjust]
    rfl
  rw [← hscreens, ← hstandby]
  rfl

/-- R174, R175: a notice of the screen before the reset is the notice after it. -/
theorem State.resetBody_offerNotice (n : Notice) (s : State) :
    (s.offerNotice n).resetBody n.screen = (s.resetBody n.screen).offerNotice n := by
  have hreports : (s.resetBody n.screen).reports = s.reports := by rw [State.resetBody_eq]
  by_cases h : s.reports.length < 32
  · rw [State.offerNotice_of_space s n h, State.offerNotice_of_space _ n (by rwa [hreports]), State.resetBody_eq,
      State.resetBody_eq]
    unfold State.place State.startSending
    cases s.sendingSeq <;> cases s.reports <;> rfl
  · rw [State.offerNotice_of_full s n h, State.offerNotice_of_full _ n (by rwa [hreports]), State.resetBody_eq,
      State.resetBody_eq]
    unfold State.modScreen
    simp only [adjust_adjust, adjust_same]
    rfl

/-- R117: a screen whose check is stopped. -/
def Screen.stopped (x : Screen) : Screen :=
  { x with
    playout := { x.playout with mode := .show }
    signal :=
      { x.signal with
        check := { x.signal.check with running := false, count := none }
        results := tabulate fun k => x.signal.results[k].stop } }

/-- R118: a screen once a running check is stopped. -/
def Screen.checkStopped (x : Screen) : Screen := if x.signal.check.running then x.stopped else x

/-- R118: the stop of a reset. -/
theorem State.stopForReset_eq (i : ScreenNo) (s : State) :
    s.stopForReset i =
      if s.screens[i].signal.check.running then
        (s.modScreen i Screen.checkStopped).offerNotice
          { kind := .checkDone, screen := i, subject := 0, state := 1
            valueA := ((List.finRange 16).filter fun k =>
              s.screens[i].checkStopped.signal.results[k].state = .pass).length
            valueB := ((List.finRange 16).filter fun k =>
              s.screens[i].checkStopped.signal.results[k].state = .fail).length
            st := s.stNow i }
      else s.modScreen i Screen.checkStopped := by
  unfold State.stopForReset
  by_cases h : s.screens[i].signal.check.running = true
  · have hstop : s.screens[i].checkStopped = s.screens[i].stopped := if_pos h
    rw [if_pos h, if_pos h, State.endCheck_eq i s _ rfl, hstop, State.modScreen_congr i s hstop]
    rfl
  · have hidle : s.screens[i].checkStopped = s.screens[i] := if_neg h
    rw [if_neg h, if_neg h, State.modScreen_congr i (g := fun x => x) s hidle, State.modScreen_id]

/-- R48, R171: the screen a reset leaves. -/
def Screen.resetLeft (x : Screen) : Screen := x.checkStopped.emptied

/-- R171: the state a reset leaves, its notices aside. -/
def State.resetLeft (i : ScreenNo) (s : State) : State := (s.modScreen i Screen.checkStopped).resetBody i

/-- R117, R118: the stop of a check changes the mode and the check. -/
theorem Screen.checkStopped_eq (x : Screen) :
    x.checkStopped = { x with
      playout := { x.playout with mode := x.checkStopped.playout.mode }
      signal :=
        { x.signal with
          check :=
            { x.signal.check with
              running := false, count := if x.signal.check.running then none else x.signal.check.count }
          results := x.checkStopped.signal.results } } := by
  unfold Screen.checkStopped
  by_cases h : x.signal.check.running = true
  · simp only [if_pos h]
    rfl
  · simp only [if_neg h, ← Bool.eq_false_iff.mpr h]

/-- R118: the results of the reset screen. -/
theorem Screen.checkStopped_result (x : Screen) (k : FeedNo) :
    x.checkStopped.signal.results[k] =
      if x.signal.check.running = true ∧ (x.signal.results[k].state = .running ∨ x.signal.results[k].state = .untested) then
        { x.signal.results[k] with state := .skipped }
      else x.signal.results[k] := by
  unfold Screen.checkStopped
  by_cases h : x.signal.check.running = true
  · simp only [h, if_true, true_and]
    show (tabulate fun k => x.signal.results[k].stop)[k] = _
    rw [tabulate_get, ResultEntry.stop_eq]
  · rw [if_neg h, if_neg fun hr => h hr.1]

/-- R48, R66, R83, R105, R118, R126, R171: the screen a reset leaves, but for its results. -/
theorem Screen.resetLeft_eq (x : Screen) :
    x.resetLeft = { x with
      playout := { x.playout with program := [], standby := [], resync := true, mode := .show }
      tallies := Vector.replicate 7 0
      clock := x.clock.afterReset x.settings.clockMode
      level := { x.level with muted := true, fade := none }
      feeds := tabulate fun k => x.feeds[k].afterReset
      signal :=
        { x.signal with
          noise := 1, tonePhase := 0, pattern := none
          check :=
            { x.signal.check with
              running := false, count := if x.signal.check.running then none else x.signal.check.count }
          results := x.checkStopped.signal.results }
      lanes := tabulate fun l => x.lanes[l].clearTallies
      channelHolds := Vector.replicate 8 0
      meterCount := 0
      records := Vector.replicate 58 AlarmRecord.powerOn
      markers := [] } := by
  unfold Screen.resetLeft
  rw [Screen.checkStopped_eq]
  rfl

/-- R88: a bank at rest has its coefficients. -/
theorem restBank_coeffs (bank : List EqSection) : (restBank bank).map EqSection.coeffs = bank.map EqSection.coeffs := by
  rw [restBank, List.map_map]
  rfl

theorem State.resetLeft_eq (i : ScreenNo) (s : State) :
    s.resetLeft i =
      { s with
        entries := (s.resetEntries i).entries
        cues := (s.resetCues i).cues
        freeSlots := s.freeSlots + s.screens[i].playout.program.length + s.screens[i].playout.standby.length
        screens := s.screens.set i.val s.screens[i].resetLeft i.isLt } := by
  unfold State.resetLeft
  rw [State.resetBody_eq, State.modScreen_same, Screen.checkStopped_eq, State.modScreen_screens, adjust_adjust,
    adjust_eq_set]
  rfl

theorem State.resetLeft_screen (i : ScreenNo) (s : State) : (s.resetLeft i).screens[i] = s.screens[i].resetLeft := by
  rw [State.resetLeft_eq]
  exact Vector.getElem_set_self _

/-- R118, R171: the state a reset leaves, with CHECK_DONE of a stopped check. -/
theorem State.resetBody_stopForReset (i : ScreenNo) (s : State) :
    (s.stopForReset i).resetBody i =
      if s.screens[i].signal.check.running then
        (s.resetLeft i).offerNotice
          { kind := .checkDone, screen := i, subject := 0, state := 1
            valueA := ((List.finRange 16).filter fun k => s.screens[i].resetLeft.signal.results[k].state = .pass).length
            valueB := ((List.finRange 16).filter fun k => s.screens[i].resetLeft.signal.results[k].state = .fail).length
            st := s.stNow i }
      else s.resetLeft i := by
  rw [State.stopForReset_eq]
  split
  · exact State.resetBody_offerNotice _ _
  · rfl

/-- R26: the entries of the screen forget their tallies and their last sequence. -/
theorem State.resetLeft_entry (i : ScreenNo) (s : State) (e : EntryNo) :
    (s.resetLeft i).entries[e] =
      if s.entries[e].screen = i ∧ s.entries[e].state ≠ .unused then
        { s.entries[e] with state := .inactive, lastSeq := none, tallies := Vector.replicate 13 0 }
      else s.entries[e] := by
  rw [State.resetLeft_eq]
  exact State.resetEntries_get i s e

/-- R164: the cues of the screen lose their GO, and are PENDING unless EMPTY or DISABLED. -/
theorem State.resetLeft_cue (i : ScreenNo) (s : State) (n : CueNo) :
    (s.resetLeft i).cues[n] =
      if s.cues[n].spec.screen = i.val ∧ s.cues[n].state = .disabled then { s.cues[n] with go := false }
      else if s.cues[n].spec.screen = i.val ∧ s.cues[n].state ≠ .empty then
        { s.cues[n] with state := .pending, countdown := none, go := false }
      else s.cues[n] := by
  rw [State.resetLeft_eq]
  show (s.resetCues i).cues[n] = _
  rw [State.resetCues, State.mapCues_get]
  by_cases hs : s.cues[n].spec.screen = i.val
  · rw [if_pos hs]
    unfold Cue.afterReset
    split <;> next h => simp only [hs, h, reduceCtorEq, ne_eq, not_true_eq_false, not_false_eq_true, and_true, and_false,
      if_true, if_false]
  · rw [if_neg hs, if_neg fun h => hs h.1, if_neg fun h => hs h.1]

/-- R66: a reset raises CLOCK when it changed the clock state. -/
theorem State.resetScreen_eq (i : ScreenNo) (s : State) :
    s.resetScreen i =
      if s.screens[i].clock.state = (if s.screens[i].settings.clockMode = .referenced then .acquiring else .unreferenced) then
        (s.stopForReset i).resetBody i
      else ((s.stopForReset i).resetBody i).offerNotice
        { kind := .clock, screen := i, subject := 0
          state := if s.screens[i].settings.clockMode = .referenced then 1 else 0, valueA := 0, valueB := 0, st := 0 } := by
  have hscreen : ((s.stopForReset i).resetBody i).screens[i].clock = s.screens[i].resetLeft.clock := by
    rw [State.resetBody_stopForReset]
    split
    · rw [State.offerNotice_screen_clock, State.resetLeft_screen]
    · rw [State.resetLeft_screen]
  have hclock : s.screens[i].resetLeft.clock = s.screens[i].clock.afterReset s.screens[i].settings.clockMode :=
    congrArg Screen.clock s.screens[i].resetLeft_eq
  show State.raiseIfChanged i _ ((s.stopForReset i).resetBody i) = _
  unfold State.raiseIfChanged State.raiseClock State.raise State.stNow
  rw [hscreen, hclock]
  refine ite_eq_of_iff ?_ rfl ?_
  · rw [eq_comm]
    cases s.screens[i].settings.clockMode <;> exact Iff.rfl
  · cases s.screens[i].settings.clockMode <;> rfl

/-- Settles O35: the stop of a running check, the reset, and the two notices in their order. -/
theorem screenResetKeepsTheLoadedSettings : Obligations.ScreenResetKeepsTheLoadedSettings := by
  intro tag s hfree
  refine ⟨fun screen h => exec_refused rfl hfree (dif_neg (Nat.not_lt.mpr h)), fun i x starting hx hstarting => ?_⟩
  subst hx
  have hreset : doScreenReset i.val s = accept (s.resetScreen i) false (beNat 1 i.val) := dif_pos i.isLt
  rw [beNat_one] at hreset
  have hleft := Screen.resetLeft_eq s.screens[i]
  have hlast : s.resetScreen i = _ := s.resetScreen_eq i
  rw [← hstarting] at hlast
  refine ⟨s.resetScreen i, (s.stopForReset i).resetBody i, s.resetLeft i, s.screens[i].resetLeft,
    exec_ok rfl hfree hreset, (congrArg Screen.settings hleft :), (congrArg Screen.playout hleft :), fun k => ?tallies,
    ?clock, (congrArg Screen.render hleft :), (congrArg Screen.level hleft :), fun k => ?feeds,
    congrArg (fun y => y.signal.noise) hleft, congrArg (fun y => y.signal.tonePhase) hleft,
    congrArg (fun y => y.signal.pattern) hleft, congrArg (fun y => y.signal.check) hleft,
    s.screens[i].checkStopped_result, fun l => ?lanes, fun c => ?holds, (congrArg Screen.meterCount hleft :),
    fun k => ?records, (congrArg Screen.profiles hleft :), (congrArg Screen.markers hleft :),
    (congrArg Screen.noticeLost hleft :), State.resetLeft_entry i s, State.resetLeft_cue i s, State.resetLeft_eq i s,
    s.resetBody_stopForReset i, hlast⟩
  case tallies => exact Vector.getElem_replicate _
  case clock =>
    rw [hleft, hstarting]
    cases s.screens[i].settings.clockMode <;> rfl
  case feeds =>
    have hfeed : s.screens[i].resetLeft.feeds[k] = s.screens[i].feeds[k].afterReset := by
      rw [hleft]
      exact tabulate_get _ k
    rw [hfeed]
    exact ⟨restBank_coeffs _, restBank_coeffs _, bankAtRest_restBank _, bankAtRest_restBank _, rfl, rfl, rfl, rfl, rfl, rfl⟩
  case lanes =>
    rw [hleft]
    exact tabulate_get _ l
  case holds => exact Vector.getElem_replicate _
  case records => exact Vector.getElem_replicate _

end Sys2Proof.Machine
end

section
/-! PROOFS. Reads, lists, status, meter and tallies (R116, R125, R131, R169, R172, R173, R175). -/

namespace Sys2Proof.Machine

/-! ## Bytes -/

theorem table_toList {α : Type} {n : Nat} (v : Vector α n) : v.toList = (List.finRange n).map fun k => v[k] := by
  refine List.ext_getElem ?_ fun k hk hk' => ?_
  · rw [List.length_map, List.length_finRange, Vector.length_toList]
  · rw [List.getElem_map, List.getElem_finRange]
    exact Vector.getElem_toList hk

theorem beBytes_one (v : Int) : beBytes 1 v = [BitVec.ofInt 8 v] := by simp [beBytes]

/-- R4: four bytes of a 32-bit number. -/
theorem beNat_four (v : BitVec 32) : beNat 4 v.toNat = fourBytes v := by
  have hbyte (k : Nat) : BitVec.ofInt 8 ((v.toNat : Int) / (256 : Int) ^ k) = (v >>> (8 * k)).setWidth 8 := by
    refine BitVec.eq_of_toNat_eq ?_
    rw [show (256 : Int) ^ k = ((2 ^ (8 * k) : Nat) : Int) by rw [Nat.pow_mul, Int.natCast_pow]; rfl, ← Int.natCast_ediv,
      BitVec.ofInt_natCast, BitVec.toNat_ofNat, BitVec.toNat_setWidth, BitVec.toNat_ushiftRight,
      Nat.shiftRight_eq_div_pow]
  show [BitVec.ofInt 8 ((v.toNat : Int) / 256 ^ 3), BitVec.ofInt 8 ((v.toNat : Int) / 256 ^ 2),
    BitVec.ofInt 8 ((v.toNat : Int) / 256 ^ 1), BitVec.ofInt 8 ((v.toNat : Int) / 256 ^ 0)] = _
  rw [hbyte 3, hbyte 2, hbyte 1, hbyte 0]
  simp [fourBytes]

/-! ## READ, LIST_ALARMS, READ_CHECK and READ_SENSE -/

/-- R85, R169: READ of bank b of feed k of screen i. -/
theorem readEqbankEntry_of_feed (i : ScreenNo) (k : FeedNo) (s : State) :
    readEqbankEntry (16 * i.val + k.val) s = accept s false (bankBytes s.screens[i].feeds[k].bankA) ∧
      readEqbankEntry (96 + 16 * i.val + k.val) s = accept s false (bankBytes s.screens[i].feeds[k].bankB) := by
  have hread (index : Nat) (hlt : index < 192) (hi : index % 96 / 16 = i.val) (hk : index % 16 = k.val) :
      readEqbankEntry index s = accept s false (bankBytes (s.screens[i].feeds[k].bank (bankOfIndex index))) := by
    have hi' : (⟨index % 96 / 16, by omega⟩ : ScreenNo) = i := Fin.ext hi
    have hk' : (⟨index % 16, by omega⟩ : FeedNo) = k := Fin.ext hk
    unfold readEqbankEntry
    rw [dif_pos hlt]
    simp only [hi', hk']
  constructor
  · rw [hread _ (by omega) (by omega) (by omega), bankOfIndex, if_pos (by omega)]
    rfl
  · rw [hread _ (by omega) (by omega) (by omega), bankOfIndex, if_neg (by omega)]
    rfl

theorem readFeedEntry_of_feed (i : ScreenNo) (k : FeedNo) (s : State) :
    readFeedEntry (16 * i.val + k.val) s = accept s false [BitVec.ofInt 8 s.screens[i].feeds[k].trim] := by
  obtain ⟨hlt, hi, hk⟩ := feedIndex_parts i k
  have hi' : (⟨(16 * i.val + k.val) / 16, by omega⟩ : ScreenNo) = i := Fin.ext hi
  have hk' : (⟨(16 * i.val + k.val) % 16, by omega⟩ : FeedNo) = k := Fin.ext hk
  unfold readFeedEntry
  rw [dif_pos hlt, ← beBytes_one]
  simp only [hi', hk']

theorem readProfileEntry_of_parts (i : ScreenNo) (k : Fin 6) (s : State) :
    readProfileEntry (6 * i.val + k.val) s = accept s false (profileBytes s.screens[i].profiles[k]) := by
  have hi : (⟨(6 * i.val + k.val) / 6, by omega⟩ : ScreenNo) = i := Fin.ext (by show _ / 6 = _; omega)
  have hk : (⟨(6 * i.val + k.val) % 6, by omega⟩ : Fin 6) = k := Fin.ext (by show _ % 6 = _; omega)
  unfold readProfileEntry
  rw [dif_pos (by omega)]
  simp only [hi, hk]

theorem doReadSense_of_parts (i : ScreenNo) (l : Fin 2) (j : Fin 8) (s : State) :
    doReadSense (16 * i.val + 8 * l.val + j.val) s =
      accept s false (senseBytes (2 * i.val + l.val) j s.screens[i].lanes[l].views[j]) := by
  have hi : (16 * i.val + 8 * l.val + j.val) / 16 = i.val := by omega
  have hl : feedSide ⟨(16 * i.val + 8 * l.val + j.val) % 16, by omega⟩ = l :=
    Fin.ext (by show _ % 16 / 8 = _; omega)
  have hj : feedSlot ⟨(16 * i.val + 8 * l.val + j.val) % 16, by omega⟩ = j :=
    Fin.ext (by show _ % 16 % 8 = _; omega)
  unfold doReadSense
  rw [dif_pos (by omega)]
  simp only [hi, hl, hj]

/-- R172: the list of raised records of a screen. -/
theorem doListAlarms_of_lt (i : ScreenNo) (s : State) {raised : List RecordNo}
    (h : raised = (List.finRange 58).filter fun k => s.screens[i].records[k].state ≠ .normal) :
    doListAlarms i.val s = accept s false
      (BitVec.ofNat 8 raised.length ::
        raised.flatMap fun k =>
          twoBytes (BitVec.ofNat 16 (58 * i.val + k.val)) ++ alarmBytes k s.screens[i].records[k]) := by
  have hraised : s.screens[i].raisedRecords = raised := by
    rw [h, Screen.raisedRecords, indexes_eq_finRange]
    exact List.filter_congr fun k _ => Bool.eq_iff_iff.mpr (by rw [bne_iff_ne, decide_eq_true_iff])
  refine (dif_pos i.isLt).trans ?_
  dsimp only [Fin.eta]
  rw [hraised, listBytes, beNat_one, List.singleton_append]
  refine congrArg (fun f => accept s false (_ :: raised.flatMap f)) (funext fun k => ?_)
  rw [listedBytes, beNat_two]

/-- Settles O36: each table's read by its index, then the lists. -/
theorem readsAndListsReturnWhatStands : Obligations.ReadsAndListsReturnWhatStands := by
  refine ⟨fun tag s hfree => ⟨fun e => exec_ok rfl hfree (dif_pos e.isLt), fun p => exec_ok rfl hfree (dif_pos p.isLt),
    fun i k => ⟨exec_ok rfl hfree (readEqbankEntry_of_feed i k s).1, exec_ok rfl hfree (readEqbankEntry_of_feed i k s).2,
      exec_ok rfl hfree (readFeedEntry_of_feed i k s)⟩,
    fun n => exec_ok rfl hfree (dif_pos n.isLt), fun i k => exec_ok rfl hfree (readProfileEntry_of_parts i k s),
    exec_ok (r := .read .wave 0) rfl hfree rfl, fun i => exec_ok rfl hfree (dif_pos i.isLt), fun table index h => ?_⟩,
    fun tag s hfree => ⟨fun n h => ⟨exec_refused rfl hfree (dif_neg (Nat.not_lt.mpr h)),
      exec_refused rfl hfree (dif_neg (Nat.not_lt.mpr h))⟩, fun n h => exec_refused rfl hfree (dif_neg (Nat.not_lt.mpr h)),
      fun i raised h => exec_ok rfl hfree (doListAlarms_of_lt i s h), fun i => ?_,
      fun i l j => exec_ok rfl hfree (doReadSense_of_parts i l j s)⟩⟩
  · cases table
    case wave => exact exec_refused rfl hfree (if_neg (Nat.ne_of_gt h))
    all_goals exact exec_refused rfl hfree (dif_neg (Nat.not_lt.mpr h))
  · rw [← List.flatMap_map, ← table_toList]
    exact exec_ok rfl hfree (dif_pos i.isLt)

/-! ## READ_STATUS and READ_METER -/

/-- R172: the count of the records in a state. -/
theorem Screen.countRecords_eq (x : Screen) (st : AlarmState) :
    x.countRecords st = ((List.finRange 58).filter fun k => x.records[k].state = st).length := by
  rw [Screen.countRecords, indexes_eq_finRange]

/-- R131, R173: the holds of a screen in the record of READ_METER. -/
theorem meterFields_eq (x : Screen) :
    meterFields 4 x.clock.now x.clock.state x.feedHolds x.channelHolds =
      fourBytes x.clock.now ++ [BitVec.ofNat 8 x.clock.state.code] ++
        (List.finRange 16).flatMap (fun k => beNat 4 x.feeds[k].hold) ++
        (List.finRange 8).flatMap (fun c => beNat 4 x.channelHolds[c]) := by
  have hholds (k : FeedNo) : x.feedHolds[k] = x.feeds[k].hold := tabulate_get _ k
  rw [meterFields, beNat_four, beNat_one, table_toList, table_toList, List.flatMap_map, List.flatMap_map]
  simp only [hholds]

theorem doReadMeter_of_lt (i : ScreenNo) (reset : Bool) (s : State) :
    doReadMeter i.val reset s = accept (if reset then s.modScreen i Screen.clearHolds else s) false
      (meterFields 4 s.screens[i].clock.now s.screens[i].clock.state s.screens[i].feedHolds s.screens[i].channelHolds) :=
  dif_pos i.isLt

/-- Settles O37: the fields of the status and of the meter record, in their order. -/
theorem statusAndMeterReadsReturnAndClear : Obligations.StatusAndMeterReadsReturnAndClear := by
  refine ⟨fun tag s hfree => ⟨fun screen h => exec_refused rfl hfree (dif_neg (Nat.not_lt.mpr h)), fun i x hx => ?_⟩,
    fun tag s hfree => ⟨fun screen reset h => exec_refused rfl hfree (dif_neg (Nat.not_lt.mpr h)),
      fun i x record hx hrecord => ?_⟩⟩
  · refine Eq.trans (exec_ok rfl hfree (dif_pos i.isLt)) ?_
    subst hx
    refine congrArg (State.answers _ tag .ok) ?_
    unfold statusBytes muteBytes flagByte statusFadeBytes
    simp only [beNat_one, beNat_two, beNat_four, Screen.countRecords_eq, List.append_assoc, List.cons_append,
      List.nil_append]
    refine congrArg (fourBytes _ ++ ·) (List.cons_eq_cons.mpr ⟨?clockMode, List.cons_eq_cons.mpr ⟨?clockState,
      List.cons_eq_cons.mpr ⟨?mode, ?rest⟩⟩⟩)
    case clockMode => cases s.screens[i].settings.clockMode <;> rfl
    case clockState => cases s.screens[i].clock.state <;> rfl
    case mode => cases s.screens[i].playout.mode <;> rfl
    case rest => cases s.screens[i].level.fade <;> rfl
  · subst hx
    have hfields : meterFields 4 s.screens[i].clock.now s.screens[i].clock.state s.screens[i].feedHolds
        s.screens[i].channelHolds = record := by
      rw [meterFields_eq, hrecord]
      cases s.screens[i].clock.state <;> rfl
    have hmeter (reset : Bool) := doReadMeter_of_lt i reset s
    simp only [hfields] at hmeter
    refine ⟨exec_ok rfl hfree (hmeter false), _, exec_ok rfl hfree (hmeter true), ?_, fun k => ?_, fun c => ?_⟩
    · refine State.modScreen_congr i s ?_
      rw [if_pos rfl, State.modScreen_same]
      rfl
    · rw [if_pos rfl, State.modScreen_same]
      exact tabulate_get _ k
    · rw [if_pos rfl, State.modScreen_same]
      exact Vector.getElem_replicate _

/-! ## READ_TALLY -/

theorem tallyBytes_eq (ts : List Nat) : tallyBytes ts = ts.flatMap fun n => twoBytes (BitVec.ofNat 16 n) :=
  congrArg ts.flatMap (funext beNat_two)

theorem adjust_id {α : Type} {n : Nat} (v : Vector α n) (i : Fin n) : adjust v i (fun x => x) = v :=
  Vector.set_getElem_self _

theorem State.modEntry_id (e : EntryNo) (s : State) : (s.modEntry e fun x => x) = s := by
  unfold State.modEntry
  rw [adjust_id]

theorem State.modFeed_id (i : ScreenNo) (k : FeedNo) (s : State) : (s.modFeed i k fun f => f) = s := by
  unfold State.modFeed
  simp only [adjust_id, State.modScreen_id]

theorem readFeedTally_of_feed (i : ScreenNo) (k : FeedNo) (clear : Bool) (s : State) :
    readFeedTally (16 * i.val + k.val) clear s =
      accept (if clear then s.modFeed i k fun f => { f with eqSat := 0 } else s) false
        (twoBytes (BitVec.ofNat 16 s.screens[i].feeds[k].eqSat)) := by
  obtain ⟨hlt, hi, hk⟩ := feedIndex_parts i k
  have hi' : (⟨(16 * i.val + k.val) / 16, by omega⟩ : ScreenNo) = i := Fin.ext hi
  have hk' : (⟨(16 * i.val + k.val) % 16, by omega⟩ : FeedNo) = k := Fin.ext hk
  unfold readFeedTally
  rw [dif_pos hlt]
  simp only [hi', hk', tallyBytes_eq, List.flatMap_cons, List.flatMap_nil, List.append_nil]

theorem readLaneTally_of_parts (i : ScreenNo) (l : Fin 2) (clear : Bool) (s : State) :
    readLaneTally (2 * i.val + l.val) clear s =
      accept (if clear then s.modScreen i fun x => { x with lanes := adjust x.lanes l Lane.clearTallies } else s) false
        (twoBytes (BitVec.ofNat 16 s.screens[i].lanes[l].miss) ++
          twoBytes (BitVec.ofNat 16 s.screens[i].lanes[l].seqErrors)) := by
  have hi : laneScreen ⟨2 * i.val + l.val, by omega⟩ = i := Fin.ext (by show (2 * i.val + l.val) / 2 = _; omega)
  have hl : laneSide ⟨2 * i.val + l.val, by omega⟩ = l := Fin.ext (by show (2 * i.val + l.val) % 2 = _; omega)
  unfold readLaneTally State.modLane
  rw [dif_pos (by omega)]
  simp only [hi, hl, tallyBytes_eq, List.flatMap_cons, List.flatMap_nil, List.append_nil]

/-- R173: READ_TALLY of any scope. -/
theorem exec_readTally {tag : Byte} {subject : Nat} {scope : TallyScope} {clear : Bool} {s t : State} {record : List Byte}
    (hs : s.free) (hr : doReadTally subject scope clear s = accept t false record) :
    exec (.readTally tag subject scope clear) s = t.answers tag .ok record := exec_ok rfl hs hr

/-- Settles O38: the tallies of each scope. -/
theorem readTallyReturnsAndClears : Obligations.ReadTallyReturnsAndClears := by
  intro tag clear s hfree
  refine ⟨fun scope subject h => ?_, ?_, fun e => ?_, fun i => ?_, fun i k => ?_, fun i l => ?_⟩
  · cases scope
    case port => exact exec_refused rfl hfree (if_neg (Nat.ne_of_gt h))
    all_goals exact exec_refused rfl hfree (dif_neg (Nat.not_lt.mpr h))
  · have hread : perform (.readTally 0 .port clear) s =
        accept { s with portTallies := if clear then Vector.replicate 5 0 else s.portTallies } false
          (tallyBytes s.portTallies.toList) := by cases clear <;> rfl
    rw [tallyBytes_eq] at hread
    exact exec_ok rfl hfree hread
  · have hread : readEntryTally e.val clear s =
        accept (if clear then s.modEntry e fun x => { x with tallies := Vector.replicate 13 0 } else s) false
          (tallyBytes s.entries[e].tallies.toList) := dif_pos e.isLt
    rw [tallyBytes_eq] at hread
    refine (exec_readTally (scope := .entry) hfree hread).trans
      (congrArg (fun t => State.answers t tag .ok _) ?_)
    cases clear
    · exact (State.modEntry_id e s).symm
    · rfl
  · have hread : readScreenTally i.val clear s =
        accept (if clear then s.modScreen i fun x => { x with tallies := Vector.replicate 7 0 } else s) false
          (tallyBytes s.screens[i].tallies.toList) := dif_pos i.isLt
    rw [tallyBytes_eq] at hread
    refine (exec_readTally (scope := .screen) hfree hread).trans
      (congrArg (fun t => State.answers t tag .ok _) ?_)
    cases clear
    · exact (State.modScreen_id i s).symm
    · rfl
  · refine (exec_readTally (scope := .feed) hfree (readFeedTally_of_feed i k clear s)).trans
      (congrArg (fun t => State.answers t tag .ok _) ?_)
    cases clear
    · exact (State.modFeed_id i k s).symm
    · rfl
  · refine (exec_readTally (scope := .lane) hfree (readLaneTally_of_parts i l clear s)).trans
      (congrArg (fun t => State.answers t tag .ok _) ?_)
    cases clear
    · refine ((State.modScreen_congr i (g := fun x => x) s ?_).trans (State.modScreen_id i s)).symm
      have hkept : adjust s.screens[i].lanes l (fun y => y) = s.screens[i].lanes := adjust_id _ l
      exact congrArg (fun lanes => { s.screens[i] with lanes := lanes }) hkept
    · rfl

end Sys2Proof.Machine
end

section
/-! PROOFS. Frames at the trunk: the form of a frame, its classification, and the hand-off by kind (R1 to R3, R5 to R7,
R13 to R17). -/

namespace Sys2Proof.Machine

/-! ## The form of a frame -/

/-- R2: the two bytes of a check are its halves. -/
theorem check_bytes {c1 c0 : Byte} {c : FrameCheck} (h : c.toNat = numberOf [c1, c0]) :
    c1 = (c >>> 8).setWidth 8 ∧ c0 = c.setWidth 8 := by
  rw [numberOf_pair] at h
  have h0 := c0.isLt
  have h1 := c1.isLt
  constructor <;> refine BitVec.eq_of_toNat_eq ?_ <;>
    simp only [BitVec.toNat_setWidth, BitVec.toNat_ushiftRight, Nat.shiftRight_eq_div_pow] <;> omega

/-- R1: five header bytes are those of their own fields. -/
theorem trunkHeader_of_bytes (b0 b1 b2 b3 b4 : Byte) :
    trunkHeader (b0.toNat / 16) (b0.toNat % 16 * 256 + b1.toNat) b2 (256 * b3.toNat + b4.toNat) = [b0, b1, b2, b3, b4] := by
  have hbyte (b : Byte) (n : Nat) (h : n = b.toNat) : BitVec.ofNat 8 n = b := by rw [h, BitVec.ofNat_toNat, BitVec.setWidth_eq]
  have h1 := b1.isLt
  have h4 := b4.isLt
  rw [trunkHeader, hbyte b0 _ (by omega), hbyte b1 _ (by omega), hbyte b3 _ (by omega), hbyte b4 _ (by omega)]

theorem eq_pair_of_length {α : Type} {l : List α} (h : l.length = 2) : ∃ a b, l = [a, b] := by
  obtain ⟨a, rest, rfl⟩ := List.exists_cons_of_length_eq_add_one h
  obtain ⟨b, rfl⟩ := List.length_eq_one_iff.mp (Nat.succ.inj h)
  exact ⟨a, b, rfl⟩

/-- R1, R2: bytes that pass step 1 of intake are a whole frame with its check. -/
theorem eq_trunkFrame_of_passes {bytes : List Byte} (h : frameCheckPasses bytes = true) :
    ∃ kind stream seq body, kind < 16 ∧ stream < 4096 ∧ body.length < 65536 ∧ bytes = trunkFrame kind stream seq body := by
  unfold frameCheckPasses at h
  rw [Bool.and_eq_true, Bool.and_eq_true, decide_eq_true_eq, decide_eq_true_eq, decide_eq_true_eq] at h
  obtain ⟨⟨hseven, hlength⟩, hcheck⟩ := h
  obtain ⟨b0, b1, b2, b3, b4, rest, rfl⟩ : ∃ b0 b1 b2 b3 b4 rest, bytes = b0 :: b1 :: b2 :: b3 :: b4 :: rest := by
    rcases bytes with _ | ⟨b0, _ | ⟨b1, _ | ⟨b2, _ | ⟨b3, _ | ⟨b4, rest⟩⟩⟩⟩⟩
    case cons.cons.cons.cons.cons => exact ⟨b0, b1, b2, b3, b4, rest, rfl⟩
    all_goals
      simp only [List.length_cons, List.length_nil] at hseven
      omega
  obtain ⟨body, c1, c0, rfl⟩ : ∃ body c1 c0, rest = body ++ [c1, c0] := by
    have htwo : (rest.drop (rest.length - 2)).length = 2 := by
      simp only [List.length_cons] at hseven
      rw [List.length_drop]
      omega
    obtain ⟨c1, c0, hc⟩ := eq_pair_of_length htwo
    exact ⟨rest.take (rest.length - 2), c1, c0, by rw [← hc, List.take_append_drop]⟩
  have hsplit : b0 :: b1 :: b2 :: b3 :: b4 :: (body ++ [c1, c0]) = ([b0, b1, b2, b3, b4] ++ body) ++ [c1, c0] := rfl
  have hlen : ([b0, b1, b2, b3, b4] ++ body ++ [c1, c0]).length - 2 = ([b0, b1, b2, b3, b4] ++ body).length := by
    rw [List.length_append]
    rfl
  rw [hsplit, hlen, List.take_left', List.drop_left'] at hcheck
  · obtain ⟨h1, h0⟩ := check_bytes hcheck
    have hbody : 256 * b3.toNat + b4.toNat = body.length := by
      simpa [numberOf_pair] using hlength
    have hb0 := b0.isLt
    have hb1 := b1.isLt
    have hb3 := b3.isLt
    have hb4 := b4.isLt
    refine ⟨b0.toNat / 16, b0.toNat % 16 * 256 + b1.toNat, b2, body, by omega, by omega, by omega, ?_⟩
    rw [hsplit, trunkFrame_eq, ← hbody, trunkHeader_of_bytes, withCheck, ← h1, ← h0]
  · rfl
  · rfl

/-! ## Classification -/

/-- R13: a frame in the form of R1, by its classification. -/
theorem exec_trunkFrame (s : State) (kind stream : Nat) (seq : Byte) (body : List Byte) (hk : kind < 16)
    (hs : stream < 4096) (hb : body.length < 65536) :
    exec (.frameArrival (trunkFrame kind stream seq body)) s =
      .next (s.classify { kind := kind, stream := stream, seq := seq, body := body }) :=
  congrArg Host.Outcome.next (s.arrive_trunkFrame kind stream seq body hk hs hb)

theorem Frame.kindError_iff (f : Frame) :
    f.kindError = true ↔ (f.kind = 0 ∨ 4 < f.kind) ∨ (f.kind ≠ 4 ∧ f.stream = 0) ∨
      (f.kind = 4 ∧ (f.stream ≠ 0 ∨ f.body.length < 5)) := by
  unfold Frame.kindError
  split
  · next h => simp [h]
  · split
    · next h hr => simp [h]; omega
    · next h hr => simp [h]; omega

/-- R13: a stream frame with no kind error. -/
theorem State.classify_of_stream (s : State) {f : Frame} (hlo : 1 ≤ f.kind) (hhi : f.kind ≤ 3) (hs : f.stream ≠ 0) :
    s.classify f = s.classifyStream f := by
  have hok : f.kindError = false := by
    rw [Bool.eq_false_iff, ne_eq, Frame.kindError_iff]
    omega
  unfold State.classify
  rw [hok, if_neg nofun, if_neg (by omega)]

theorem State.findStream_of_entry {s : State} (hs : s.sourcesSound) {e : EntryNo} (h : s.entries[e].state ≠ .unused) :
    s.findStream s.entries[e].number = some e := by
  obtain ⟨-, hnumber, -, -, -⟩ := hs
  refine find_indexes_unique (decide_eq_true ⟨h, rfl⟩) fun j hj => ?_
  obtain ⟨hj, hn⟩ := of_decide_eq_true hj
  exact hnumber j e hj h hn

theorem State.bumpPort_eq (t : PortTally) (s : State) :
    s.bumpPort t = { s with portTallies := s.portTallies.set t.place.val (min (s.portTallies[t.place] + 1) 65535) } := by
  unfold State.bumpPort
  rw [adjust_eq_set]
  rfl

/-- Settles O39: the check, the kind, the stream and the state of its entry, in this order. -/
theorem stoppedFrameRaisesOnePortTally : Obligations.StoppedFrameRaisesOnePortTally := by
  refine fun s => ⟨fun bytes h => ?_, fun kind stream seq body hk hs hb => ⟨fun herror => ?_, fun hlo hhi hne hnone => ?_,
    fun hlo hhi hne hsound hentry => ?_⟩⟩
  · have hfail : frameCheckPasses bytes = false := by
      rw [Bool.eq_false_iff]
      exact fun hpass => h (eq_trunkFrame_of_passes hpass)
    show Host.Outcome.next (s.arrive bytes) = _
    rw [State.arrive, hfail, if_neg nofun, State.bumpPort_eq]
    rfl
  · have hkind := (Frame.kindError_iff { kind := kind, stream := stream, seq := seq, body := body }).mpr herror
    rw [exec_trunkFrame s kind stream seq body hk hs hb, State.classify, if_pos hkind, State.bumpPort_eq]
    rfl
  · have hfind : s.findStream stream = none :=
      find_indexes_none.mpr fun e => decide_eq_false fun ⟨he, hn⟩ => hnone e he hn
    rw [exec_trunkFrame s kind stream seq body hk hs hb, State.classify_of_stream s hlo hhi hne, State.classifyStream,
      hfind, State.bumpPort_eq]
    rfl
  · obtain ⟨e, hstate, rfl⟩ := hentry
    have hfind := State.findStream_of_entry hsound (e := e) (by rw [hstate]; nofun)
    rw [exec_trunkFrame s kind _ seq body hk hs hb, State.classify_of_stream s hlo hhi hne, State.classifyStream]
    simp only [hfind, hstate, State.bumpPort_eq]
    rfl

/-- Settles O40: the five bytes of the envelope and its arguments. -/
theorem manageFrameHandsOnItsRequest : Obligations.ManageFrameHandsOnItsRequest := by
  intro s seq tag kind table i1 i0 args h
  have hlen : ([tag, kind, table, i1, i0] ++ args).length = args.length + 5 := by
    rw [List.length_append, Nat.add_comm]
    rfl
  have hok : Frame.kindError { kind := 4, stream := 0, seq := seq, body := [tag, kind, table, i1, i0] ++ args } = false := by
    rw [Bool.eq_false_iff, ne_eq, Frame.kindError_iff]
    dsimp only
    omega
  rw [exec_trunkFrame s 4 0 seq _ (by omega) (by omega) (by omega), State.classify, hok, if_neg nofun, if_pos rfl,
    ← numberOf_pair]
  rfl

/-! ## The samples of a PROGRAM body -/

/-- R5: the value of three bytes side by side. -/
theorem toNat_threeBytes (a b c : Byte) : (a ++ b ++ c).toNat = numberOf [a, b, c] := by
  have ha := a.isLt
  have hb := b.isLt
  have hc := c.isLt
  have hnum : numberOf [a, b, c] = (a.toNat * 256 + b.toNat) * 256 + c.toNat := by
    rw [numberOf_cons, numberOf_pair]
    show a.toNat * 256 ^ 2 + _ = _
    omega
  rw [hnum, BitVec.toNat_append, BitVec.toNat_append, ← Nat.shiftLeft_add_eq_or_of_lt hb,
    ← Nat.shiftLeft_add_eq_or_of_lt hc, Nat.shiftLeft_eq, Nat.shiftLeft_eq]

theorem signedOf_threeBytes (a b c : Byte) : signedOf 3 (numberOf [a, b, c]) = (a ++ b ++ c).toInt := by
  rw [BitVec.toInt_eq_toNat_cond, toNat_threeBytes]
  rfl

theorem sampleOf_eq (order : ByteOrder) (a b c : Byte) :
    sampleOf order a b c = match order with
      | .msbFirst => (a ++ b ++ c).toInt
      | .lsbFirst => (c ++ b ++ a).toInt := by
  cases order <;> exact signedOf_threeBytes ..

/-- R5: sample j of a body is carried by its bytes 3j to 3j + 2. -/
theorem samplesOf_getD (order : ByteOrder) (j : Nat) (data : List Byte) (h : 3 * j + 2 < data.length) :
    (samplesOf order data).getD j 0 =
      sampleOf order (data.getD (3 * j) 0) (data.getD (3 * j + 1) 0) (data.getD (3 * j + 2) 0) := by
  induction j generalizing data with
  | zero =>
    obtain ⟨a, b, c, rest, rfl⟩ : ∃ a b c rest, data = a :: b :: c :: rest := by
      rcases data with _ | ⟨a, _ | ⟨b, _ | ⟨c, rest⟩⟩⟩
      case cons.cons.cons => exact ⟨a, b, c, rest, rfl⟩
      all_goals
        simp only [List.length_cons, List.length_nil] at h
        omega
    rfl
  | succ j ih =>
    obtain ⟨a, b, c, rest, rfl⟩ : ∃ a b c rest, data = a :: b :: c :: rest := by
      rcases data with _ | ⟨a, _ | ⟨b, _ | ⟨c, rest⟩⟩⟩
      case cons.cons.cons => exact ⟨a, b, c, rest, rfl⟩
      all_goals
        simp only [List.length_cons, List.length_nil] at h
        omega
    exact ih rest (by simp only [List.length_cons] at h; omega)

/-- R5: sample t of channel c of the block a body carries. -/
theorem programBlock_samples (e : EntryNo) (order : ByteOrder) (head data : List Byte) (n : Nat) (hhead : head.length = 6)
    (hn : numberOf ((head.drop 5).take 1) = n) (hlen : data.length = 144 * n) :
    (programBlock e order (head ++ data)).samples.length = n ∧ ∀ c t, c < n → t < 48 →
      ((programBlock e order (head ++ data)).samples.getD c []).length = 48 ∧
      ((programBlock e order (head ++ data)).samples.getD c []).getD t 0 =
        sampleOf order (data.getD (3 * (t * n + c)) 0) (data.getD (3 * (t * n + c) + 1) 0)
          (data.getD (3 * (t * n + c) + 2) 0) := by
  have hbytes : (head ++ data).drop 6 = data := List.drop_left' hhead
  have hcount : numberOf (((head ++ data).drop 5).take 1) = n := by
    rw [List.drop_append_of_le_length (by omega), List.take_append_of_le_length (by rw [List.length_drop]; omega), hn]
  have hsamples : (programBlock e order (head ++ data)).samples =
      (List.range n).map fun i => deinterleave n i (samplesOf order data) := by
    unfold programBlock
    rw [hbytes, hcount]
  rw [hsamples]
  refine ⟨by rw [List.length_map, List.length_range], fun c t hc ht => ?_⟩
  have hchannel : ((List.range n).map fun i => deinterleave n i (samplesOf order data)).getD c [] =
      deinterleave n c (samplesOf order data) := by
    simp [List.getD_eq_getElem?_getD, hc]
  have hindex : 3 * (t * n + c) + 2 < data.length := by
    have : t * n ≤ 47 * n := Nat.mul_le_mul_right n (by omega)
    omega
  rw [hchannel, ← samplesOf_getD order _ data hindex]
  refine ⟨(List.length_map _).trans List.length_range, ?_⟩
  have ht' : t < Config.blockLength := ht
  simp [deinterleave, List.getD_eq_getElem?_getD, ht']

theorem bodyCount_eq (body : List Byte) : numberOf ((body.drop 5).take 1) = (body.getD 5 0).toNat := by
  rcases body with _ | ⟨b0, _ | ⟨b1, _ | ⟨b2, _ | ⟨b3, _ | ⟨b4, _ | ⟨b5, rest⟩⟩⟩⟩⟩⟩
  case cons.cons.cons.cons.cons.cons =>
    show 0 * 256 + b5.toNat = b5.toNat
    omega
  all_goals rfl

/-- R17: the checks of a PROGRAM body in their order. -/
theorem programFailure_eq (expected : Nat) (body : List Byte) :
    programFailure expected body =
      if body.length < 6 then some .short
      else if (body.getD 5 0).toNat < 1 ∨ 8 < (body.getD 5 0).toNat then some .format
      else if body.length < 6 + 144 * (body.getD 5 0).toNat then some .short
      else if 6 + 144 * (body.getD 5 0).toNat < body.length then some .long
      else if (body.getD 5 0).toNat ≠ expected then some .format
      else none := by
  unfold programFailure
  rw [bodyCount_eq]

theorem State.handProgram_of_some {e : EntryNo} {body : List Byte} {u : State} {t : EntryTally}
    (h : programFailure u.entries[e].channels body = some t) : u.handProgram e body = u.bumpEntry e t 1 := by
  unfold State.handProgram
  rw [h]

theorem State.handProgram_of_none {e : EntryNo} {body : List Byte} {u : State}
    (h : programFailure u.entries[e].channels body = none) :
    u.handProgram e body = u.offerBlock e (programBlock e u.entries[e].order body) := by
  unfold State.handProgram
  rw [h]

/-! ## Stream frames -/

theorem numberOf_fourBytes (v : BitVec 32) : numberOf (fourBytes v) = v.toNat := by
  rw [← beNat_four]
  exact numberOf_beNat 4 _ v.isLt

theorem ofNat_fourBytes (v : BitVec 32) : BitVec.ofNat 32 (numberOf (fourBytes v)) = v := by
  rw [numberOf_fourBytes, BitVec.ofNat_toNat, BitVec.setWidth_eq]

theorem numberOf_twoBytes (v : BitVec 16) : numberOf (twoBytes v) = v.toNat := numberOf_check v

theorem State.modEntry_modEntry (e : EntryNo) (f g : StreamEntry → StreamEntry) (s : State) :
    (s.modEntry e f).modEntry e g = s.modEntry e fun x => g (f x) := by
  simp only [State.modEntry, adjust_adjust]

theorem State.modEntry_congr (e : EntryNo) {f g : StreamEntry → StreamEntry} (s : State)
    (h : f s.entries[e] = g s.entries[e]) : s.modEntry e f = s.modEntry e g := by
  unfold State.modEntry
  rw [adjust_eq_set, adjust_eq_set, h]

/-- R15: a REFERENCE body of the right length. -/
theorem State.handReference_of_length {e : EntryNo} {body : List Byte} {u : State} (h : body.length = 5)
    (hu : u.entries[e].state = .primed ∨ u.entries[e].state = .active) :
    u.handReference e body =
      if u.entries[e].state = .primed then u.bumpEntry e .refIgnored 1
      else u.judgeReference e (BitVec.ofNat 32 (numberOf (body.take 4))) ((body.getD 4 0).getLsbD 0) := by
  unfold State.handReference
  rw [if_neg (by omega), if_neg (by omega)]
  rcases hu with hu | hu <;> rw [hu] <;> rfl

/-- R16: a MARKER body of the right length. -/
theorem State.handMarker_of_length {e : EntryNo} {body : List Byte} {u : State} (h : body.length = 6)
    (hu : u.entries[e].state = .primed ∨ u.entries[e].state = .active) :
    u.handMarker e body =
      if u.entries[e].state = .primed then u
      else u.placeMarker u.entries[e].screen u.entries[e].timing
        { pt := BitVec.ofNat 32 (numberOf (body.take 4)), code := numberOf (body.drop 4) } := by
  unfold State.handMarker
  rw [if_neg (by omega), if_neg (by omega)]
  rcases hu with hu | hu <;> rw [hu] <;> rfl

/-- R14: what sequence tracking changes of an entry. -/
theorem State.trackSequence_eq (e : EntryNo) (seq : Byte) (s : State) :
    s.trackSequence e seq = s.modEntry e fun x =>
      { x with
        lastSeq := some seq
        tallies := if x.lastSeq.all (fun q => seq = q + 1) then x.tallies
          else x.tallies.set 1 (min (x.tallies[1] + 1) 65535) } := by
  have hfollows : follows s.entries[e].lastSeq seq = s.entries[e].lastSeq.all (fun q => seq = q + 1) := by
    cases s.entries[e].lastSeq <;> rfl
  unfold State.trackSequence
  rw [hfollows]
  split
  · next h => exact State.modEntry_congr e s (by rw [if_pos h])
  · next h =>
    rw [State.bumpEntry, State.modEntry_modEntry]
    exact State.modEntry_congr e s (by rw [if_neg h, adjust_eq_set]; rfl)

/-- R13: a frame of a PRIMED or ACTIVE entry is tracked and handed on by its kind. -/
theorem exec_streamFrame {s : State} {e : EntryNo} (hs : s.sourcesSound) (kind : Nat) (seq : Byte) (body : List Byte)
    (hb : body.length < 65536) (hlo : 1 ≤ kind) (hhi : kind ≤ 3)
    (hstate : s.entries[e].state = .primed ∨ s.entries[e].state = .active) :
    exec (.frameArrival (trunkFrame kind s.entries[e].number seq body)) s =
      .next ((s.trackSequence e seq).handByKind e
        { kind := kind, stream := s.entries[e].number, seq := seq, body := body }) := by
  have hused : s.entries[e].state ≠ .unused := by
    rcases hstate with h | h <;> rw [h] <;> nofun
  have hfind := State.findStream_of_entry hs hused
  obtain ⟨-, -, hrange, -, -⟩ := hs
  have hnumber := hrange e
  rw [exec_trunkFrame s kind _ seq body (by omega) (by omega) hb,
    State.classify_of_stream s hlo hhi fun h0 => hused (hnumber.2.mp h0), State.classifyStream]
  simp only [hfind]
  rcases hstate with h | h <;> rw [h]

/-- Settles O41: tracking, then the checks of the body of each kind and what a body that passes carries. -/
theorem streamFrameIsTrackedAndHandedOn : Obligations.StreamFrameIsTrackedAndHandedOn := by
  intro s u e seq body hsound hb hstate hu
  rw [← State.trackSequence_eq] at hu
  have hframe (kind : Nat) (hlo : 1 ≤ kind) (hhi : kind ≤ 3) := exec_streamFrame hsound kind seq body hb hlo hhi hstate
  rw [← hu] at hframe
  have hentry : u.entries[e] = { s.entries[e] with lastSeq := u.entries[e].lastSeq, tallies := u.entries[e].tallies } := by
    rw [hu, State.trackSequence_eq, State.modEntry_same]
  have hreference : exec _ s = .next (u.handReference e body) := hframe 2 (by omega) (by omega)
  have hmarker : exec _ s = .next (u.handMarker e body) := hframe 3 (by omega) (by omega)
  have hprogram : exec _ s = .next (u.handProgram e body) := hframe 1 (by omega) (by omega)
  have hkept : u.entries[e].state = s.entries[e].state ∧ u.entries[e].screen = s.entries[e].screen ∧
      u.entries[e].timing = s.entries[e].timing ∧ u.entries[e].order = s.entries[e].order ∧
      u.entries[e].channels = s.entries[e].channels := by
    rw [hentry]
    exact ⟨rfl, rfl, rfl, rfl, rfl⟩
  obtain ⟨hustate, hscreen, htiming, horder, hchannels⟩ := hkept
  rw [← hustate, ← hscreen, ← htiming, ← horder, ← hchannels]
  rw [← hustate] at hstate
  refine ⟨fun h => ?_, fun h => ?_, fun r flags hbody => ?_, fun h => ?_, fun h => ?_, fun pt code hbody => ?_,
    fun n hn => ⟨fun h => ?_, fun hsix h => ?_, fun hlo hhi h => ?_, fun pt present data hlo hhi hc hlen hbody => ?_⟩⟩
  · exact hreference.trans (congrArg _ (if_pos h))
  · exact hreference.trans (congrArg _ ((if_neg (by omega)).trans (if_pos h)))
  · rw [hreference, State.handReference_of_length (by rw [hbody]; rfl) hstate, hbody]
    show Host.Outcome.next (if _ then _ else u.judgeReference e (BitVec.ofNat 32 (numberOf (fourBytes r))) _) = _
    rw [ofNat_fourBytes]
    rfl
  · exact hmarker.trans (congrArg _ (if_pos h))
  · exact hmarker.trans (congrArg _ ((if_neg (by omega)).trans (if_pos h)))
  · rw [hmarker, State.handMarker_of_length (by rw [hbody]; rfl) hstate, hbody]
    show Host.Outcome.next (if _ then _ else u.placeMarker _ _
      { pt := BitVec.ofNat 32 (numberOf (fourBytes pt)), code := numberOf (twoBytes code) }) = _
    rw [ofNat_fourBytes, numberOf_twoBytes]
  · refine hprogram.trans (congrArg _ (State.handProgram_of_some ((programFailure_eq _ body).trans ?_)))
    rw [← hn]
    by_cases hsix : body.length < 6
    · rw [if_pos hsix]
    · obtain ⟨hlo, hhi, hlen⟩ := h.resolve_left hsix
      rw [if_neg hsix, if_neg (by omega), if_pos hlen]
  · refine hprogram.trans (congrArg _ (State.handProgram_of_some ((programFailure_eq _ body).trans ?_)))
    rw [← hn, if_neg (by omega)]
    by_cases hrange : n < 1 ∨ 8 < n
    · rw [if_pos hrange]
    · obtain ⟨hlen, hne⟩ := h.resolve_left hrange
      rw [if_neg hrange, if_neg (by omega), if_neg (by omega), if_pos hne]
  · refine hprogram.trans (congrArg _ (State.handProgram_of_some ((programFailure_eq _ body).trans ?_)))
    rw [← hn, if_neg (by omega), if_neg (by omega), if_neg (by omega), if_pos h]
  · have hcount : numberOf (((fourBytes pt ++ [present, BitVec.ofNat 8 n]).drop 5).take 1) = n := by
      show numberOf [BitVec.ofNat 8 n] = n
      rw [← beNat_one]
      exact numberOf_beNat 1 n (by omega)
    have hbodyLength : body.length = 6 + 144 * n := by
      rw [hbody, List.length_append, hlen]
      rfl
    have hpass : programFailure u.entries[e].channels body = none := by
      rw [programFailure_eq, ← hn, if_neg (by omega), if_neg (by omega), if_neg (by omega), if_neg (by omega),
        if_neg (Decidable.not_not.mpr hc)]
    obtain ⟨hchannelCount, hsamples⟩ :=
      programBlock_samples e u.entries[e].order (fourBytes pt ++ [present, BitVec.ofNat 8 n]) data n rfl hcount hlen
    rw [← hbody] at hchannelCount hsamples
    refine ⟨_, hprogram.trans (congrArg _ (State.handProgram_of_none hpass)), ?_, ?_, ?_, rfl, hchannelCount,
      fun c t k hcn ht hk => ?_⟩
    · rw [hbody]
      exact ofNat_fourBytes pt
    · rw [hbody]
      rfl
    · exact (bodyCount_eq body).trans hn.symm
    · rw [hk]
      obtain ⟨hlength, hsample⟩ := hsamples c t hcn ht
      exact ⟨hlength, hsample.trans (sampleOf_eq ..)⟩

end Sys2Proof.Machine
end

section
/-! PROOFS. Offers, references and markers (R28 to R32, R51, R56 to R60, R64, R153, R161). -/

namespace Sys2Proof.Machine

/-! ## Offers -/

theorem Screen.untied_iff (x : Screen) :
    x.untied = true ↔ x.settings.clockMode = .selfTimed ∧ x.playout.resync = true := by
  unfold Screen.untied
  rw [Bool.and_eq_true, decide_eq_true_iff]

/-- R31: the tests of an offer, in their order. -/
theorem State.offerFailure_eq (e : EntryNo) (b : Block) (s : State) :
    s.offerFailure e b =
      if s.freeSlots = 0 then some .poolDrop
      else if s.screens[s.entries[e].screen].settings.quota ≤ s.screens[s.entries[e].screen].playout.held then
        some .quotaDrop
      else if s.entries[e].timing = .arrival then none
      else if (s.screens[s.entries[e].screen].playout.queueOf s.entries[e].state).any fun q => q.pt = b.pt then
        some .duplicate
      else if ¬s.screens[s.entries[e].screen].untied = true ∧
          (s.screens[s.entries[e].screen].settings.lateLimit : Int) <
            signedDiff s.screens[s.entries[e].screen].clock.now b.pt then some .stale
      else none := by
  unfold State.offerFailure
  dsimp only
  cases s.entries[e].timing
  · simp only [reduceCtorEq, if_false, decide_eq_true_eq, Bool.and_eq_true, Bool.not_eq_true', Bool.not_eq_true]
  · simp only [if_true]

/-- R31: the place of an offered block in its queue. -/
theorem insertBlock_split (mode : TimingMode) (b : Block) (queue : List Block) :
    ∃ before after, queue = before ++ after ∧ insertBlock mode b queue = before ++ b :: after ∧
      (mode = .arrival → after = []) ∧
      (mode = .timed → (∀ q ∈ before, ¬0 < signedDiff q.pt b.pt) ∧
        ∀ q, after.head? = some q → 0 < signedDiff q.pt b.pt) := by
  cases mode with
  | timed =>
    obtain ⟨before, after, hsplit, hinsert, hbefore, hafter⟩ := insertTimed_split b queue
    exact ⟨before, after, hsplit, hinsert, nofun, fun _ => ⟨hbefore, hafter⟩⟩
  | arrival => exact ⟨queue, [], (List.append_nil _).symm, rfl, fun _ => rfl, nofun⟩

/-- Settles O42: the four tests in their order, then the place of the block. -/
theorem offerIsJudgedByFourTests : Obligations.OfferIsJudgedByFourTests := by
  intro s e b x y queue hx hy hstate hqueue
  subst hx
  subst hy
  have hqueueOf : s.screens[s.entries[e].screen].playout.queueOf s.entries[e].state = queue := by
    rw [hqueue]
    rcases hstate with h | h <;> rw [h] <;> rfl
  have htests := s.offerFailure_eq e b
  rw [hqueueOf, Playout.held] at htests
  have hany : (queue.any fun q => q.pt = b.pt) = true ↔ ∃ q ∈ queue, q.pt = b.pt := by
    simp only [List.any_eq_true, decide_eq_true_eq]
  have hfail {t : EntryTally} (h : s.offerFailure e b = some t) : s.offerBlock e b = s.bumpEntry e t 1 := by
    rw [State.offerBlock, h]
  dsimp only
  refine ⟨fun h0 => ?_, fun h0 hfull => ?_, fun h0 hroom hdup => ?_, fun h0 hroom hdup hstale => ?_,
    fun h0 hroom hdup hstale => ?_⟩
  · exact hfail (htests.trans (if_pos h0))
  · rw [if_neg h0, if_pos hfull] at htests
    exact hfail htests
  · obtain ⟨htimed, hsame⟩ := hdup
    rw [if_neg h0, if_neg hroom, if_neg (by rw [htimed]; nofun), if_pos (hany.mpr hsame)] at htests
    exact hfail htests
  · obtain ⟨htimed, htied, hlate⟩ := hstale
    rw [if_neg h0, if_neg hroom, if_neg (by rw [htimed]; nofun), if_neg fun hsame => hdup ⟨htimed, hany.mp hsame⟩,
      if_pos ⟨fun hu => htied ((Screen.untied_iff _).mp hu), hlate⟩] at htests
    exact hfail htests
  · have hpass : s.offerFailure e b = none := by
      rw [htests, if_neg h0, if_neg hroom]
      by_cases harrival : s.entries[e].timing = .arrival
      · rw [if_pos harrival]
      · have htimed : s.entries[e].timing = .timed := by
          cases h : s.entries[e].timing
          · rfl
          · exact absurd h harrival
        rw [if_neg harrival, if_neg fun hsame => hdup ⟨htimed, hany.mp hsame⟩,
          if_neg fun ⟨hu, hlate⟩ => hstale ⟨htimed, fun hm => hu ((Screen.untied_iff _).mpr hm), hlate⟩]
    obtain ⟨before, after, hsplit, hinsert, harrival, htimed⟩ := insertBlock_split s.entries[e].timing b queue
    refine ⟨before, after, hsplit, harrival, htimed, ?_⟩
    rw [State.offerBlock, hpass]
    show State.bumpEntry e .accepted 1 (State.modScreen _ _ _) = _
    unfold State.modScreen
    rw [adjust_eq_set, Playout.accept, hqueueOf, hinsert]
    rcases hstate with h | h
    · rw [if_pos h, h]
      rfl
    · rw [if_neg (by rw [h]; nofun), h]
      rfl

/-! ## Markers -/

/-- Settles O44: the test of lateness, then the depth, then the place. -/
theorem markerIsJudgedAtArrival : Obligations.MarkerIsJudgedAtArrival := by
  intro s i mode m x hx
  subst hx
  have hstale : (mode = .timed ∧ (!s.screens[i].untied) = true ∧
      (s.screens[i].settings.lateLimit : Int) < signedDiff s.screens[i].clock.now m.pt) ↔
      (mode = .timed ∧ ¬(s.screens[i].settings.clockMode = .selfTimed ∧ s.screens[i].playout.resync = true) ∧
        (s.screens[i].settings.lateLimit : Int) < signedDiff (s.stNow i) m.pt) := by
    rw [← Screen.untied_iff, Bool.not_eq_true', Bool.not_eq_true]
    rfl
  have hplace : s.placeMarker i mode m = _ := ite_eq_of_iff hstale rfl rfl
  dsimp only
  refine ⟨fun h => hplace.trans (if_pos h), fun h hfull => hplace.trans ((if_neg h).trans (if_pos hfull)),
    fun h hroom => ?_⟩
  obtain ⟨before, after, hsplit, hinsert, hbefore, hafter⟩ := insertMarker_split m s.screens[i].markers
  refine ⟨before, after, hsplit, hbefore, hafter, ?_⟩
  rw [hplace, if_neg h, if_neg (Nat.not_le.mpr hroom)]
  refine State.modScreen_congr i s ?_
  rw [hinsert]

/-! ## References -/

/-- R51, R56: the state a decision at the clock of screen i leaves, before its notice: the clock, the screen's tallies
and the cues. -/
def State.judged (i : ScreenNo) (c : Clock) (tallies : Vector Nat 7) (cues : Vector Cue 256) (s : State) : State :=
  { s with
    screens := s.screens.set i.val { s.screens[i] with clock := c, tallies := tallies } i.isLt
    cues := cues }

theorem State.judged_screen (i : ScreenNo) (c : Clock) (tallies : Vector Nat 7) (cues : Vector Cue 256) (s : State) :
    (s.judged i c tallies cues).screens[i] = { s.screens[i] with clock := c, tallies := tallies } :=
  Vector.getElem_set_self _

theorem State.judged_other (i j : ScreenNo) (c : Clock) (tallies : Vector Nat 7) (cues : Vector Cue 256) (s : State)
    (h : j ≠ i) : (s.judged i c tallies cues).screens[j] = s.screens[j] :=
  Vector.getElem_set_ne i.isLt _ fun he => h (Fin.ext he.symm)

theorem State.modClock_judged (i : ScreenNo) (f : Clock → Clock) (s : State) :
    s.modClock i f = s.judged i (f s.screens[i].clock) s.screens[i].tallies s.cues := by
  unfold State.modClock State.modScreen
  rw [adjust_eq_set]
  rfl

/-- R51: the tallies of a screen once a step by d is counted. -/
def steppedTallies (d : Int) (tallies : Vector Nat 7) : Vector Nat 7 :=
  if d = 0 then tallies else tallies.set 2 (min (tallies[2] + 1) 65535)

/-- R51: a step's screen, for every amount. -/
theorem State.stepClock_screen_any (i : ScreenNo) (d : Int) (s : State) :
    (s.stepClock i d).screens[i] =
      { s.screens[i] with
        clock := { s.screens[i].clock with base := s.screens[i].clock.base + BitVec.ofInt 32 d }
        tallies := steppedTallies d s.screens[i].tallies } := by
  unfold steppedTallies
  by_cases h : d = 0
  · rw [if_pos h, h, State.stepClock_zero, show BitVec.ofInt 32 0 = 0#32 from rfl, BitVec.add_zero]
  · rw [if_neg h, State.stepClock_screen i d s h]

/-- R51: a step and a change of the clock, after a change that leaves the clock's time. -/
theorem State.stepClock_judged (i : ScreenNo) (d : Int) (f g : Clock → Clock) (s : State)
    (hnow : (g s.screens[i].clock).now = s.screens[i].clock.now) :
    ((s.modClock i g).stepClock i d).modClock i f =
      s.judged i (f { g s.screens[i].clock with base := (g s.screens[i].clock).base + BitVec.ofInt 32 d })
        (s.stepClock i d).screens[i].tallies (s.stepClock i d).cues := by
  have hcues : ((s.modClock i g).stepClock i d).cues = (s.stepClock i d).cues := by
    refine State.stepClock_cues_congr i d rfl ?_
    unfold State.stNow
    rw [State.modClock_same, hnow]
  have hscreens : (((s.modClock i g).stepClock i d).modClock i f).screens =
      s.screens.set i.val
        { s.screens[i] with
          clock := f { g s.screens[i].clock with base := (g s.screens[i].clock).base + BitVec.ofInt 32 d }
          tallies := (s.stepClock i d).screens[i].tallies } i.isLt := by
    refine table_ext fun j => ?_
    by_cases h : j = i
    · subst h
      unfold State.modClock
      rw [State.modScreen_same, State.stepClock_screen_any, State.stepClock_screen_any, State.modScreen_same]
      exact (Vector.getElem_set_self _).symm
    · rw [State.modClock_other _ _ _ _ h, State.stepClock_other _ _ _ _ h, State.modClock_other _ _ _ _ h]
      exact (Vector.getElem_set_ne i.isLt _ fun he => h (Fin.ext he.symm)).symm
  unfold State.judged
  rw [← hscreens, ← hcues, State.stepClock_eq]
  rfl

/-- R64, R175: what a decision at the clock of screen i leaves outside that clock, its tallies and the cues. -/
def State.decidedBut (i : ScreenNo) (s t : State) : Prop :=
  (∀ j : ScreenNo, j ≠ i → t.screens[j] = s.screens[j]) ∧
    t = { s with
      screens := t.screens, cues := t.cues, reports := t.reports, sendingSeq := t.sendingSeq, upSeq := t.upSeq } ∧
    t.screens[i] =
      { s.screens[i] with
        clock := t.screens[i].clock, tallies := t.screens[i].tallies, noticeLost := t.screens[i].noticeLost }

/-- R64, R175: a decision that offers no notice. -/
theorem State.judged_outcome (i : ScreenNo) (c : Clock) (tallies : Vector Nat 7) (cues : Vector Cue 256) (s : State) :
    State.decidedBut i s (s.judged i c tallies cues) ∧ (s.judged i c tallies cues).cues = cues ∧
      (s.judged i c tallies cues).screens[i].tallies = tallies ∧
      State.clockOutcome i s (s.judged i c tallies cues) c none := by
  refine ⟨⟨fun j hj => State.judged_other i j c tallies cues s hj, rfl, ?_⟩, rfl, ?_, ?_, ?_, fun _ => rfl,
    fun _ => (List.append_nil _).symm⟩
  all_goals rw [State.judged_screen]
  exact (Bool.or_false _).symm

/-- R64, R175: a decision that offers a CLOCK notice. -/
theorem State.judged_raise_outcome (i : ScreenNo) (c : Clock) (tallies : Vector Nat 7) (cues : Vector Cue 256) (k : Int)
    (s t : State) (ht : t = (s.judged i c tallies cues).raiseClock i k) :
    State.decidedBut i s t ∧ t.cues = cues ∧ t.screens[i].tallies = tallies ∧ State.clockOutcome i s t c (some k) := by
  have hraise : t = (s.judged i c tallies cues).offerNotice
      { kind := .clock, screen := i, subject := 0, state := c.state.code, valueA := 0, valueB := k, st := c.now } := by
    rw [ht]
    unfold State.raiseClock State.raise State.stNow
    rw [State.judged_screen]
  have hreports : (s.judged i c tallies cues).reports = s.reports := rfl
  by_cases h : s.reports.length < 32
  · rw [State.offerNotice_of_space _ _ (hreports ▸ h)] at hraise
    have hscreens : t.screens = (s.judged i c tallies cues).screens := by rw [hraise, State.place_screens]
    unfold State.decidedBut State.clockOutcome
    rw [hscreens, State.judged_screen]
    refine ⟨⟨fun j hj => State.judged_other i j c tallies cues s hj, ?_, rfl⟩, ?_, rfl, rfl, ?_,
      fun hfull => absurd h (Nat.not_lt.mpr hfull), fun _ => ?_⟩
    · rw [hraise, State.place_eq]
      rfl
    · rw [hraise, State.place_cues]
      rfl
    · rw [decide_eq_false (Nat.not_le.mpr h), Bool.and_false, Bool.or_false]
    · rw [hraise, State.place_reports]
      rfl
  · rw [State.offerNotice_of_full _ _ (hreports ▸ h)] at hraise
    have hscreen : t.screens[i] = { s.screens[i] with clock := c, tallies := tallies, noticeLost := true } := by
      rw [hraise]
      show (State.modScreen i _ _).screens[i] = _
      rw [State.modScreen_same, State.judged_screen]
    unfold State.decidedBut State.clockOutcome
    rw [hscreen]
    refine ⟨⟨fun j hj => ?_, ?_, rfl⟩, ?_, rfl, rfl, ?_, fun _ => ?_, fun hroom => absurd hroom h⟩
    · rw [hraise]
      exact (State.modScreen_other _ _ _ _ hj).trans (State.judged_other i j c tallies cues s hj)
    · rw [hraise]
      rfl
    · rw [hraise]
      rfl
    · rw [decide_eq_true (Nat.not_lt.mp h), Option.isSome_some, Bool.and_true, Bool.or_true]
    · rw [hraise]
      rfl

/-- R56 step 4: an accepted reference restarts the count of blocks since a reference. -/
def State.countedReference (i : ScreenNo) (s : State) : State := s.modClock i fun c => { c with sinceReference := 0 }

theorem State.countedReference_screen (i : ScreenNo) (s : State) :
    (s.countedReference i).screens[i] =
      { s.screens[i] with clock := { s.screens[i].clock with sinceReference := 0 } } := State.modScreen_same _ _ _

section
variable {i : ScreenNo} {d : Int} {s t : State} {c : Clock} {f : Clock → Clock}

/-- R58 to R60: a decision without a step, without a notice. -/
theorem State.decided_quiet (hc : c = { s.screens[i].clock with sinceReference := 0 })
    (ht : t = (s.countedReference i).modClock i f) :
    (State.decidedBut i s t ∧ (0 ≤ d → t.cues = s.cues)) ∧
      (t.cues = s.cues ∧ t.screens[i].tallies = s.screens[i].tallies) ∧ State.clockOutcome i s t (f c) none := by
  have hjudged : t = s.judged i (f c) s.screens[i].tallies s.cues := by
    rw [ht, hc, State.countedReference, State.modClock, State.modClock, State.modScreen_modScreen]
    exact State.modClock_judged i (fun c => f { c with sinceReference := 0 }) s
  obtain ⟨hbut, hcues, htallies, hout⟩ := State.judged_outcome i (f c) s.screens[i].tallies s.cues s
  rw [hjudged]
  exact ⟨⟨hbut, fun _ => hcues⟩, ⟨hcues, htallies⟩, hout⟩

/-- R58, R60: a decision without a step that locks the clock. -/
theorem State.decided_notice (hc : c = { s.screens[i].clock with sinceReference := 0 })
    (ht : t = ((s.countedReference i).modClock i f).raiseClock i 0) :
    (State.decidedBut i s t ∧ (0 ≤ d → t.cues = s.cues)) ∧
      (t.cues = s.cues ∧ t.screens[i].tallies = s.screens[i].tallies) ∧ State.clockOutcome i s t (f c) (some 0) := by
  have hjudged : (s.countedReference i).modClock i f = s.judged i (f c) s.screens[i].tallies s.cues := by
    rw [hc, State.countedReference, State.modClock, State.modClock, State.modScreen_modScreen]
    exact State.modClock_judged i (fun c => f { c with sinceReference := 0 }) s
  rw [hjudged] at ht
  obtain ⟨hbut, hcues, htallies, hout⟩ := State.judged_raise_outcome i (f c) s.screens[i].tallies s.cues 0 s t ht
  exact ⟨⟨hbut, fun _ => hcues⟩, ⟨hcues, htallies⟩, hout⟩

/-- R51, R57 to R60: a decision that steps. -/
theorem State.decided_step (hc : c = { s.screens[i].clock with sinceReference := 0 })
    (ht : t = (((s.countedReference i).stepClock i d).modClock i f).raiseClock i d) :
    (State.decidedBut i s t ∧ (0 ≤ d → t.cues = s.cues)) ∧
      (t.cues = (s.stepClock i d).cues ∧ t.screens[i].tallies = (s.stepClock i d).screens[i].tallies) ∧
      State.clockOutcome i s t (f { c with base := c.base + BitVec.ofInt 32 d }) (some d) := by
  rw [State.countedReference, State.stepClock_judged i d f (fun c => { c with sinceReference := 0 }) s rfl] at ht
  obtain ⟨hbut, hcues, htallies, hout⟩ := State.judged_raise_outcome i _ _ (s.stepClock i d).cues d s t ht
  rw [hc]
  exact ⟨⟨hbut, fun h => hcues.trans (State.stepClock_cues_forward i d s h)⟩, ⟨hcues, htallies⟩, hout⟩

end

/-- R56: the decision of each clock state. -/
theorem State.acceptReference_eq (i : ScreenNo) (d : Int) (jump : Bool) (s : State) :
    s.acceptReference i d jump =
      if jump then (s.countedReference i).judgeDiscontinuity i d
      else if s.screens[i].clock.state = .acquiring then (s.countedReference i).judgeAcquiring i d
      else if s.screens[i].clock.state = .locked then (s.countedReference i).judgeLocked i d
      else if s.screens[i].clock.state = .holdover then (s.countedReference i).judgeHoldover i d
      else s.countedReference i := by
  have hstate : (s.countedReference i).screens[i].clock.state = s.screens[i].clock.state := by
    rw [State.countedReference_screen]
  unfold State.acceptReference
  refine ite_eq_of_iff Iff.rfl rfl ?_
  unfold State.countedReference at hstate ⊢
  rw [hstate]
  cases s.screens[i].clock.state <;> rfl

/-- R58: the three decisions in ACQUIRING. -/
theorem State.countedReference_acquiring (i : ScreenNo) (d : Int) (s : State) :
    (s.countedReference i).judgeAcquiring i d =
      if d.natAbs ≤ s.screens[i].settings.window then
        if s.screens[i].clock.inWindow + 1 < s.screens[i].settings.lockN then
          (s.countedReference i).modClock i fun c => { c with inWindow := c.inWindow + 1 }
        else
          ((s.countedReference i).modClock i fun c =>
            { c with state := .locked, inWindow := 0, outWindow := 0 }).raiseClock i 0
      else (((s.countedReference i).stepClock i d).modClock i fun c => { c with inWindow := 0 }).raiseClock i d := by
  unfold State.judgeAcquiring
  rw [State.countedReference_screen]
  exact ite_eq_of_iff (Screen.withinWindow_iff _ d) rfl rfl

/-- R59: the three decisions in LOCKED. -/
theorem State.countedReference_locked (i : ScreenNo) (d : Int) (s : State) :
    (s.countedReference i).judgeLocked i d =
      if d.natAbs ≤ s.screens[i].settings.window then
        (s.countedReference i).modClock i fun c => { c with slip := d, outWindow := 0 }
      else if s.screens[i].clock.outWindow + 1 < s.screens[i].settings.unlockN then
        (s.countedReference i).modClock i fun c => { c with outWindow := c.outWindow + 1 }
      else
        (((s.countedReference i).stepClock i d).modClock i fun c =>
          { c with state := .acquiring, inWindow := 0, outWindow := 0, slip := 0 }).raiseClock i d := by
  unfold State.judgeLocked
  rw [State.countedReference_screen]
  exact ite_eq_of_iff (Screen.withinWindow_iff _ d) rfl rfl

/-- R60: the two decisions in HOLDOVER. -/
theorem State.countedReference_holdover (i : ScreenNo) (d : Int) (s : State) :
    (s.countedReference i).judgeHoldover i d =
      if d.natAbs ≤ s.screens[i].settings.window then
        ((s.countedReference i).modClock i fun c =>
          { c with state := .locked, slip := d, inWindow := 0, outWindow := 0 }).raiseClock i 0
      else
        (((s.countedReference i).stepClock i d).modClock i fun c =>
          { c with state := .acquiring, inWindow := 0, outWindow := 0, slip := 0 }).raiseClock i d := by
  unfold State.judgeHoldover
  rw [State.countedReference_screen]
  exact ite_eq_of_iff (Screen.withinWindow_iff _ d) rfl rfl

/-- R56 to R60, R64: every decision changes the clock, the tallies of its screen and the cues alone, and offers at most
a notice. -/
theorem State.acceptReference_decided (i : ScreenNo) (d : Int) (jump : Bool) (s : State) :
    State.decidedBut i s (s.acceptReference i d jump) ∧ (0 ≤ d → (s.acceptReference i d jump).cues = s.cues) := by
  have hcounted : s.countedReference i = (s.countedReference i).modClock i fun c => c :=
    (State.modScreen_id i (s.countedReference i)).symm
  rw [State.acceptReference_eq]
  split
  · exact (State.decided_step rfl rfl).1
  split
  · rw [State.countedReference_acquiring]
    split
    · split
      · exact (State.decided_quiet rfl rfl).1
      · exact (State.decided_notice rfl rfl).1
    · exact (State.decided_step rfl rfl).1
  split
  · rw [State.countedReference_locked]
    split
    · exact (State.decided_quiet rfl rfl).1
    split
    · exact (State.decided_quiet rfl rfl).1
    · exact (State.decided_step rfl rfl).1
  split
  · rw [State.countedReference_holdover]
    split
    · exact (State.decided_notice rfl rfl).1
    · exact (State.decided_step rfl rfl).1
  · exact (State.decided_quiet rfl hcounted).1

theorem State.judgeReference_eq {e : EntryNo} {r : ScreenTime} {jump : Bool} {i : ScreenNo} {d : Int} {s : State}
    (hi : i = s.entries[e].screen) (hd : d = s.screens[i].referenceDifference r) :
    s.judgeReference e r jump =
      if s.screens[i].clock.state = .unreferenced then s.bumpEntry e .refIgnored 1
      else if d = -2147483648 then s.bumpScreen i .refBad
      else s.acceptReference i d jump := by
  subst hi
  subst hd
  rfl

/-- Settles O43: the two refusals, then the decision of each clock state as one step or none, with its notice. -/
theorem referenceIsDecidedByTheClockState : Obligations.ReferenceIsDecidedByTheClockState := by
  intro s t e r jump i x d c hi hx hd hc ht
  subst hx
  rw [State.judgeReference_eq hi hd] at ht
  refine ⟨fun h => ht.trans (if_pos h), fun h hbad => ht.trans ((if_neg h).trans (if_pos hbad)), fun hne hok => ?_⟩
  rw [if_neg hne, if_neg hok] at ht
  obtain ⟨⟨hother, hframe, hscreen⟩, hforward⟩ := s.acceptReference_decided i d jump
  rw [← ht] at hother hframe hscreen hforward
  have hstate : c.state = s.screens[i].clock.state := by rw [hc]
  have hin : c.inWindow = s.screens[i].clock.inWindow := by rw [hc]
  have hout : c.outWindow = s.screens[i].clock.outWindow := by rw [hc]
  rw [State.acceptReference_eq, State.countedReference_acquiring, State.countedReference_locked,
    State.countedReference_holdover, ← hstate, ← hin, ← hout] at ht
  refine ⟨hother, hframe, hscreen, hforward, fun hj => ?_, fun hj hs hw hn => ?_, fun hj hs hw hn => ?_,
    fun hj hs hw => ?_, fun hj hs hw => ?_, fun hj hs hw hn => ?_, fun hj hs hw hn => ?_, fun hj hs hw => ?_,
    fun hj hs hw => ?_⟩
  · rw [if_pos hj] at ht
    exact (State.decided_step hc ht).2
  all_goals rw [if_neg (by rw [hj]; nofun)] at ht
  · rw [if_pos hs, if_pos hw, if_pos hn] at ht
    exact (State.decided_quiet (d := d) hc ht).2
  · rw [if_pos hs, if_pos hw, if_neg (by omega)] at ht
    exact (State.decided_notice (d := d) hc ht).2
  · rw [if_pos hs, if_neg hw] at ht
    exact (State.decided_step hc ht).2
  · rw [if_neg (by rw [hs]; nofun), if_pos hs, if_pos hw] at ht
    exact (State.decided_quiet (d := d) hc ht).2
  · rw [if_neg (by rw [hs]; nofun), if_pos hs, if_neg hw, if_pos hn] at ht
    exact (State.decided_quiet (d := d) hc ht).2
  · rw [if_neg (by rw [hs]; nofun), if_pos hs, if_neg hw, if_neg (by omega)] at ht
    exact (State.decided_step hc ht).2
  · rw [if_neg (by rw [hs]; nofun), if_neg (by rw [hs]; nofun), if_pos hs, if_pos hw] at ht
    exact (State.decided_notice (d := d) hc ht).2
  · rw [if_neg (by rw [hs]; nofun), if_neg (by rw [hs]; nofun), if_pos hs, if_neg hw] at ht
    exact (State.decided_step hc ht).2

end Sys2Proof.Machine
end

section
/-! PROOFS. What no cue changes, and the time, the level and the feeds of a boundary (R35, R49, R50, R61, R72, R84, R98,
R106, R107, R121, R130). -/

namespace Sys2Proof.Machine

/-! ## What no cue changes of the schedule -/

/-- A cue's action moves no fader and no boundary, sets and clears no resync flag and no lost notice, and offers notices
of the cues and the check alone. -/
structure State.CueLeaves (j : ScreenNo) (s t : State) : Prop where
  fader : t.screens[j].level.fader = s.screens[j].level.fader
  boundary : t.screens[j].playout.nextBoundary = s.screens[j].playout.nextBoundary
  resync : t.screens[j].playout.resync = s.screens[j].playout.resync
  lost : s.screens[j].noticeLost = true → t.screens[j].noticeLost = true
  frames : ∃ more : List UpFrame, t.reports = s.reports ++ more ∧ ∀ f ∈ more, ∃ n, f = .notice n ∧ n.kind ≠ .clock

section
variable {i j : ScreenNo}

theorem State.CueLeaves.of_same {s t : State} (hscreens : t.screens = s.screens) (hreports : t.reports = s.reports) :
    State.CueLeaves j s t := by
  refine ⟨?_, ?_, ?_, ?_, [], by rw [hreports, List.append_nil], nofun⟩ <;> rw [hscreens]
  exact id

theorem State.CueLeaves.refl (s : State) : State.CueLeaves j s s := .of_same rfl rfl

theorem State.CueLeaves.trans {s t u : State} (h : State.CueLeaves j s t) (g : State.CueLeaves j t u) :
    State.CueLeaves j s u where
  fader := g.fader.trans h.fader
  boundary := g.boundary.trans h.boundary
  resync := g.resync.trans h.resync
  lost hs := g.lost (h.lost hs)
  frames := by
    obtain ⟨first, hfirst, hkinds⟩ := h.frames
    obtain ⟨rest, hrest, hkinds'⟩ := g.frames
    refine ⟨first ++ rest, by rw [hrest, hfirst, List.append_assoc], fun f hf => ?_⟩
    rcases List.mem_append.mp hf with hf | hf
    · exact hkinds f hf
    · exact hkinds' f hf

theorem State.modScreen_cueLeaves (f : Screen → Screen) (s : State)
    (hf : ∀ x : Screen, f x =
      { f x with
        level := { (f x).level with fader := x.level.fader }
        playout := { (f x).playout with nextBoundary := x.playout.nextBoundary, resync := x.playout.resync }
        noticeLost := x.noticeLost }) :
    State.CueLeaves j s (s.modScreen i f) := by
  by_cases hj : j = i
  · subst hj
    refine ⟨?_, ?_, ?_, ?_, [], (List.append_nil _).symm, nofun⟩ <;> rw [State.modScreen_same, hf s.screens[j]]
    exact id
  · have hsame := State.modScreen_other i j f s hj
    refine ⟨?_, ?_, ?_, ?_, [], (List.append_nil _).symm, nofun⟩ <;> rw [hsame]
    exact id

theorem State.offerNotice_cueLeaves (n : Notice) (s : State) (hn : n.kind ≠ .clock) :
    State.CueLeaves j s (s.offerNotice n) := by
  refine ⟨?_, ?_, ?_, fun hl => ?_, ?_⟩
  · rw [State.offerNotice_screen_level]
  · rw [State.offerNotice_screen_playout]
  · rw [State.offerNotice_screen_playout]
  · rcases s.offerNotice_cases n with h | h <;> rw [h]
    · rw [State.place_screens]
      exact hl
    · by_cases hj : j = n.screen
      · subst hj
        rw [State.modScreen_same]
      · rw [State.modScreen_other _ _ _ _ hj]
        exact hl
  · rcases s.offerNotice_cases n with h | h <;> rw [h]
    · exact ⟨[.notice n], by rw [State.place_reports], fun f hf => ⟨n, List.mem_singleton.mp hf, hn⟩⟩
    · exact ⟨[], (List.append_nil _).symm, nofun⟩

theorem State.raise_cueLeaves (k : NoticeKind) (a b c : Nat) (d : Int) (s : State) (hk : k ≠ .clock) :
    State.CueLeaves j s (s.raise k i a b c d) := State.offerNotice_cueLeaves _ s hk

theorem State.freeProgram_cueLeaves (i : ScreenNo) (s : State) : State.CueLeaves j s (s.freeProgram i) := by
  unfold State.freeProgram
  exact .trans (t := s.release _) (.of_same rfl rfl) (State.modScreen_cueLeaves _ _ fun _ => rfl)

theorem State.retireActive_cueLeaves (i : ScreenNo) (s : State) : State.CueLeaves j s (s.retireActive i) := by
  unfold State.retireActive
  split <;> exact .of_same rfl rfl

/-- R24: a SOURCE action. -/
theorem State.activateEntry_cueLeaves (e : EntryNo) (s : State) : State.CueLeaves j s (s.activateEntry e).1 := by
  unfold State.activateEntry
  split
  · have hswap : State.CueLeaves j (s.freeProgram s.entries[e].screen)
        ((s.freeProgram s.entries[e].screen).swapQueues s.entries[e].screen) :=
      State.modScreen_cueLeaves _ _ fun _ => rfl
    have hretire := (State.freeProgram_cueLeaves (j := j) s.entries[e].screen s).trans
      (hswap.trans (State.retireActive_cueLeaves s.entries[e].screen _))
    exact hretire.trans (.of_same rfl rfl)
  · have hretire := (State.freeProgram_cueLeaves (j := j) s.entries[e].screen s).trans
      (State.retireActive_cueLeaves s.entries[e].screen _)
    exact hretire.trans (.of_same rfl rfl)
  · exact .refl s
  · exact .refl s

/-- R23: a PRIME action. -/
theorem State.primeEntry_cueLeaves (e : EntryNo) (s : State) : State.CueLeaves j s (s.primeEntry e).1 := by
  unfold State.primeEntry
  split
  · refine State.CueLeaves.trans (t := s.displacePrimed s.entries[e].screen) ?_ (.of_same rfl rfl)
    unfold State.displacePrimed
    split
    · unfold State.freeStandby
      exact State.CueLeaves.trans (t := (s.setEntryState _ _).release _) (.of_same rfl rfl)
        (State.modScreen_cueLeaves _ _ fun _ => rfl)
    · exact .refl s
  all_goals exact .refl s

/-- R112: a CHECK action. -/
theorem State.beginCheck_cueLeaves (spec : CheckSpec) (s : State) : State.CueLeaves j s (s.beginCheck i spec) := by
  unfold State.beginCheck State.raiseCheckDone
  dsimp only
  split
  · exact (State.modScreen_cueLeaves _ _ fun _ => rfl).trans (State.raise_cueLeaves _ _ _ _ _ _ nofun)
  · exact (State.modScreen_cueLeaves _ _ fun _ => rfl).trans (State.modScreen_cueLeaves _ _ fun _ => rfl)

/-- R117: a STOP_CHECK action. -/
theorem State.endCheck_cueLeaves (s : State) : State.CueLeaves j s (s.endCheck i) := by
  unfold State.endCheck State.raiseCheckDone
  refine .trans ?_ (State.raise_cueLeaves _ _ _ _ _ _ nofun)
  exact (State.modScreen_cueLeaves _ _ fun _ => rfl).trans
    (State.modScreen_cueLeaves _ _ fun _ => rfl)

/-- R158, R159: the action of a cue. -/
theorem State.fireAction_cueLeaves (n : CueNo) (c : CueSpec) (s : State) :
    State.CueLeaves j s (s.fireAction i n c).1 := by
  unfold State.fireAction
  split
  · unfold State.firePreset
    split
    · split
      · exact State.modScreen_cueLeaves _ _ fun _ => rfl
      · exact .refl s
    · exact .refl s
  · exact State.modScreen_cueLeaves _ _ fun _ => rfl
  · exact State.modScreen_cueLeaves _ _ fun _ => rfl
  · exact State.modScreen_cueLeaves _ _ fun _ => rfl
  · unfold State.fireSource
    split
    · dsimp only
      split
      · exact .refl s
      split
      · exact .refl s
      all_goals exact State.activateEntry_cueLeaves _ s
    · exact .refl s
  · unfold State.firePrime
    split
    · dsimp only
      split
      · exact .refl s
      split
      · exact .refl s
      · exact .refl s
      all_goals exact State.primeEntry_cueLeaves _ s
    · exact .refl s
  · exact State.modScreen_cueLeaves _ _ fun _ => rfl
  · exact State.modScreen_cueLeaves _ _ fun _ => rfl
  · unfold State.fireCheck
    split
    · exact .refl s
    · exact State.beginCheck_cueLeaves _ s
  · unfold State.fireStopCheck
    split
    · exact State.endCheck_cueLeaves s
    · exact .refl s
  · exact State.raise_cueLeaves _ _ _ _ _ _ nofun

/-- R157: one cue fires. -/
theorem State.fireCue_cueLeaves (n : CueNo) (s : State) : State.CueLeaves j s (s.fireCue i n) := by
  have haction := State.fireAction_cueLeaves (i := i) (j := j) n s.cues[n].spec s
  have hfault (f : CueFault) (u : State) : State.CueLeaves j u (u.raiseCueFault i n f) := by
    unfold State.raiseCueFault
    split
    · exact .refl u
    · exact State.raise_cueLeaves _ _ _ _ _ _ nofun
  exact (haction.trans (hfault _ _)).trans (.of_same rfl rfl)

/-- R154 to R157: the cue stage. -/
theorem State.cueStage_cueLeaves (t : ScreenTime) (held : Bool) (s : State) :
    State.CueLeaves j s (s.cueStage i t held) := by
  have hjudge : State.CueLeaves j s (s.judgeCues i t held) :=
    State.CueLeaves.trans (t := s.removeMarkers i t) (State.modScreen_cueLeaves _ _ fun _ => rfl)
      (.of_same rfl rfl)
  have hfire (due : List CueNo) (u : State) : State.CueLeaves j u (due.foldl (fun s n => s.fireCue i n) u) := by
    induction due generalizing u with
    | nil => exact .refl u
    | cons n rest ih => exact (State.fireCue_cueLeaves n u).trans (ih _)
  exact (hjudge.trans (hfire _ _)).trans (.of_same (State.armChildren_screens _ _) rfl)

end

end Sys2Proof.Machine
end

section
/-! PROOFS. The effects of a selection and of the standby pruning, and what a boundary hands its cue stage (R27, R28,
R36, R38 to R45). -/

namespace Sys2Proof.Machine

/-! ## The effects of a selection -/

section
variable {i : ScreenNo} {a : Option EntryNo} {e : EntryNo}

theorem State.bumpEntry?_some (t : EntryTally) (n : Nat) (s : State) : s.bumpEntry? (some e) t n = s.bumpEntry e t n := rfl

theorem State.bumpEntry?_screens (t : EntryTally) (n : Nat) (s : State) : (s.bumpEntry? a t n).screens = s.screens := by
  cases a <;> rfl

theorem State.bumpEntry?_freeSlots (t : EntryTally) (n : Nat) (s : State) :
    (s.bumpEntry? a t n).freeSlots = s.freeSlots := by
  cases a <;> rfl

theorem State.bumpEntry?_other (h : a ≠ some e) (t : EntryTally) (n : Nat) (s : State) :
    (s.bumpEntry? a t n).entries[e] = s.entries[e] := by
  cases a with
  | none => rfl
  | some b => exact State.modEntry_other b e _ s fun heq => h (congrArg some heq.symm)

theorem State.bumpEntry_tallies (t : EntryTally) (n : Nat) (s : State) :
    (s.bumpEntry e t n).entries[e].tallies =
      s.entries[e].tallies.set t.place.val (min (s.entries[e].tallies[t.place] + n) 65535) t.place.isLt := by
  unfold State.bumpEntry
  rw [State.modEntry_same]
  rfl

/-- R36, R41: a decision counts on its tally alone. -/
theorem State.countDecision_freeSlots (d : Decision) (s : State) : (s.countDecision i a d).freeSlots = s.freeSlots := by
  cases d with
  | underrun => cases a <;> rfl
  | wait => rfl
  | latePlay => exact State.bumpEntry?_freeSlots _ _ _
  | onTime => rfl

theorem State.countDecision_entry_other (h : a ≠ some e) (d : Decision) (s : State) :
    (s.countDecision i a d).entries[e] = s.entries[e] := by
  cases d with
  | underrun => cases a <;> rfl
  | wait => rfl
  | latePlay => exact State.bumpEntry?_other h _ _ _
  | onTime => rfl

theorem State.countDecision_entry (d : Decision) (s : State) :
    (s.countDecision i (some e) d).entries[e].tallies = s.entries[e].tallies.set 7
      (if d = .latePlay then min (s.entries[e].tallies[7] + 1) 65535 else s.entries[e].tallies[7]) := by
  cases d with
  | latePlay => exact State.bumpEntry_tallies .late 1 s
  | underrun => exact (Vector.set_getElem_self _).symm
  | wait => exact (Vector.set_getElem_self _).symm
  | onTime => exact (Vector.set_getElem_self _).symm

theorem State.countDecision_screen_other {j : ScreenNo} (hj : j ≠ i) (d : Decision) (s : State) :
    (s.countDecision i a d).screens[j] = s.screens[j] := by
  cases d with
  | underrun =>
    cases a with
    | none => rfl
    | some _ => exact State.modScreen_other i j _ s hj
  | wait => exact State.modScreen_other i j _ s hj
  | latePlay => exact congrArg (fun v : Vector Screen 6 => v[j]) (State.bumpEntry?_screens _ _ _)
  | onTime => rfl

/-- R36, R41: the tallies of the screen, UNDERRUN only with an ACTIVE entry. -/
theorem State.countDecision_screen (d : Decision) (s : State) :
    (s.countDecision i a d).screens[i] =
      { s.screens[i] with
        tallies :=
          (s.screens[i].tallies.set 0 (if d = .underrun ∧ a.isSome then min (s.screens[i].tallies[0] + 1) 65535
            else s.screens[i].tallies[0])).set 1
            (if d = .wait then min (s.screens[i].tallies[1] + 1) 65535 else s.screens[i].tallies[1]) } := by
  have hsame (v : Vector Nat 7) : (v.set 0 v[0]).set 1 v[1] = v := by
    rw [Vector.set_getElem_self, Vector.set_getElem_self]
  have hkeep (x : Screen) : x = { x with tallies := (x.tallies.set 0 x.tallies[0]).set 1 x.tallies[1] } := by
    rw [hsame]
  cases d with
  | underrun =>
    cases a with
    | none => exact hkeep _
    | some e =>
      refine (State.modScreen_same i _ s).trans ?_
      have hone (n : Nat) : (s.screens[i].tallies.set 0 n)[1] = s.screens[i].tallies[1] :=
        Vector.getElem_set_ne _ _ (by decide)
      rw [if_pos ⟨rfl, rfl⟩, if_neg (by nofun), ← hone, Vector.set_getElem_self]
      rfl
  | wait =>
    refine (State.modScreen_same i _ s).trans ?_
    rw [if_neg (by nofun), if_pos rfl, Vector.set_getElem_self]
    rfl
  | latePlay => 
    refine (congrArg (fun v : Vector Screen 6 => v[i]) (State.bumpEntry?_screens _ _ _)).trans ?_
    exact hkeep _
  | onTime => exact hkeep _

/-- R27, R41 to R43: what a selection leaves of its screen. -/
theorem State.applySelection_screen (r : Selection) (s : State) :
    (s.applySelection i a r).screens[i] =
      { s.screens[i] with
        playout :=
          { s.screens[i].playout with
            program := r.rest
            resync := s.screens[i].playout.resync ||
              decide (s.screens[i].settings.clockMode = .selfTimed ∧ 0 < r.stale + r.farEarly) }
        tallies :=
          (s.screens[i].tallies.set 0
            (if r.decision = .underrun ∧ a.isSome then min (s.screens[i].tallies[0] + 1) 65535
              else s.screens[i].tallies[0])).set 1
            (if r.decision = .wait then min (s.screens[i].tallies[1] + 1) 65535 else s.screens[i].tallies[1]) } := by
  unfold State.applySelection
  dsimp only
  rw [State.countDecision_screen, State.bumpEntry?_screens, State.bumpEntry?_screens, State.modScreen_same,
    Bool.decide_and]
  rfl

theorem State.applySelection_screen_other {j : ScreenNo} (hj : j ≠ i) (r : Selection) (s : State) :
    (s.applySelection i a r).screens[j] = s.screens[j] := by
  unfold State.applySelection
  dsimp only
  rw [State.countDecision_screen_other hj, State.bumpEntry?_screens, State.bumpEntry?_screens,
    State.modScreen_other _ _ _ _ hj]
  rfl

theorem State.applySelection_freeSlots (r : Selection) (s : State) :
    (s.applySelection i a r).freeSlots = s.freeSlots + (s.screens[i].playout.program.length - r.rest.length) := by
  unfold State.applySelection
  dsimp only
  rw [State.countDecision_freeSlots, State.bumpEntry?_freeSlots, State.bumpEntry?_freeSlots]
  rfl

theorem State.applySelection_entry_other (h : a ≠ some e) (r : Selection) (s : State) :
    (s.applySelection i a r).entries[e] = s.entries[e] := by
  unfold State.applySelection
  dsimp only
  rw [State.countDecision_entry_other h, State.bumpEntry?_other h, State.bumpEntry?_other h]
  rfl

/-- R42: STALE, FAR_EARLY and LATE of the ACTIVE entry. -/
theorem State.applySelection_entry (r : Selection) (s : State) :
    (s.applySelection i (some e) r).entries[e].tallies =
      ((s.entries[e].tallies.set 6 (min (s.entries[e].tallies[6] + r.stale) 65535)).set 8
        (min (s.entries[e].tallies[8] + r.farEarly) 65535)).set 7
        (if r.decision = .latePlay then min (s.entries[e].tallies[7] + 1) 65535 else s.entries[e].tallies[7]) := by
  have hstale (u : State) (n : Nat) : (u.bumpEntry e .stale n).entries[e].tallies =
      u.entries[e].tallies.set 6 (min (u.entries[e].tallies[6] + n) 65535) := State.bumpEntry_tallies .stale n u
  have hearly (u : State) (n : Nat) : (u.bumpEntry e .farEarly n).entries[e].tallies =
      u.entries[e].tallies.set 8 (min (u.entries[e].tallies[8] + n) 65535) := State.bumpEntry_tallies .farEarly n u
  unfold State.applySelection
  dsimp only
  rw [State.countDecision_entry, State.bumpEntry?_some, State.bumpEntry?_some, hearly, hstale]
  rw [Vector.getElem_set_ne (i := 6) (j := 8) _ _ (by decide), Vector.getElem_set_ne (i := 8) (j := 7) _ _ (by decide),
    Vector.getElem_set_ne (i := 6) (j := 7) _ _ (by decide)]
  rfl

/-! ## Pruning -/

/-- R45: the standby queue of a TIMED entry outside an untied SELF_TIMED screen is pruned by T. -/
theorem State.pruneStandby_of_timed {s : State} (he : s.primedEntry i = some e) (ht : s.entries[e].timing = .timed)
    (hu : s.screens[i].untied = false) (kept : List Block)
    (hk : kept = keptStandby s.screens[i].clock.base s.screens[i].settings.lateLimit s.screens[i].playout.standby) :
    s.pruneStandby i =
      ((s.release (s.screens[i].playout.standby.length - kept.length)).modScreen i fun x =>
        { x with playout := { x.playout with standby := kept } }).bumpEntry e .pruned
        (s.screens[i].playout.standby.length - kept.length) := by
  subst hk
  unfold State.pruneStandby
  rw [he]
  exact if_neg fun h => h.elim (fun h => by rw [State.modeOf, ht] at h; exact nomatch h)
    fun h => by rw [hu] at h; exact nomatch h

theorem State.pruneStandby_of_arrival {s : State} (he : s.primedEntry i = some e) (ht : s.entries[e].timing = .arrival) :
    s.pruneStandby i = s := by
  unfold State.pruneStandby
  rw [he]
  exact if_pos (.inl ht)

theorem State.pruneStandby_of_untied {s : State} (hu : s.screens[i].untied = true) : s.pruneStandby i = s :=
  if_pos (.inr hu)

/-- R45: without a PRIMED entry an empty queue stays as it is. -/
theorem State.pruneStandby_of_empty {s : State} (he : s.primedEntry i = none) (hq : s.screens[i].playout.standby = []) :
    s.pruneStandby i = s := by
  unfold State.pruneStandby
  dsimp only
  rw [he, hq]
  split
  · rfl
  · refine Eq.trans (State.modScreen_congr i (g := fun x => x) s ?_) (State.modScreen_id i s)
    show { s.screens[i] with playout := { s.screens[i].playout with standby := [] } } = s.screens[i]
    rw [← hq]

end

/-! ## What a boundary hands its cue stage -/

/-- R37: the stages of a boundary in one account: `a` has the time of stage 2, `p` the selection and the pruning, `v` is the
state whose check stage 6 judges, `u` meets the cue stage. -/
theorem State.boundary_reaches (i : ScreenNo) (s : State) (x y : Screen) (r : Selection) (hx : x = s.screens[i])
    (hy : y = s.latchedScreen i) (hr : r = s.selectionAt i x.timed.base) :
    ∃ (a p v u : State) (handed : Vector Handed 2),
      s.boundary i = u.cueStage i u.screens[i].clock.base y.cuesHeld ∧
      (a.screens[i] =
        { y with
          clock := x.timed
          playout := { (x.scheduleNext s.wordClock).playout with resync := x.playout.resync && x.resyncTime.isNone }
          tallies := a.screens[i].tallies
          noticeLost := a.screens[i].noticeLost } ∧
        (∀ n : Fin 7, n ≠ 2 → n ≠ 3 → a.screens[i].tallies[n] = x.tallies[n]) ∧
        a.entries = s.entries ∧ a.freeSlots = s.freeSlots) ∧
      (p = (a.applySelection i (s.activeEntry i) r).pruneStandby i ∧ State.keepsAllButPool i a p ∧
        u.entries = p.entries ∧ u.freeSlots = p.freeSlots) ∧
      u.screens[i] =
        { p.screens[i] with
          playout := { p.screens[i].playout with mode := u.screens[i].playout.mode }
          feeds := u.screens[i].feeds
          signal := u.screens[i].signal
          lanes := u.screens[i].lanes
          channelHolds := u.screens[i].channelHolds
          meterCount := u.screens[i].meterCount
          records := u.screens[i].records
          noticeLost := u.screens[i].noticeLost } ∧
      (∀ l : Fin 2, u.screens[i].lanes[l] = x.lanes[l].exchanged
        (tabulate fun j : Fin 8 => (s.feedBlocks i r.played)[laneFeed l j].out)) ∧
      (∀ l : Fin 2, x.lanes[l].sound → handed[l] = x.lanes[l].twoBack) ∧
      (v.screens[i].signal = x.signal.countCheck.advance ∧ v.screens[i].playout.mode = x.playout.mode ∧
        v.screens[i].clock = x.timed) ∧
      u = (v.checkStage i handed).modScreen i fun z => { z with feeds := u.screens[i].feeds } := by
  obtain ⟨a, p, v, u, m, z, b, hbd, has, hat, hae, haf, hp, hkp, ⟨lost, hm⟩, hz, hb, hve, hvf, hvs, -, hu⟩ :=
    State.boundary_stages i s x y r _ hx hy hr rfl
  obtain ⟨done, -, hck, -⟩ := State.checkStage_shiftPeaks_leaves i b.handed _ v u hu
  have hps := hkp.1
  have hzeq := Screen.metered_measured_eq { p.screens[i] with noticeLost := lost } r.played (s.feedBlocks i r.played)
    (decide (s.reports.length + (s.earlyFrames i).length < 32))
  rw [← hm, ← hz] at hzeq
  have hmeq := m.metered_eq (decide (s.reports.length + (s.earlyFrames i).length < 32))
  rw [← hz] at hmeq
  have hpclock : p.screens[i].clock = x.timed := by rw [hps, has]
  have hplanes : p.screens[i].lanes = x.lanes := by rw [hps, has, hy, hx]; rfl
  have hzsignal : z.signal = x.signal.countCheck.advance := by rw [hmeq, hm, hps, has, hy, hx]; rfl
  have hzlanes (l : Fin 2) : z.lanes[l] = x.lanes[l].send
      (tabulate fun j : Fin 8 => (s.feedBlocks i r.played)[laneFeed l j].out) := by
    rw [hmeq, hm]
    refine (tabulate_get _ l).trans ?_
    rw [← hplanes]
    refine congrArg (Lane.send _) (table_ext fun j => ?_)
    rw [tabulate_get, tabulate_get]
    exact tabulate_get _ _
  refine ⟨a, p, v, u, b.handed, hbd, ⟨has, hat, hae, haf⟩, ⟨hp, hkp, hck.2.2.1.trans hve, hck.2.2.2.1.trans hvf⟩, ?_,
    fun l => ?_, fun l hl => ?_, ⟨?_, ?_, ?_⟩, ?_⟩
  · rw [hck.screen, hvs, hzeq]
    rfl
  · rw [hck.screen, hvs]
    show z.handLanes.lanes[l] = _
    rw [show z.handLanes.lanes[l] = z.lanes[l].hand z.lanes[l].dueCount from tabulate_get _ l, hzlanes]
    rfl
  · rw [← hplanes] at hl ⊢
    rw [hb]
    exact Screen.metered_handed { p.screens[i] with noticeLost := lost } z _ _ _ (by rw [hz, hm]) l hl
  · rw [hvs]; exact hzsignal
  · rw [hvs]
    show z.playout.mode = _
    rw [hzeq, hps, has]
    subst hx
    rfl
  · rw [hvs]
    show z.clock = _
    rw [hzeq]
    exact hpclock
  · have hfeeds : u.screens[i].feeds = ((v.checkStage i b.handed).screens[i].shiftPeaks (s.feedBlocks i r.played)).feeds := by
      rw [hu, State.modScreen_same]
    refine hu.trans (State.modScreen_congr i _ ?_)
    rw [hfeeds]
    rfl

/-! ## The time of stage 2 -/

/-- R44: a resync that is due: SELF_TIMED, the flag set, a block to resync to. -/
def Screen.resyncDue (x : Screen) : Prop :=
  x.settings.clockMode = .selfTimed ∧ x.playout.resync = true ∧ x.playout.program ≠ []

theorem Screen.resyncTime_of_not_due {x : Screen} (h : ¬x.resyncDue) : x.resyncTime = none :=
  Option.not_isSome_iff_eq_none.mp fun hs => h (x.resyncTime_isSome.mp hs)

theorem Screen.resyncTime_of_due {x : Screen} {b : Block} {rest : List Block} (h : x.resyncDue)
    (hp : x.playout.program = b :: rest) : x.resyncTime = some b.pt := by
  unfold Screen.resyncTime
  rw [hp, if_pos ((Screen.untied_iff _).mpr ⟨h.1, h.2.1⟩)]

/-- R50: without a due resync T is the advanced ST. -/
theorem Screen.timed_base_of_not_due {x : Screen} (h : ¬x.resyncDue) :
    x.timed.base = x.clock.base + BitVec.ofNat 32 x.clock.advance := by
  unfold Screen.timed
  rw [Screen.resyncTime_of_not_due h]
  exact Clock.counted_base _ _

/-- R44: a due resync makes T the PT of the head. -/
theorem Screen.timed_base_of_due {x : Screen} {b : Block} {rest : List Block} (h : x.resyncDue)
    (hp : x.playout.program = b :: rest) : x.timed.base = b.pt := by
  unfold Screen.timed
  rw [Screen.resyncTime_of_due h hp]
  rfl

theorem Screen.resyncTime_isNone {x : Screen} {due : Prop} [Decidable ¬due] (hdue : due ↔ x.resyncDue) :
    x.resyncTime.isNone = decide ¬due := by
  refine Bool.eq_iff_iff.mpr ?_
  rw [decide_eq_true_iff, Option.isNone_iff_eq_none, ← Option.not_isSome_iff_eq_none, x.resyncTime_isSome]
  exact not_congr hdue.symm

/-- Settles O48: the operations on the pool, then the boundary that carries them out. -/
theorem selectionAndPruningChargeTheEntries : Obligations.SelectionAndPruningChargeTheEntries := by
  refine ⟨?_, ?_, ?_⟩
  · intro s t i r x hx ht
    subst hx ht
    have hscreen := State.applySelection_screen (i := i) (a := s.activeEntry i) r s
    refine ⟨State.applySelection_freeSlots r s, by rw [hscreen], fun j hj => State.applySelection_screen_other hj r s,
      fun e he => State.applySelection_entry_other he r s, fun e he => ?_, by rw [hscreen]⟩
    rw [he]
    exact State.applySelection_entry r s
  · intro s t i x hx ht
    subst hx ht
    refine ⟨fun e kept he htime hun hk => ?_, fun e he htime => State.pruneStandby_of_arrival he htime,
      fun hmode hflag => State.pruneStandby_of_untied ((Screen.untied_iff _).mpr ⟨hmode, hflag⟩),
      State.pruneStandby_of_empty⟩
    exact State.pruneStandby_of_timed he htime (Bool.not_eq_true _ ▸ mt (Screen.untied_iff _).mp hun) kept hk
  · intro s i x hx hvoid due
    obtain ⟨a, p, v, u, handed, hbd, ⟨has, hat, hae, haf⟩, ⟨hp, hkp, hue, huf⟩, hus, -, -, -, -⟩ :=
      State.boundary_reaches i s x _ _ hx rfl rfl
    have hclock : u.screens[i].clock = x.timed := by rw [hus, hkp.1, has]
    have hnext : u.screens[i].playout.nextBoundary = (x.scheduleNext s.wordClock).playout.nextBoundary := by
      rw [hus, hkp.1, has]
    have haclock : a.screens[i].clock = x.timed := by rw [has]
    refine ⟨a, p, u, ⟨_, hbd ▸ State.exec_blockBoundary_of_falls (hx ▸ hvoid)⟩, hae, haf, ?_, ?_, hat, ?_, ?_, ?_, ?_,
      hue, huf, by rw [hus], by rw [hus]⟩
    · rw [has, hx]; rfl
    · rw [has, hnext, Screen.resyncTime_isNone (due := due) Iff.rfl]
      rfl
    · rw [haclock, hclock]
    · intro h
      rw [haclock]
      exact Screen.timed_base_of_not_due h
    · intro b rest h hb
      rw [haclock]
      exact Screen.timed_base_of_due h hb
    · rw [haclock]
      exact hp

end Sys2Proof.Machine
end

section
/-! PROOFS. What a boundary advances, and a resync that is due (R35, R39, R44, R49 to R51, R61, R64, R72, R84, R98, R106,
R107, R121, R130). -/

namespace Sys2Proof.Machine

/-! ## The clock tallies of a boundary -/

/-- R37: screen i as stage 2 meets it. -/
def State.latchStage (i : ScreenNo) (s : State) : State :=
  s.modScreen i fun x => (x.scheduleNext s.wordClock).stageOne (s.toLatch i)

theorem State.latchStage_screen (i : ScreenNo) (s : State) :
    (s.latchStage i).screens[i] =
      { s.latchedScreen i with playout := (s.screens[i].scheduleNext s.wordClock).playout } :=
  (State.modScreen_same i _ s).trans (State.stageOne_eq i s)

/-- R45: pruning drops blocks of the standby queue alone. -/
theorem State.pruneStandby_screen (i : ScreenNo) (s : State) :
    (s.pruneStandby i).screens[i] =
      { s.screens[i] with
        playout := { s.screens[i].playout with standby := (s.pruneStandby i).screens[i].playout.standby } } := by
  have hcases : s.pruneStandby i = s ∨ ∃ (a : Option EntryNo) (n : Nat) (kept : List Block), s.pruneStandby i =
      ((s.release n).modScreen i fun x => { x with playout := { x.playout with standby := kept } }).bumpEntry? a
        .pruned n := by
    unfold State.pruneStandby
    dsimp only
    split
    · exact .inl rfl
    · exact .inr ⟨_, _, _, rfl⟩
  rcases hcases with h | ⟨a, n, kept, h⟩
  · rw [h]
  · have hscreen : (s.pruneStandby i).screens[i] =
        { s.screens[i] with playout := { s.screens[i].playout with standby := kept } } := by
      rw [h]
      refine (congrArg (fun v : Vector Screen 6 => v[i]) (State.bumpEntry?_screens _ _ _)).trans ?_
      exact State.modScreen_same i _ _
    rw [hscreen]

/-- R40, R51: after stage 2's time a boundary counts on UNDERRUN and WAITED alone. -/
theorem State.boundary_clockTallies (i : ScreenNo) (s : State) (n : Fin 7) (h0 : n ≠ 0) (h1 : n ≠ 1) :
    (s.boundary i).screens[i].tallies[n] = ((s.latchStage i).stageTime i).screens[i].tallies[n] := by
  have hcompute (l : Latched) (p : Selected) (q : State) :
      (q.computeBlock i l p).screens[i].tallies = q.screens[i].tallies := by
    obtain ⟨v, u, hu, huv, hv⟩ := State.computeBlock_leaves i l p q _ _ _ _ rfl rfl rfl rfl
    obtain ⟨_, -, hck, -⟩ := State.checkStage_shiftPeaks_leaves i _ _ v u huv
    have hcue := State.cueStage_keepsFromCues (j := i) i u.screens[i].clock.base l.held u
    have hcue' : (u.cueStage i u.screens[i].clock.base l.held).screens[i].tallies = u.screens[i].tallies := by rw [hcue]
    rw [hu, hcue', hck.screen, hv.screen, Screen.metered_measured_eq]
    rfl
  unfold State.boundary
  dsimp only
  rw [hcompute, (State.raiseRetired_leaves i _ _).screen, State.stageTwo_eq]
  dsimp only
  rw [← State.latchStage]
  generalize (s.latchStage i).stageTime i = a
  rw [State.pruneStandby_screen, State.applySelection_screen]
  dsimp only
  have hne0 : (0 : Nat) ≠ n.val := fun h => h0 (Fin.ext h.symm)
  have hne1 : (1 : Nat) ≠ n.val := fun h => h1 (Fin.ext h.symm)
  exact (Vector.getElem_set_ne (by decide) n.isLt hne1).trans (Vector.getElem_set_ne (by decide) n.isLt hne0)

/-- R50, R51: the tallies of a screen after the time of stage 2: SLIP, then STEP. -/
theorem State.stageTime_tallies (i : ScreenNo) (s : State) (x : Screen) (hx : x = s.screens[i]) :
    (s.stageTime i).screens[i].tallies =
      if ((x.clock.advanced.counted x.settings.referenceTimeout).resyncFrames i x.resyncTime).isEmpty then
        if x.clock.slip = 0 then x.tallies else (Screen.bump .slip x).tallies
      else
        adjust (if x.clock.slip = 0 then x.tallies else (Screen.bump .slip x).tallies) ScreenTally.step.place satInc := by
  subst hx
  have hadvance := (State.advanceClock_leaves i s).screen
  have hcount := (State.countReference_leaves i (s.advanceClock i)).screen
  rw [hadvance] at hcount
  have hclock : ((s.advanceClock i).countReference i).screens[i].clock =
      s.screens[i].clock.advanced.counted s.screens[i].settings.referenceTimeout := by rw [hcount]
  have hstep := (State.resync_leaves i ((s.advanceClock i).countReference i)
    (by rw [hclock]; exact Clock.counted_elapsed _ _)).screen
  rw [State.stageTime_resyncTime, hclock] at hstep
  unfold State.stageTime
  rw [hstep, hcount]
  rfl

/-- R50: the SLIP tally rises by the block that takes up a sample. -/
theorem State.boundary_slips (i : ScreenNo) (s : State) :
    (s.boundary i).screens[i].tallies[(3 : Fin 7)] =
      if s.screens[i].clock.slip = 0 then s.screens[i].tallies[(3 : Fin 7)]
      else min (s.screens[i].tallies[(3 : Fin 7)] + 1) 65535 := by
  have hstep (v : Vector Nat 7) : (adjust v ScreenTally.step.place satInc)[(3 : Fin 7)] = v[(3 : Fin 7)] :=
    adjust_other _ _ _ _ (by decide)
  have hslip (x : Screen) : (Screen.bump .slip x).tallies[(3 : Fin 7)] = min (x.tallies[(3 : Fin 7)] + 1) 65535 :=
    adjust_same _ _ _
  rw [State.boundary_clockTallies i s 3 (by decide) (by decide), State.stageTime_tallies i _ _ rfl]
  rw [apply_ite (fun v : Vector Nat 7 => v[(3 : Fin 7)]), hstep, ite_self,
    apply_ite (fun v : Vector Nat 7 => v[(3 : Fin 7)]), hslip, State.latchStage_screen]
  rfl

theorem Clock.resyncFrames_some (i : ScreenNo) (c : Clock) (t : ScreenTime) :
    c.resyncFrames i (some t) =
      if t = c.base then [] else [clockNotice i c.state.code (signedDiff t c.base) t] := rfl

/-- R51: the STEP tally rises by a due resync that is a step. -/
theorem State.boundary_steps (i : ScreenNo) (s : State) (x : Screen) (b : Block) (rest : List Block) (advanced : ScreenTime)
    (hx : x = s.screens[i]) (hdue : x.resyncDue) (hp : x.playout.program = b :: rest)
    (ha : advanced = x.clock.base + BitVec.ofNat 32 x.clock.advance) :
    (s.boundary i).screens[i].tallies[(2 : Fin 7)] =
      if b.pt = advanced then x.tallies[(2 : Fin 7)] else min (x.tallies[(2 : Fin 7)] + 1) 65535 := by
  have hslip (y : Screen) : (Screen.bump .slip y).tallies[(2 : Fin 7)] = y.tallies[(2 : Fin 7)] :=
    adjust_other _ _ _ _ (by decide)
  have hstep (v : Vector Nat 7) : (adjust v ScreenTally.step.place satInc)[(2 : Fin 7)] = min (v[(2 : Fin 7)] + 1) 65535 :=
    adjust_same _ _ _
  have hscreen := State.latchStage_screen i s
  have htime : (s.latchStage i).screens[i].resyncTime = some b.pt := by
    have hpt := Screen.resyncTime_of_due hdue hp
    rw [hscreen]
    subst hx
    exact hpt
  have hbase (timeout : Nat) :
      ((s.latchStage i).screens[i].clock.advanced.counted timeout).base = advanced := by
    rw [Clock.counted_base, hscreen, ha, hx]
    rfl
  have htallies : (s.latchStage i).screens[i].tallies = x.tallies := by
    rw [hscreen, hx]
    rfl
  rw [State.boundary_clockTallies i s 2 (by decide) (by decide), State.stageTime_tallies i _ _ rfl, htime,
    Clock.resyncFrames_some, hbase]
  by_cases hb : b.pt = advanced
  · rw [if_pos hb, if_pos hb, if_pos List.isEmpty_nil, apply_ite (fun v : Vector Nat 7 => v[(2 : Fin 7)]), hslip, ite_self,
      htallies]
  · rw [if_neg hb, if_neg hb, if_neg (by simp), hstep, apply_ite (fun v : Vector Nat 7 => v[(2 : Fin 7)]), hslip, ite_self,
      htallies]

/-! ## What a boundary advances -/

/-- R61: the block count a boundary leaves. -/
def Clock.blocksSince (c : Clock) : Nat := if c.state = .unreferenced then 0 else min (c.sinceReference + 1) 65535

/-- R50, R61: the clock a boundary without a due resync leaves. -/
theorem Screen.timed_of_not_due {x : Screen} (h : ¬x.resyncDue) :
    (x.clock.state = .locked → x.settings.referenceTimeout ≤ x.clock.blocksSince →
      x.timed =
        { base := x.clock.base + BitVec.ofNat 32 x.clock.advance, elapsed := 0, state := .holdover, inWindow := 0
          outWindow := 0, slip := 0, sinceReference := x.clock.blocksSince }) ∧
    (¬(x.clock.state = .locked ∧ x.settings.referenceTimeout ≤ x.clock.blocksSince) →
      x.timed =
        { x.clock with
          base := x.clock.base + BitVec.ofNat 32 x.clock.advance
          elapsed := 0
          slip := x.clock.slipAfter
          sinceReference := x.clock.blocksSince }) := by
  unfold Screen.timed
  rw [Screen.resyncTime_of_not_due h]
  refine ⟨fun hlocked hlate => ?_, fun hstay => ?_⟩
  · have hfall : x.clock.advanced.counted x.settings.referenceTimeout = x.clock.advanced.countBlock.toHoldover :=
      if_pos ⟨hlocked, hlate⟩
    rw [hfall]
    rfl
  · have hkeep : x.clock.advanced.counted x.settings.referenceTimeout = x.clock.advanced.countBlock := if_neg hstay
    rw [hkeep]
    rfl

/-- R50: 48 word-clock periods, one more or one less while slip is pending. -/
theorem Clock.advance_eq (c : Clock) :
    BitVec.ofNat 32 c.advance = if 0 < c.slip then (49 : BitVec 32) else if c.slip < 0 then 47 else 48 := by
  unfold Clock.advance
  rw [apply_ite (BitVec.ofNat 32), apply_ite (BitVec.ofNat 32)]
  rfl

theorem State.checkStage_generators (i : ScreenNo) (handed : Vector Handed 2) (s : State) :
    (s.checkStage i handed).screens[i].signal.noise = s.screens[i].signal.noise ∧
      (s.checkStage i handed).screens[i].signal.tonePhase = s.screens[i].signal.tonePhase := by
  obtain ⟨hidle, hruns⟩ := State.checkStage_spec s i handed _ rfl
  by_cases h : s.screens[i].signal.check.running = false ∨ s.screens[i].signal.check.count = none
  · rw [hidle h]
    exact ⟨rfl, rfl⟩
  · obtain ⟨hrun, hcount⟩ := not_or.mp h
    obtain ⟨n, hn⟩ := Option.ne_none_iff_exists'.mp hcount
    obtain ⟨_, results, -, hopen, hclose⟩ := hruns n (Bool.not_eq_false _ ▸ hrun) hn
    by_cases hlast : n = s.screens[i].signal.check.feeds.length * (s.screens[i].signal.check.spec.dwell + 1)
    · rw [hclose hlast, State.offerNotice_screen_signal, State.modScreen_same]
      exact ⟨rfl, rfl⟩
    · rw [hopen hlast, State.modScreen_same]
      exact ⟨rfl, rfl⟩

/-- R98: the level after stage 1's fade. -/
theorem Level.advanceFade_spec (l : Level) :
    (l.fade = none → l.advanceFade = l) ∧
    (∀ f, l.fade = some f → f.count + 1 < f.duration → l.advanceFade =
      { l with
        fader := ((f.start : Int) + Int.tdiv (((f.target : Int) - f.start) * (f.count + 1)) f.duration).toNat
        fade := some { start := f.start, target := f.target, duration := f.duration, count := f.count + 1 } }) ∧
    (∀ f, l.fade = some f → f.duration ≤ f.count + 1 → l.advanceFade = { l with fader := f.target, fade := none }) := by
  unfold Level.advanceFade
  refine ⟨fun h => ?_, fun f h hbefore => ?_, fun f h hend => ?_⟩ <;> rw [h]
  · exact if_neg (Nat.not_le.mpr hbefore)
  · exact if_pos hend

/-- R84, R88, R130: feed k at the end of a boundary. -/
theorem State.boundary_feed_end (i : ScreenNo) (s : State) (k : FeedNo) (x : Screen) (f g : Feed) (hx : x = s.screens[i])
    (hf : f = x.feeds[k]) (hg : g = (s.boundary i).screens[i].feeds[k]) :
    let e := (f.equalise x.level.requested (s.feedWords i k (s.selectionAt i x.timed.base).played)).1
    g =
      { bankA := e.bankA, bankB := e.bankB, active := e.active, trim := f.trim, eqSat := e.eqSat
        hold := g.hold, sentOne := g.sentOne, sentTwo := f.sentOne } := by
  intro e
  obtain ⟨u, held, hbd, -, hfeed⟩ := State.boundary_feed i s k _ rfl
  have hcue := State.cueStage_keepsFromCues (j := i) i u.screens[i].clock.base held u
  have hend : g = u.screens[i].feeds[k] := by rw [hg, hbd, hcue]
  have hequalised : (s.feedBlocks i (s.selectionAt i s.screens[i].timed.base).played)[k].feed = e := by
    unfold State.feedBlocks
    dsimp only
    rw [tabulate_get]
    subst hf hx
    rfl
  have hkept := Feed.equalise_keeps f x.level.requested
    (s.feedWords i k (s.selectionAt i x.timed.base).played)
  rw [hequalised] at hfeed
  have hone : e.sentOne = f.sentOne := (congrArg Feed.sentOne hkept :)
  have htrim : e.trim = f.trim := (congrArg Feed.trim hkept :)
  rw [hend, hfeed, ← htrim, ← hone]

theorem Signal.advance_noise (g : Signal) : g.advance.noise = (noiseRun 48 g.noise).2 :=
  congrArg (fun n => (noiseRun n g.noise).2) (show Config.blockLength = 48 from rfl)

/-- R106, R107: 48 steps of the noise register and 16 of the tone phase. -/
theorem State.boundary_generators (i : ScreenNo) (s : State) (x : Screen) (hx : x = s.screens[i]) :
    (s.boundary i).screens[i].signal.noise = (noiseRun 48 x.signal.noise).2 ∧
      (s.boundary i).screens[i].signal.tonePhase = x.signal.tonePhase + 16 := by
  obtain ⟨a, p, v, u, handed, hbd, -, -, -, -, -, ⟨hsignal, -, -⟩, hu⟩ := State.boundary_reaches i s x _ _ hx rfl rfl
  have hend := State.cueStage_keepsFromCues (j := i) i u.screens[i].clock.base (s.latchedScreen i).cuesHeld u
  rw [← hbd] at hend
  obtain ⟨hnoise, htone⟩ := State.checkStage_generators i handed v
  obtain ⟨-, hkeepsNoise, hkeepsTone⟩ := x.signal.countCheck_keeps
  have hsig : u.screens[i].signal = (v.checkStage i handed).screens[i].signal := by
    rw [hu, State.modScreen_same]
  have hnoise' : (s.boundary i).screens[i].signal.noise = u.screens[i].signal.noise := by rw [hend]
  have htone' : (s.boundary i).screens[i].signal.tonePhase = u.screens[i].signal.tonePhase := by rw [hend]
  refine ⟨?_, ?_⟩
  · rw [hnoise', hsig, hnoise, hsignal, Signal.advance_noise, hkeepsNoise]
  · rw [htone', hsig, htone, hsignal, ← hkeepsTone]
    rfl

/-- R120, R121: a boundary queues one record on each lane. -/
theorem State.boundary_lanes (i : ScreenNo) (s : State) (x : Screen) (hx : x = s.screens[i]) (l : Fin 2) :
    (s.boundary i).screens[i].lanes[l] = x.lanes[l].exchanged
      (tabulate fun j : Fin 8 => (s.feedBlocks i (s.selectionAt i x.timed.base).played)[laneFeed l j].out) := by
  obtain ⟨a, p, v, u, handed, hbd, -, -, -, hlanes, -⟩ := State.boundary_reaches i s x _ _ hx rfl rfl
  have hend := State.cueStage_keepsFromCues (j := i) i u.screens[i].clock.base (s.latchedScreen i).cuesHeld u
  rw [← hbd] at hend
  rw [← hlanes l, hend]

theorem Lane.exchanged_nextCount (l : Lane) (samples : Vector (List Int) 8) :
    (l.exchanged samples).nextCount = l.nextCount + 1 := (Lane.hand_keeps _ _).1

theorem Lane.exchanged_getLast (l : Lane) (samples : Vector (List Int) 8) :
    (l.exchanged samples).transmit.getLast? = some { count := l.nextCount, samples := samples } :=
  (congrArg List.getLast? (Lane.hand_keeps _ _).2.1).trans (queueRecord_getLast _ _)

/-- Settles O45: each part of the screen through the stage that advances it. -/
theorem boundaryAdvancesTheScreen : Obligations.BoundaryAdvancesTheScreen := by
  intro s i x blocks hx hblocks
  refine ⟨fun h => if_pos (hx ▸ h), fun hvoid hdue => ?_, fun hvoid => ?_⟩
  · obtain ⟨a, p, v, u, handed, hbd, ⟨has, -⟩, ⟨-, hkp, -⟩, hus, -⟩ :=
      State.boundary_reaches i s x _ _ hx rfl rfl
    have hexec := State.exec_blockBoundary_of_falls (hx ▸ hvoid)
    obtain ⟨hfall, hstay⟩ := Screen.timed_of_not_due hdue
    have hbase := Screen.timed_base_of_not_due hdue
    have hclock : (s.boundary i).screens[i].clock = x.timed := by
      rw [State.boundary_clock, hx]
    have hend := State.cueStage_keepsFromCues (j := i) i u.screens[i].clock.base (s.latchedScreen i).cuesHeld u
    rw [← hbd] at hend
    have hquiet := State.cueStage_cueLeaves (i := i) (j := i) u.screens[i].clock.base (s.latchedScreen i).cuesHeld u
    rw [← hbd] at hquiet
    obtain ⟨hafter, hbefore, hphase⟩ := nextCount_spec s.wordClock x.settings.phase
    have hnext : (s.boundary i).screens[i].playout.nextBoundary = nextCount s.wordClock x.settings.phase := by
      rw [hquiet.boundary, hus, hkp.1, has]
      rfl
    have hlevel : u.screens[i].level = x.level.advanceFade := by
      rw [hus, hkp.1, has, hx]
      rfl
    obtain ⟨hsame, hmoves, hends⟩ := x.level.advanceFade_spec
    obtain ⟨hnoise, htone⟩ := State.boundary_generators i s x hx
    refine ⟨s.boundary i, _, hexec, rfl, ?_, fun hl hlate => ?_, fun hkeep => ?_, ?_, ?_, ?_, ?_, ?_, fun h => ?_,
      fun f h hcount => ?_, fun f h hcount => ?_, ?_, ?_, fun l => ⟨?_, ?_⟩, fun k => ⟨?_, ?_⟩, ?_, ?_⟩
    · rw [hclock, hbase, Clock.advance_eq]
    · rw [hclock, hbase, hblocks]
      exact hfall hl (Nat.le_trans hlate (Nat.le_of_eq hblocks))
    · rw [hclock, hbase, hblocks]
      exact hstay fun ⟨hl, hlate⟩ => hkeep ⟨hl, Nat.le_trans hlate (Nat.le_of_eq hblocks.symm)⟩
    · rw [hx]
      exact State.boundary_slips i s
    · rw [hnext]
      exact hafter
    · rw [hnext]
      exact hbefore
    · rw [hnext]
      exact hphase
    · rw [hend, hus, hkp.1, has, hx]
      rfl
    · rw [hquiet.fader, hlevel, hsame h]
    · rw [hquiet.fader, hlevel, hmoves f h hcount]
    · rw [hquiet.fader, hlevel, hends f h hcount]
    · rw [hnoise, noiseRun_end]
    · rw [htone]
    · rw [State.boundary_lanes i s x hx l]
      exact Lane.exchanged_nextCount _ _
    · rw [State.boundary_lanes i s x hx l]
      exact ⟨_, Lane.exchanged_getLast _ _, rfl⟩
    · exact (congrArg Feed.sentTwo (State.boundary_feed_end i s k x _ _ hx rfl rfl) :)
    · refine (congrArg Feed.active (State.boundary_feed_end i s k x _ _ hx rfl rfl) :).trans ?_
      exact Feed.equalise_active _ _ _
    · rw [hend, hus, hkp.1, has, hx]
      rfl
    · rw [hend, hus, hkp.1, has, hx]
      rfl
  · obtain ⟨u, held, hbd, hlevel, -⟩ := State.boundary_feed i s 0 _ rfl
    obtain ⟨hsame, hmoves, hends⟩ := x.level.advanceFade_spec
    have hexec := State.exec_blockBoundary_of_falls (hx ▸ hvoid)
    rw [← hx] at hlevel
    refine ⟨u, s.boundary i, ⟨held, hbd ▸ hexec⟩, hexec, fun h => hlevel.trans (hsame h),
      fun f hf hcount => hlevel.trans (hmoves f hf hcount), fun f hf hcount => hlevel.trans (hends f hf hcount),
      fun k f g hf hg => ?_⟩
    rw [State.boundary_clock, ← hx]
    exact State.boundary_feed_end i s k x f g hx hf hg

end Sys2Proof.Machine
end

section
/-! PROOFS. Selection by lateness, and a resync that is due (R39, R41 to R44, R51, R64, R161). -/

namespace Sys2Proof.Machine

/-! ## Selection -/

/-- R41, R42: the table for the head of a TIMED queue. -/
theorem selectTimed_cons (t : ScreenTime) (late early : Int) (b : Block) (rest : List Block) :
    selectTimed t late early (b :: rest) =
      if late < signedDiff t b.pt then
        { selectTimed t late early rest with stale := (selectTimed t late early rest).stale + 1 }
      else if 24 ≤ signedDiff t b.pt then
        { decision := .latePlay, played := some b, rest := rest, stale := 0, farEarly := 0 }
      else if -24 ≤ signedDiff t b.pt then
        { decision := .onTime, played := some b, rest := rest, stale := 0, farEarly := 0 }
      else if -early ≤ signedDiff t b.pt then
        { decision := .wait, played := none, rest := b :: rest, stale := 0, farEarly := 0 }
      else { selectTimed t late early rest with farEarly := (selectTimed t late early rest).farEarly + 1 } := rfl

/-- Settles O47: the rows of the table in their order. -/
theorem selectionFollowsTheTable : Obligations.SelectionFollowsTheTable := by
  intro t late early b rest l hlate hearly hl
  have hrows := selectTimed_cons t late early b rest
  rw [← hl] at hrows
  refine ⟨fun mode => by cases mode <;> rfl, rfl, fun h1 h2 => ?_, fun h1 h2 => ?_, fun h1 h2 => ?_, fun h => ?_,
    fun h => ?_⟩ <;> refine hrows.trans ?_
  · rw [if_neg (by omega), if_neg (by omega), if_pos h1]
  · rw [if_neg (by omega), if_pos h1]
  · rw [if_neg (by omega), if_neg (by omega), if_neg (by omega), if_pos h1]
  · exact if_pos h
  · rw [if_neg (by omega), if_neg (by omega), if_neg (by omega), if_neg (by omega)]
    rfl

/-- R44: the head a resync takes T from is on time. -/
theorem selectBlock_of_head (mode : TimingMode) (late early : Int) (b : Block) (rest : List Block) (h : 0 ≤ late) :
    selectBlock mode b.pt late early (b :: rest) =
      { decision := .onTime, played := some b, rest := rest, stale := 0, farEarly := 0 } := by
  have hzero : signedDiff b.pt b.pt = 0 := (signedDiff_eq_zero _ _).mpr rfl
  cases mode with
  | arrival => rfl
  | timed =>
    refine (selectTimed_cons b.pt late early b rest).trans ?_
    rw [hzero, if_neg (by omega), if_neg (by omega), if_pos (by omega)]

/-! ## A due resync -/

/-- R44: a resync that is due leaves no discard behind and is no longer due. -/
theorem State.boundary_resync (i : ScreenNo) (s : State) (x : Screen) (b : Block) (rest : List Block)
    (hx : x = s.screens[i]) (hdue : x.resyncDue) (hp : x.playout.program = b :: rest) :
    (s.boundary i).screens[i].playout.resync = false := by
  have hhead : { decision := .onTime, played := some b, rest := rest, stale := 0, farEarly := 0 } =
      s.selectionAt i x.timed.base := by
    rw [Screen.timed_base_of_due hdue hp]
    unfold State.selectionAt
    dsimp only
    rw [← hx, hp]
    exact (selectBlock_of_head _ _ _ b rest (Int.natCast_nonneg _)).symm
  obtain ⟨a, p, v, u, handed, hbd, ⟨has, -⟩, ⟨hpool, -⟩, hus, -⟩ := State.boundary_reaches i s x _ _ hx rfl hhead
  have hquiet := State.cueStage_cueLeaves (i := i) (j := i) u.screens[i].clock.base (s.latchedScreen i).cuesHeld u
  rw [← hbd] at hquiet
  have hflag : a.screens[i].playout.resync = false := by
    rw [has, Screen.resyncTime_of_due hdue hp]
    exact Bool.and_false _
  rw [hquiet.resync, hus, hpool, State.pruneStandby_screen, State.applySelection_screen]
  dsimp only
  rw [hflag]
  exact decide_eq_false fun h => Nat.lt_irrefl 0 h.2

/-- R44, R161: the cues a due resync leaves. -/
theorem State.boundary_resync_cues (i : ScreenNo) (s : State) (x : Screen) (b : Block) (rest : List Block)
    (advanced : ScreenTime) (hx : x = s.screens[i]) (hdue : x.resyncDue) (hp : x.playout.program = b :: rest)
    (ha : advanced = x.clock.base + BitVec.ofNat 32 x.clock.advance) :
    ((s.latchStage i).stageTime i).cues =
      ((s.modClock i fun c => { c with base := advanced, elapsed := 0 }).stepClock i (signedDiff b.pt advanced)).cues := by
  obtain ⟨w, hw⟩ : ∃ w, w = ((s.latchStage i).advanceClock i).countReference i := ⟨_, rfl⟩
  have htime : w.screens[i].resyncTime = some b.pt := by
    have hpt := Screen.resyncTime_of_due hdue hp
    rw [hw, State.stageTime_resyncTime, State.latchStage_screen]
    subst hx
    exact hpt
  have hnow : w.stNow i = advanced := by
    have hcount := (State.countReference_leaves i ((s.latchStage i).advanceClock i)).screen
    unfold State.stNow Clock.now
    rw [hw, hcount, (State.advanceClock_leaves i (s.latchStage i)).screen]
    dsimp only
    rw [Clock.counted_base, Clock.counted_elapsed, State.latchStage_screen, ha, hx]
    exact BitVec.add_zero _
  have hcues : w.cues = s.cues := by
    have hadvance := (State.advanceClock_keepsForCues (q := True) (i := i) (s.latchStage i)).2.2 trivial
    have hcount := (State.countReference_keepsForCues (q := True) (i := i) ((s.latchStage i).advanceClock i)).2.2 trivial
    rw [hw]
    exact hcount.trans hadvance
  unfold State.stageTime
  rw [← hw, State.resync_cues i w b.pt htime, hnow]
  refine State.stepClock_cues_congr i _ hcues ?_
  rw [hnow]
  unfold State.stNow State.modClock
  rw [State.modScreen_same]
  exact (BitVec.add_zero _).symm

theorem Screen.alarmNotices_kind {i : ScreenNo} {x y : Screen} {c : Clock} {b : BlockReport} {f : UpFrame}
    (h : f ∈ x.alarmNotices i y c b) : ∃ n, f = .notice n ∧ n.kind = .alarm := by
  obtain ⟨k, -, hk⟩ := List.mem_filterMap.mp h
  obtain ⟨cause, -, rfl⟩ := Option.map_eq_some_iff.mp hk
  exact ⟨_, rfl, rfl⟩

/-- R64: the CLOCK notice of a due resync that is a step, the first frame of its boundary, and no other CLOCK notice. -/
theorem State.boundary_resync_frames (i : ScreenNo) (s : State) (x : Screen) (b : Block) (rest : List Block)
    (advanced : ScreenTime) (hx : x = s.screens[i]) (hdue : x.resyncDue) (hp : x.playout.program = b :: rest)
    (ha : advanced = x.clock.base + BitVec.ofNat 32 x.clock.advance) (hs : x.clock.state = .unreferenced) :
    ∃ others : List UpFrame, (∀ n, UpFrame.notice n ∈ others → n.kind ≠ .clock) ∧
      ∃ u : State, (∃ held : Bool, s.boundary i = u.cueStage i u.screens[i].clock.base held) ∧
      State.offers i
        ((if b.pt = advanced then [] else [clockNotice i 0 (signedDiff b.pt advanced) b.pt]) ++ others) s u := by
  obtain ⟨u, handed, report, meter, done, hbd, -, -, -, -, -, hmeter, -, hdone, hoffers⟩ :=
    State.boundary_reports i s x _ _ hx rfl rfl
  have hearly : s.earlyFrames i = x.clockFrames i ++ (s.retiredAt i).map (retiredFrame i x.timed.base) := by
    rw [hx]
    rfl
  have hclock : x.clockFrames i =
      if b.pt = advanced then [] else [clockNotice i 0 (signedDiff b.pt advanced) b.pt] := by
    have htimeout (timeout : Nat) : x.clock.advanced.timeoutFrames i timeout = [] :=
      if_neg fun h => by
        rw [show x.clock.advanced.state = x.clock.state from rfl, hs] at h
        exact nomatch h.1
    have hcount (timeout : Nat) : x.clock.advanced.counted timeout = x.clock.advanced.countBlock :=
      if_neg fun h => by
        rw [show x.clock.advanced.state = x.clock.state from rfl, hs] at h
        exact nomatch h.1
    unfold Screen.clockFrames
    rw [htimeout, hcount, Screen.resyncTime_of_due hdue hp, Clock.resyncFrames_some, List.nil_append]
    rw [show x.clock.advanced.countBlock.base = advanced from ha.symm,
      show x.clock.advanced.countBlock.state = .unreferenced from hs]
    rfl
  rw [hearly, hclock, List.append_assoc, List.append_assoc] at hoffers
  refine ⟨_, fun n hn => ?_, u, ⟨_, hbd⟩, hoffers⟩
  rcases List.mem_append.mp hn with hretired | hlate
  · obtain ⟨k, -, hk⟩ := List.mem_map.mp hretired
    obtain rfl := UpFrame.notice.inj hk
    nofun
  rcases List.mem_append.mp hlate with hmid | hlast
  · rcases List.mem_append.mp hmid with hm | halarm
    · obtain ⟨m, hm⟩ := hmeter _ hm
      exact nomatch hm
    · obtain ⟨_, hn, hkind⟩ := Screen.alarmNotices_kind halarm
      rw [UpFrame.notice.inj hn, hkind]
      nofun
  · obtain ⟨_, hn, hkind⟩ := hdone _ hlast
    rw [UpFrame.notice.inj hn, hkind]
    nofun

/-- Settles O46. -/
theorem dueResyncTakesTheHeadsTime : Obligations.DueResyncTakesTheHeadsTime := by
  intro s i x b rest advanced hx hvoid hmode hflag hp _ ha
  have hdue : x.resyncDue := ⟨hmode, hflag, by rw [hp]; exact List.cons_ne_nil b rest⟩
  have hfalls : s.screens[i].playout.voidedAt ≠ some s.wordClock := by
    rw [← hx]
    exact hvoid
  have hexec := State.exec_blockBoundary_of_falls hfalls
  have hclock : (s.boundary i).screens[i].clock = x.timed := by
    rw [State.boundary_clock, hx]
  obtain ⟨u, held, hbd, hcues⟩ := State.boundary_cues i s
  have hcues' := hcues.trans (State.boundary_resync_cues i s x b rest advanced hx hdue hp ha)
  refine ⟨u, s.boundary i, ⟨held, hbd ▸ hexec⟩, hexec, ?_, ?_, ?_, ?_, hcues', fun hd => ?_, fun hsound => ?_⟩
  · rw [hclock]
    exact Screen.timed_base_of_due hdue hp
  · rw [hclock]
    exact x.timed_elapsed
  · rw [State.boundary_resync i s x b rest hx hdue hp]
  · rw [State.boundary_steps i s x b rest advanced hx hdue hp ha]
  · rw [hcues', State.stepClock_cues_forward _ _ _ hd]
    rfl
  · obtain ⟨-, hunreferenced, -⟩ := hsound i
    have hstate : x.clock.state = .unreferenced := by
      rw [← hx] at hunreferenced
      exact hunreferenced.mpr hmode
    obtain ⟨others, hothers, w, ⟨held', hw⟩, hreports, hlost⟩ :=
      State.boundary_resync_frames i s x b rest advanced hx hdue hp ha hstate
    have hquiet := State.cueStage_cueLeaves (i := i) (j := i) w.screens[i].clock.base held' w
    rw [← hw] at hquiet
    obtain ⟨more, hmore, hkinds⟩ := hquiet.frames
    rw [hreports, List.append_assoc] at hmore
    refine ⟨_, hmore, fun hstep hroom => ?_, fun hstep hfull => hquiet.lost (hlost.mpr (.inr ?_)), fun hstay n hn => ?_⟩
    · rw [if_neg hstep]
      obtain ⟨k, hk⟩ : ∃ k, 32 - s.reports.length = k + 1 := ⟨31 - s.reports.length, by omega⟩
      rw [hk]
      rfl
    · rw [if_neg hstep, Nat.sub_eq_zero_of_le hfull]
      exact ⟨_, List.mem_append_left _ (List.mem_singleton_self _)⟩
    · rw [if_pos hstay] at hn
      rcases List.mem_append.mp hn with hn | hn
      · exact hothers n (List.mem_of_mem_take hn)
      · obtain ⟨_, hf, hkind⟩ := hkinds _ hn
        rw [UpFrame.notice.inj hf]
        exact hkind

end Sys2Proof.Machine
end

section
/-! PROOFS. What a boundary sends on its lanes, and the return it hands over (R38, R84, R101 to R104, R110, R113, R120,
R121, R123). -/

namespace Sys2Proof.Machine

/-! ## The latch of the level and the check -/

/-- R101: a muted screen in SHOW latches the factor 0. -/
theorem Screen.latchGain_of_muted {x : Screen} (hmode : x.playout.mode = .show) (h : x.level.muted = true) (k : FeedNo) :
    x.latchGain k = none := by
  unfold Screen.latchGain
  rw [hmode]
  exact if_pos (by rw [h]; exact Bool.true_or _)

/-- R102: a feed that is not under test latches the factor 0 in CHECK. -/
theorem Screen.latchGain_of_untested {x : Screen} {k : FeedNo} (hmode : x.playout.mode = .check)
    (h : ∀ position, x.signal.checkBlock ≠ some (.dwell position k)) : x.latchGain k = none := by
  unfold Screen.latchGain
  rw [hmode]
  cases hb : x.signal.checkBlock with
  | none => rfl
  | some b =>
    cases b with
    | dwell position tested =>
      refine if_neg fun hk => h position ?_
      rw [hb, hk]
    | gap => rfl
    | closing => rfl

/-- R113: the check block stage 1 leaves to be computed. -/
theorem Signal.countCheck_checkBlock (g : Signal) :
    g.countCheck.checkBlock = if g.check.running = true then some (g.check.blockAt g.check.nextCount) else none := by
  obtain ⟨hidle, hruns⟩ := g.countCheck_spec g.check.nextCount (by unfold CheckRecord.nextCount; cases g.check.count <;> rfl)
  by_cases h : g.check.running = true
  · obtain ⟨results, hcounted, -⟩ := hruns h
    rw [hcounted, if_pos h]
    exact if_pos h
  · rw [hidle (Bool.not_eq_true _ ▸ h), if_neg h]
    exact if_neg h

/-- R38, R113: the mode, the mute and the check block of the screen stage 1 latches. -/
theorem State.latchedScreen_parts (i : ScreenNo) (s : State) (x : Screen) (hx : x = s.screens[i]) :
    (s.latchedScreen i).playout = x.playout ∧ (s.latchedScreen i).feeds = x.feeds ∧
      (s.latchedScreen i).level.muted = x.level.muted ∧
      (s.latchedScreen i).signal.checkBlock =
        (if x.signal.check.running = true then some (x.signal.check.blockAt x.signal.check.nextCount) else none) ∧
      (s.latchedScreen i).signal.pattern = x.signal.pattern := by
  subst hx
  refine ⟨rfl, rfl, (Level.advanceFade_keeps _).2, Signal.countCheck_checkBlock _, ?_⟩
  show s.screens[i].signal.countCheck.pattern = _
  obtain ⟨hidle, hruns⟩ := s.screens[i].signal.countCheck_spec s.screens[i].signal.check.nextCount
    (by unfold CheckRecord.nextCount; cases s.screens[i].signal.check.count <;> rfl)
  by_cases h : s.screens[i].signal.check.running = true
  · obtain ⟨results, hcounted, -⟩ := hruns h
    rw [hcounted]
  · rw [hidle (Bool.not_eq_true _ ▸ h)]

/-! ## The record a boundary sends -/

theorem laneFeed_side_slot (k : FeedNo) : laneFeed (feedSide k) (feedSlot k) = k :=
  Fin.ext (Nat.div_add_mod k.val 8)

/-- R121: the samples of feed k in the record a boundary queues. -/
theorem State.boundary_sends (i : ScreenNo) (s : State) (k : FeedNo) : ∃ r : LaneRecord,
    (s.boundary i).screens[i].lanes[feedSide k].transmit.getLast? = some r ∧
      r.samples[feedSlot k] = (s.gainedWords i k (s.selectionAt i s.screens[i].timed.base).played).map satSample := by
  have hlast := Lane.exchanged_getLast s.screens[i].lanes[feedSide k] (tabulate fun j : Fin 8 =>
    (s.feedBlocks i (s.selectionAt i s.screens[i].timed.base).played)[laneFeed (feedSide k) j].out)
  rw [← State.boundary_lanes i s _ rfl] at hlast
  refine ⟨_, hlast, (tabulate_get _ _).trans ?_⟩
  refine (State.feedBlocks_out i _ s _).trans ?_
  rw [laneFeed_side_slot]

/-- R103: the factor 0 sends silence. -/
theorem State.gainedWords_silent {i : ScreenNo} {s : State} {k : FeedNo} (h : (s.latchedScreen i).latchGain k = none)
    (played : Option Block) : ∀ v ∈ (s.gainedWords i k played).map satSample, v = 0 := by
  intro v hv
  unfold State.gainedWords at hv
  dsimp only at hv
  rw [h] at hv
  simp only [List.mem_map, applyGain_none] at hv
  obtain ⟨_, ⟨_, _, rfl⟩, rfl⟩ := hv
  rfl

/-- Settles O49: the latched gains, then the record that carries them. -/
theorem mutedScreenAndUntestedFeedsSendSilence : Obligations.MutedScreenAndUntestedFeedsSendSilence := by
  refine ⟨fun s i x hx hvoid => ?_, Screen.latchGain_spec, fun s i hvoid => ?_, ?_⟩
  · rw [hx] at hvoid
    obtain ⟨hplayout, -, hmuted, hblock, -⟩ := State.latchedScreen_parts i s x hx
    refine ⟨s.boundary i, State.exec_blockBoundary_of_falls hvoid, fun k => ?_⟩
    obtain ⟨r, hlast, hsamples⟩ := State.boundary_sends i s k
    refine ⟨r, hlast, fun hmode hm => ?_, fun hmode hrun hdwell => ?_⟩ <;> rw [hsamples]
    · exact State.gainedWords_silent (Screen.latchGain_of_muted (by rw [hplayout, hmode]) (by rw [hmuted, hm]) k) _
    · refine State.gainedWords_silent (Screen.latchGain_of_untested (by rw [hplayout, hmode]) fun position h => ?_) _
      rw [hblock, if_pos hrun] at h
      exact hdwell position (Option.some.inj h)
  · refine ⟨s.boundary i, State.exec_blockBoundary_of_falls hvoid, fun k => ?_⟩
    obtain ⟨r, hlast, hsamples⟩ := State.boundary_sends i s k
    refine ⟨r, hlast, ?_⟩
    rw [State.boundary_clock]
    exact hsamples
  · intro s i x y l hx hy hl
    obtain ⟨hplayout, hfeeds, hmuted, hblock, hpattern⟩ := State.latchedScreen_parts i s x hx
    subst hy hl
    exact ⟨congrArg Playout.mode hplayout, hpattern, hmuted, hplayout, hfeeds, hmuted, hblock, rfl,
      fun k => tabulate_get _ k, fun c => tabulate_get _ c⟩

/-! ## The return two back -/

/-- R123: what handing an outcome over leaves of a lane that awaits `l.awaiting` and the block just sent. -/
theorem Lane.exchanged_handed (l : Lane) (samples : Vector (List Int) 8) (h : l.sound) :
    (l.twoBack = .none → (l.exchanged samples).miss = l.miss) ∧
    (l.twoBack = .lost → (l.exchanged samples).miss = min (l.miss + 1) 65535) ∧
    (∀ v, l.twoBack = .received v → (l.exchanged samples).miss = l.miss) ∧
    ∀ j : Fin 8, (l.exchanged samples).views[j] = l.views[j].after (l.nextCount - 2) l.twoBack j := by
  have hdue : (l.send samples).dueCount = l.nextCount - 2 := by
    show l.nextCount + 1 - 3 = l.nextCount - 2
    bv_omega
  have hhanded := l.send_handed h samples
  unfold Lane.exchanged
  rw [hdue] at hhanded ⊢
  unfold Lane.hand
  rw [hhanded]
  cases l.twoBack with
  | none => exact ⟨fun _ => rfl, nofun, nofun, fun j => tabulate_get _ j⟩
  | lost => exact ⟨nofun, fun _ => rfl, nofun, fun j => tabulate_get _ j⟩
  | received v => exact ⟨nofun, nofun, fun _ _ => rfl, fun j => tabulate_get _ j⟩

/-- Settles O51: the lane of the boundary, by the number of blocks awaiting. -/
theorem boundaryHandsOverTheReturnTwoBack : Obligations.BoundaryHandsOverTheReturnTwoBack := by
  intro s i l x y hs hvoid hx
  refine ⟨s.boundary i, State.exec_blockBoundary_of_falls hvoid, fun hy => ?_⟩
  rw [State.boundary_lanes i s _ rfl l, ← hx] at hy
  have hsound : x.sound := hx ▸ (hs i).1 l
  generalize (tabulate fun j : Fin 8 =>
    (s.feedBlocks i (s.selectionAt i s.screens[i].timed.base).played)[laneFeed l j].out) = samples at hy
  have hwait := x.exchanged_awaiting samples hsound
  obtain ⟨hnone, hlost, hreceived, hviews⟩ := x.exchanged_handed samples hsound
  rw [← hy] at hwait hnone hlost hreceived
  simp only [← hy] at hviews
  refine ⟨fun hfew => ?_, fun a rest hlist htwo => ?_⟩
  · have hback : x.twoBack = .none := by
      unfold Lane.twoBack
      rcases h : x.awaiting with _ | ⟨a, _ | ⟨b, rest⟩⟩
      · rfl
      · rfl
      · rw [h, List.length_cons, List.length_cons] at hfew
        omega
    refine ⟨hnone hback, ?_, fun j => ?_⟩
    · rw [hwait, show x.awaiting.length - 1 = 0 by omega]
      rfl
    · rw [hviews, hback]
      rfl
  · obtain ⟨b, rfl⟩ : ∃ b, rest = [b] := by
      rw [hlist] at htwo
      exact List.length_eq_one_iff.mp (by simpa using htwo)
    rw [hlist] at hwait
    refine ⟨hwait, fun hslot => ?_, fun v hslot => ?_⟩
    · have hback : x.twoBack = .lost := by
        unfold Lane.twoBack
        rw [hlist]
        dsimp only
        rw [hslot]
      refine ⟨hlost hback, fun j => ?_⟩
      rw [hviews, hback]
      rfl
    · have hback : x.twoBack = .received v := by
        unfold Lane.twoBack
        rw [hlist]
        dsimp only
        rw [hslot]
      refine ⟨hreceived v hback, fun j => ?_⟩
      rw [hviews, hback]
      rfl

end Sys2Proof.Machine
end

section
/-! PROOFS. The events of a boundary taken as commands (R61, R98, R113 to R115, R129, R131, R132, R174). -/

namespace Sys2Proof.Machine

/-! ## The fade and the reference -/

theorem Screen.timeoutFalls_iff (x : Screen) :
    x.timeoutFalls = true ↔
      x.clock.state = .locked ∧ x.settings.referenceTimeout ≤ min (x.clock.sinceReference + 1) 65535 := by
  unfold Screen.timeoutFalls
  rw [Bool.and_eq_true, decide_eq_true_iff, decide_eq_true_iff]
  rfl

/-- R61: the block that brings a LOCKED clock's count to the timeout. -/
theorem State.countReference_of_falls {i : ScreenNo} {s : State} (h : s.screens[i].timeoutFalls = true) :
    s.countReference i = (s.modClock i fun c => c.countBlock.toHoldover).raiseClock i 0 := by
  obtain ⟨hlocked, hlate⟩ := (Screen.timeoutFalls_iff _).mp h
  have hlost : (s.modClock i Clock.countBlock).screens[i].referenceLost = true := by
    unfold State.modClock
    rw [State.modScreen_same]
    unfold Screen.referenceLost
    rw [Bool.and_eq_true, decide_eq_true_iff, decide_eq_true_iff]
    dsimp only
    rw [Clock.countBlock_sinceReference hlocked]
    exact ⟨hlocked, hlate⟩
  unfold State.countReference State.timeoutReference
  rw [if_pos hlost]
  unfold State.modClock
  rw [State.modScreen_modScreen]

theorem Level.fadeEnds_iff (l : Level) : l.fadeEnds = true ↔ ∃ f, l.fade = some f ∧ f.duration ≤ f.count + 1 := by
  unfold Level.fadeEnds
  cases h : l.fade with
  | none => exact iff_of_false Bool.false_ne_true (by rintro ⟨_, h, -⟩; exact nomatch h)
  | some f =>
    dsimp only
    rw [decide_eq_true_iff]
    exact ⟨fun hend => ⟨f, rfl, hend⟩, fun ⟨_, hf, hend⟩ => Option.some.inj hf ▸ hend⟩

/-- Settles O52: the timeout that falls, and the fade that ends. -/
theorem fadeEndAndReferenceTimeoutFallDue : Obligations.FadeEndAndReferenceTimeoutFallDue := by
  refine ⟨fun s i x n hx hn => ⟨fun hlocked hlate => ?_, fun hstay => ?_⟩, fun s i => ⟨fun f hf hend => ?_, fun hgoes => ?_⟩⟩
  · have hfalls : s.screens[i].timeoutFalls = true := (Screen.timeoutFalls_iff _).mpr (by rw [← hx, ← hn]; exact ⟨hlocked, hlate⟩)
    have hjudged := State.modClock_judged i (fun c => c.countBlock.toHoldover) s
    have hraise := State.countReference_of_falls hfalls
    rw [hjudged] at hraise
    obtain ⟨⟨hothers, hframe, -⟩, hcues, -, hout⟩ := State.judged_raise_outcome i _ _ _ 0 s _ hraise
    refine ⟨s.countReference i, if_pos hfalls, ?_, hothers, ?_⟩
    · rw [← hx] at hout
      have hcount : x.clock.countBlock.sinceReference = n := (Clock.countBlock_sinceReference hlocked).trans hn.symm
      rw [← hcount]
      exact hout
    · rw [hcues] at hframe
      exact hframe
  · refine if_neg fun h => hstay ?_
    rw [Screen.timeoutFalls_iff, ← hx, ← hn] at h
    exact h
  · refine (if_pos ((Level.fadeEnds_iff _).mpr ⟨f, hf, hend⟩)).trans (congrArg Host.Outcome.next ?_)
    unfold State.modLevel
    exact State.modScreen_congr i s (by rw [(Level.advanceFade_spec _).2.2 f hf hend])
  · refine if_neg fun h => ?_
    obtain ⟨f, hf, hend⟩ := (Level.fadeEnds_iff _).mp h
    exact absurd (hgoes f hf) (Nat.not_lt.mpr hend)

/-! ## The meter -/

/-- R131, R132: the meter that falls due with room for its frame. -/
theorem State.emitMeter_of_space {i : ScreenNo} {s : State} (hs : s.reportsSound) (h : s.reports.length < 32) :
    s.emitMeter i = (s.placed (.meter (s.meterFrame i))).modScreen i fun x => { x.clearHolds with meterCount := 0 } := by
  obtain ⟨-, -, -, -, hsending⟩ := hs
  have hspace : s.reportSpace = true := decide_eq_true h
  unfold State.emitMeter State.offerMeter
  rw [if_pos hspace, State.modScreen_modScreen, State.place_eq_placed s _ hsending]

theorem State.emitMeter_of_full {i : ScreenNo} {s : State} (h : s.reports.length = 32) :
    s.emitMeter i = s.modScreen i fun x => { x with meterCount := 0 } := by
  unfold State.emitMeter State.offerMeter
  rw [if_neg]
  rw [State.reportSpace, h]
  exact nofun

/-! ## The check -/

/-- R115: a check that completes. -/
theorem State.completeCheck_eq (i : ScreenNo) (s : State) (g : Signal) (results : Vector ResultEntry 16)
    (hr : s.screens[i].signal = { g with results := results }) :
    s.completeCheck i = (s.modScreen i fun x =>
      { x with
        playout := { x.playout with mode := .show }
        signal := { g with check := { g.check with running := false, count := none }, results := results } }).offerNotice
      { kind := .checkDone, screen := i, subject := 0, state := 0
        valueA := ((List.finRange 16).filter fun k => results[k].state = .pass).length
        valueB := ((List.finRange 16).filter fun k => results[k].state = .fail).length
        st := s.stNow i } := by
  have hmod : (s.modSignal i fun g => { g with check := g.check.idle }).modScreen i (fun x => x.setMode .show) =
      s.modScreen i fun x =>
        { x with
          playout := { x.playout with mode := .show }
          signal := { g with check := { g.check with running := false, count := none }, results := results } } := by
    unfold State.modSignal
    rw [State.modScreen_modScreen]
    refine State.modScreen_congr i s ?_
    rw [hr]
    rfl
  unfold State.completeCheck State.raiseCheckDone State.raise
  rw [hmod, State.modScreen_stNow i _ s (by rfl), State.modScreen_same, Signal.countResults_eq, Signal.countResults_eq]

/-- R115: the last feed of the list is decided. -/
theorem Signal.decideLast_results (g : Signal) :
    ∃ results : Vector ResultEntry 16, g.decideLast = { g with results := results } ∧
      ∀ k : FeedNo, results[k] =
        if g.check.feeds.getLast? = some k then
          { g.results[k] with state := if g.check.spec.passCount ≤ g.results[k].hits then .pass else .fail }
        else g.results[k] := by
  unfold Signal.decideLast Signal.decideFeed
  rw [← List.getLast?_eq_getElem?]
  cases hl : g.check.feeds.getLast? with
  | none => exact ⟨g.results, rfl, fun k => (if_neg nofun).symm⟩
  | some f =>
    refine ⟨_, rfl, fun k => ?_⟩
    rw [adjust_get]
    by_cases h : k = f
    · subst h
      rw [if_pos rfl, if_pos rfl]
      rfl
    · rw [if_neg h, if_neg fun heq => h (Option.some.inj heq).symm]

theorem CheckRecord.closes_iff (c : CheckRecord) :
    c.closes = true ↔ c.running = true ∧ ∃ n, c.count = some n ∧ c.feeds.length * (c.spec.dwell + 1) ≤ n + 1 := by
  unfold CheckRecord.closes
  rw [Bool.and_eq_true]
  refine and_congr_right fun _ => ?_
  cases h : c.count with
  | none => exact iff_of_false Bool.false_ne_true (by rintro ⟨_, h, -⟩; exact nomatch h)
  | some n =>
    dsimp only
    rw [decide_eq_true_iff]
    exact ⟨fun hend => ⟨n, rfl, hend⟩, fun ⟨_, hn, hend⟩ => Option.some.inj hn ▸ hend⟩

/-- R115: CHECK_COMPLETE at the closing block. -/
theorem State.exec_checkComplete_of_closes (i : ScreenNo) (s : State) (g : Signal) (hg : g = s.screens[i].signal)
    (hcloses : g.check.closes = true) : ∃ (t : State) (results : Vector ResultEntry 16), exec (.checkComplete i) s = .next t ∧
      (∀ k : FeedNo, results[k] =
        if g.check.feeds.getLast? = some k then
          { g.results[k] with state := if g.check.spec.passCount ≤ g.results[k].hits then .pass else .fail }
        else g.results[k]) ∧
      t = (s.modScreen i fun x =>
        { x with
          playout := { x.playout with mode := .show }
          signal :=
            { g with check := { g.check with running := false, count := none }, results := results } }).offerNotice
        { kind := .checkDone, screen := i, subject := 0, state := 0
          valueA := ((List.finRange 16).filter fun k => results[k].state = .pass).length
          valueB := ((List.finRange 16).filter fun k => results[k].state = .fail).length
          st := s.stNow i } := by
  obtain ⟨results, hlast, hresults⟩ := g.decideLast_results
  refine ⟨_, results, if_pos (hg ▸ hcloses), hresults, ?_⟩
  rw [State.completeCheck_eq i _ g results (by rw [State.modSignal_screen, ← hg, hlast])]
  unfold State.modSignal
  rw [State.modScreen_modScreen, State.modScreen_stNow i _ s (by rfl)]

/-! ## Peaks -/

/-- R129: the peak bounds every magnitude and is one of them. -/
theorem peakOf_spec (words : List Int) :
    (∀ v ∈ words, v.natAbs ≤ peakOf words) ∧ (peakOf words = 0 ∨ ∃ v ∈ words, v.natAbs = peakOf words) := by
  have hfold (l : List Int) (m : Nat) :
      m ≤ l.foldl (fun m v => max m v.natAbs) m ∧ (∀ v ∈ l, v.natAbs ≤ l.foldl (fun m v => max m v.natAbs) m) ∧
        (l.foldl (fun m v => max m v.natAbs) m = m ∨ ∃ v ∈ l, v.natAbs = l.foldl (fun m v => max m v.natAbs) m) := by
    induction l generalizing m with
    | nil => exact ⟨Nat.le_refl m, nofun, .inl rfl⟩
    | cons w rest ih =>
      obtain ⟨hle, hall, hone⟩ := ih (max m w.natAbs)
      simp only [List.foldl_cons, List.mem_cons, forall_eq_or_imp, exists_eq_or_imp]
      refine ⟨Nat.le_trans (Nat.le_max_left _ _) hle, ⟨Nat.le_trans (Nat.le_max_right _ _) hle, hall⟩, ?_⟩
      rcases hone with h | h
      · rcases Nat.le_total m w.natAbs with hw | hw
        · exact .inr (.inl (by rw [h, Nat.max_eq_right hw]))
        · exact .inl (by rw [h, Nat.max_eq_left hw])
      · exact .inr (.inr h)
  exact (hfold words 0).2

/-! ## The measures of a boundary -/

/-- R130: the sent peak of feed k in a boundary that plays `played`. -/
def State.sentPeak (i : ScreenNo) (played : Option Block) (s : State) (k : FeedNo) : Nat :=
  peakOf ((s.gainedWords i k played).map satSample)

/-- R130 to R132: what stage 5 leaves of the holds and the count, by whether its frame was placed. -/
structure Screen.MeteredAs (x z : Screen) (placed : Bool) (feedHold : FeedNo → Nat) (channelHold : ChannelNo → Nat) :
    Prop where
  feeds : ∀ k : FeedNo, z.feeds[k].hold = if placed then 0 else feedHold k
  channels : ∀ c : ChannelNo, z.channelHolds[c] = if placed then 0 else channelHold c
  count : z.meterCount = if x.settings.meterInterval = 0 ∨ x.meterFalls then 0 else x.meterCount + 1

/-- R131, R132: the measures of a screen `y` that holds the counts and the channel holds of `x`. -/
theorem Screen.measured_meteredAs (x y : Screen) (played : Option Block) (blocks : Vector FeedBlock 16) (room : Bool)
    (hsettings : y.settings = x.settings) (hcount : y.meterCount = x.meterCount)
    (hchannels : y.channelHolds = x.channelHolds) (hholds : ∀ k : FeedNo, blocks[k].feed.hold = x.feeds[k].hold) :
    let feedHold := fun k : FeedNo => max x.feeds[k].hold (peakOf blocks[k].out)
    let channelHold := fun c : ChannelNo => max x.channelHolds[c] (peakOf (channelInput played c))
    (y.measured played blocks).meterFalls = x.meterFalls ∧
      (∀ k : FeedNo, (y.measured played blocks).feedHolds[k] = feedHold k) ∧
      (∀ c : ChannelNo, (y.measured played blocks).channelHolds[c] = channelHold c) ∧
      x.MeteredAs ((y.measured played blocks).metered room) (x.meterFalls && room) feedHold channelHold := by
  intro feedHold channelHold
  have hfalls : (y.measured played blocks).meterFalls = x.meterFalls := by
    show (decide (0 < y.settings.meterInterval) && decide (100 * y.settings.meterInterval ≤ y.meterCount + 1)) = _
    rw [hsettings, hcount]
    rfl
  have hfeed (k : FeedNo) : (y.measured played blocks).feeds[k].hold = feedHold k := by
    rw [Screen.measured_feed, hholds]
  have hchannel (c : ChannelNo) : (y.measured played blocks).channelHolds[c] = channelHold c := by
    refine (tabulate_get _ c).trans ?_
    show max y.channelHolds[c] _ = _
    rw [hchannels]
  have hinterval : x.meterFalls = true → x.settings.meterInterval ≠ 0 := fun h =>
    Nat.ne_of_gt (x.meterFalls_iff.mp h).1
  refine ⟨hfalls, fun k => (tabulate_get _ k).trans (hfeed k), hchannel, ?_⟩
  rcases (y.measured played blocks).metered_cases room with ⟨hdue, hroom, h⟩ | ⟨hdue, hroom, h⟩ | ⟨hdue, h⟩ <;>
    rw [h] <;> rw [hfalls] at hdue <;> rw [hdue]
  · subst hroom
    exact
      { feeds := fun k => congrArg Feed.hold (tabulate_get _ k)
        channels := fun c => Vector.getElem_replicate _
        count := (if_pos (.inr hdue)).symm }
  · subst hroom
    exact { feeds := hfeed, channels := hchannel, count := (if_pos (.inr hdue)).symm }
  · refine { feeds := hfeed, channels := hchannel, count := ?_ }
    show (if y.settings.meterInterval = 0 then 0 else y.meterCount + 1) = _
    rw [hsettings, hcount]
    refine ite_eq_of_iff ?_ rfl rfl
    rw [hdue]
    simp

/-- R130 to R132: stage 5 of a boundary and its METER frame. -/
theorem State.boundary_measures (i : ScreenNo) (s : State) (x : Screen) (played : Option Block)
    (hx : x = s.screens[i]) (hplayed : played = (s.selectionAt i x.timed.base).played) :
    let feedHold := fun k : FeedNo => max x.feeds[k].hold (s.sentPeak i played k)
    let channelHold := fun c : ChannelNo => max x.channelHolds[c] (peakOf (channelInput played c))
    ∃ (u : State) (held placed : Bool) (m : MeterFrame) (notices : List UpFrame) (meter : List UpFrame),
      s.boundary i = u.cueStage i u.screens[i].clock.base held ∧ u.screens[i].clock = x.timed ∧
      (∀ k : FeedNo, u.screens[i].feeds[k].sentOne = s.sentPeak i played k ∧
        u.screens[i].feeds[k].sentTwo = x.feeds[k].sentOne) ∧
      placed = (x.meterFalls && decide (s.reports.length + (s.earlyFrames i).length < 32)) ∧
      x.MeteredAs u.screens[i] placed feedHold channelHold ∧
      (m.screen = i ∧ m.st = x.timed.base ∧ m.clock = x.timed.state ∧ (∀ k : FeedNo, m.feeds[k] = feedHold k) ∧
        ∀ c : ChannelNo, m.channels[c] = channelHold c) ∧
      meter = (if x.meterFalls then [.meter m] else []) ∧ (∀ f ∈ notices, ∃ n, f = .notice n) ∧
      u.reports = s.reports ++ (s.earlyFrames i ++ (meter ++ notices)).take (32 - s.reports.length) := by
  intro feedHold channelHold
  obtain ⟨a, p, v, u, m, z, b, hbd, has, -, -, -, -, hkp, ⟨lost, hm⟩, hz, -, -, -, hvs, hoff, hu⟩ :=
    State.boundary_stages i s x _ _ _ hx rfl rfl rfl
  rw [← hplayed] at hm hu
  obtain ⟨done, ⟨-, hdone⟩, hck, hfeeds⟩ := State.checkStage_shiftPeaks_leaves i b.handed _ v u hu
  have hps := hkp.1
  rw [has] at hps
  have hpsettings : p.screens[i].settings = x.settings := by rw [hps, hx]; rfl
  have hpcount : p.screens[i].meterCount = x.meterCount := by rw [hps, hx]; rfl
  have hpchannels : p.screens[i].channelHolds = x.channelHolds := by rw [hps, hx]; rfl
  have hpclock : p.screens[i].clock = x.timed := by rw [hps]
  have hmclock : m.clock = x.timed := by rw [hm]; exact hpclock
  have hout (k : FeedNo) : peakOf (s.feedBlocks i played)[k].out = s.sentPeak i played k :=
    congrArg peakOf (State.feedBlocks_out i played s k)
  obtain ⟨hfalls, hmfeeds, hmchannels, hmetered⟩ := x.measured_meteredAs { p.screens[i] with noticeLost := lost } played
    (s.feedBlocks i played) (decide (s.reports.length + (s.earlyFrames i).length < 32)) hpsettings hpcount hpchannels
    (fun k => by rw [hx]; exact (State.feedBlocks_feed i played s k).1)
  rw [← hm] at hfalls hmfeeds hmchannels hmetered
  rw [← hz] at hmetered
  simp only [hout] at hmfeeds hmetered
  have hzone (k : FeedNo) : z.feeds[k].sentOne = x.feeds[k].sentOne := by
    rw [hz, Screen.metered_feed, hm, Screen.measured_feed, hx]
    exact (State.feedBlocks_feed i played s k).2.1
  have hufeed (k : FeedNo) : u.screens[i].feeds[k] =
      { z.feeds[k] with sentTwo := z.feeds[k].sentOne, sentOne := s.sentPeak i played k } := by
    rw [hfeeds k, hvs, hout]
    rfl
  have hreports := (hoff.trans hck.2.1).1
  rw [List.append_assoc, List.append_assoc, hfalls] at hreports
  refine ⟨u, _, _, _, _, _, hbd, ?_, fun k => ⟨?_, ?_⟩, rfl, ?_, ?_, rfl, ?_, hreports⟩
  · rw [hck.screen, hvs]
    show z.clock = _
    rw [hz, Screen.metered_eq]
    exact hmclock
  · rw [hufeed k]
  · rw [hufeed k]
    exact hzone k
  · exact
      { feeds := fun k => by
          rw [hufeed k]
          exact hmetered.feeds k
        channels := fun c => by
          rw [hck.screen, hvs]
          exact hmetered.channels c
        count := by
          rw [hck.screen, hvs]
          exact hmetered.count }
  · refine ⟨rfl, ?_, congrArg Clock.state hmclock, hmfeeds, hmchannels⟩
    · show m.clock.now = _
      rw [hmclock, Clock.now, x.timed_elapsed]
      exact BitVec.add_zero _
  · intro f hf
    rcases List.mem_append.mp hf with halarm | hlast
    · obtain ⟨k, -, hk⟩ := List.mem_filterMap.mp halarm
      unfold Screen.alarmFrame at hk
      split at hk
      · obtain ⟨_, -, rfl⟩ := Option.map_eq_some_iff.mp hk
        exact ⟨_, rfl⟩
      · exact nomatch hk
    · obtain ⟨n, hn, -⟩ := hdone f hlast
      exact ⟨n, hn⟩

/-- R64, R80: the frames before stage 5 are notices. -/
theorem State.earlyFrames_notices (i : ScreenNo) (s : State) : ∀ f ∈ s.earlyFrames i, ∃ n, f = .notice n := by
  intro f hf
  rcases List.mem_append.mp hf with hclock | hretired
  · rw [Screen.clockFrames_eq i _ _ rfl] at hclock
    rcases List.mem_append.mp hclock with h | h <;> split at h
    · exact ⟨_, List.mem_singleton.mp h⟩
    · exact nomatch h
    · exact ⟨_, List.mem_singleton.mp h⟩
    · exact nomatch h
  · obtain ⟨k, -, hk⟩ := List.mem_map.mp hretired
    exact ⟨_, hk.symm⟩

/-- R174: the METER frame is among the frames placed when it is offered and the notices before it leave room. -/
theorem meter_mem_take {early notices : List UpFrame} {m m' : MeterFrame} {falls : Bool} {n : Nat}
    (hearly : ∀ f ∈ early, ∃ n, f = .notice n) (hnotices : ∀ f ∈ notices, ∃ n, f = .notice n) :
    UpFrame.meter m' ∈ (early ++ ((if falls then [UpFrame.meter m] else []) ++ notices)).take n ↔
      (falls = true ∧ early.length < n) ∧ m' = m := by
  have hnot {l : List UpFrame} (hl : ∀ f ∈ l, ∃ n, f = .notice n) : UpFrame.meter m' ∉ l := fun h => by
    obtain ⟨_, hn⟩ := hl _ h
    exact nomatch hn
  rw [List.take_append, List.mem_append]
  constructor
  · rintro (h | h)
    · exact absurd (List.mem_of_mem_take h) (hnot hearly)
    · cases falls with
      | false => exact absurd (List.mem_of_mem_take h) (hnot hnotices)
      | true =>
        rcases hk : n - early.length with _ | k <;> rw [hk] at h
        · exact nomatch h
        · rcases List.mem_cons.mp h with h | h
          · exact ⟨⟨rfl, by omega⟩, UpFrame.meter.inj h⟩
          · exact absurd (List.mem_of_mem_take h) (hnot hnotices)
  · rintro ⟨⟨rfl, hroom⟩, rfl⟩
    obtain ⟨k, hk⟩ : ∃ k, n - early.length = k + 1 := ⟨n - early.length - 1, by omega⟩
    rw [hk]
    exact .inr List.mem_cons_self

/-- Settles O53: the two events, the rules of the check, and the boundary they are part of. -/
theorem meterAndCheckFallDue : Obligations.MeterAndCheckFallDue := by
  refine ⟨fun s i x hs hx => ?_, fun s i g hg => ?_, CheckRecord.blockAt_spec, Signal.countCheck_spec,
    State.checkStage_spec, peakOf_spec, fun s i x hx hvoid => ?_, fun s i x hx hvoid => ?_⟩
  · subst hx
    refine ⟨fun h => if_neg (mt (Screen.meterFalls_iff _).mp h), fun h hfull => ?_, fun h hroom => ?_⟩
    · exact (if_pos ((Screen.meterFalls_iff _).mpr h)).trans (congrArg Host.Outcome.next (State.emitMeter_of_full hfull))
    · have hscreen := State.emitMeter_of_space hs hroom (i := i)
      have hend : (s.emitMeter i).screens[i] = { s.screens[i].clearHolds with meterCount := 0 } := by
        rw [hscreen, State.modScreen_same]
        rfl
      refine ⟨s.emitMeter i, s.meterFrame i, if_pos ((Screen.meterFalls_iff _).mpr h), rfl, rfl, rfl,
        fun k => tabulate_get _ k, rfl, ?_, fun k => ?_, fun c => ?_⟩
      · rw [hend]
        exact hscreen.trans (State.modScreen_congr i _ rfl)
      · rw [hend]
        exact tabulate_get _ k
      · rw [hend]
        exact Vector.getElem_replicate _
  · have hcloses := g.check.closes_iff
    refine ⟨fun h => if_neg (hg ▸ mt hcloses.mp h), fun h => ?_⟩
    exact State.exec_checkComplete_of_closes i s g hg (hcloses.mpr h)
  · obtain ⟨a, p, v, u, handed, hbd, ⟨has, -⟩, ⟨-, hkp, -⟩, hus, -, hhand, ⟨hsignal, hmode, hclock⟩, hu⟩ :=
      State.boundary_reaches i s x _ _ hx rfl rfl
    obtain ⟨-, hnoise, htone⟩ := x.signal.countCheck_keeps
    rw [hx] at hvoid
    refine ⟨v, u, handed, ⟨_, hbd ▸ State.exec_blockBoundary_of_falls hvoid⟩, fun hs l => hhand l (hx ▸ (hs i).1 l), ?_,
      hmode, ?_, hu⟩
    · rw [hsignal, ← hnoise, ← htone, ← noiseRun_end]
      exact congrArg (fun n => { x.signal.countCheck with
        noise := (noiseRun n x.signal.countCheck.noise).2, tonePhase := x.signal.countCheck.tonePhase + 16 })
        (show Config.blockLength = 48 from rfl)
    · rw [hclock, hus, hkp.1, has]
  · obtain ⟨u, held, placed, m, notices, meter, hbd, hclock, hsent, hplaced, hmetered, ⟨hscreen, hst, hstate, hfeeds, hchannels⟩,
      hmeter, hnotices, hreports⟩ := State.boundary_measures i s x _ hx rfl
    have hdue := x.meterFalls_iff
    subst hmeter
    have hmem (m' : MeterFrame) := meter_mem_take (m := m) (m' := m') (falls := x.meterFalls)
      (n := 32 - s.reports.length) (State.earlyFrames_notices i s) hnotices
    have hplaced' : placed = true ↔ x.meterFalls = true ∧ (s.earlyFrames i).length < 32 - s.reports.length := by
      rw [hplaced, Bool.and_eq_true, decide_eq_true_iff]
      exact and_congr_right fun _ => by omega
    simp only [← hplaced'] at hmem
    rw [hx] at hvoid
    refine ⟨u, _, _, ⟨held, hbd ▸ State.exec_blockBoundary_of_falls hvoid⟩, by rw [hclock], hreports, fun k => hsent k,
      fun h => ?_, fun hpos h => ?_, fun h m' hm' => ?_, fun m' hm' => ?_, fun hno => ?_⟩
    · rw [hmetered.count, if_pos (h.imp_right hdue.mpr)]
    · rw [hmetered.count, if_neg fun hz => hz.elim (Nat.ne_of_gt hpos) fun hf => h (hdue.mp hf)]
    · exact h (hdue.mp (hplaced'.mp ((hmem m').mp hm').1).1)
    · obtain ⟨hyes, rfl⟩ := (hmem m').mp hm'
      refine ⟨hscreen, by rw [hclock, hst], by rw [hclock, hstate], hfeeds, hchannels, fun k => ?_, fun c => ?_⟩
      · rw [hmetered.feeds, if_pos hyes]
      · rw [hmetered.channels, if_pos hyes]
    · have hnone : ¬placed = true := fun hyes => hno m ((hmem m).mpr ⟨hyes, rfl⟩)
      refine ⟨fun k => ?_, fun c => ?_, fun h => ?_⟩
      · rw [hmetered.feeds, if_neg hnone]
        rfl
      · rw [hmetered.channels, if_neg hnone]
      · have hfull : ¬(s.earlyFrames i).length < 32 - s.reports.length :=
          fun hroom => hnone (hplaced'.mpr ⟨hdue.mpr h, hroom⟩)
        rw [hreports, List.length_append, List.length_take, List.length_append]
        omega

end Sys2Proof.Machine
end

section
/-! PROOFS. The cue events and the cue stage (R151, R154 to R160, R163). -/

namespace Sys2Proof.Machine

/-! ## Due cues and markers -/

theorem Cue.screenNo_eq {c : Cue} {i : ScreenNo} (h : c.spec.screen = i.val) : c.screenNo = i :=
  Fin.ext ((congrArg (· % 6) h).trans (Nat.mod_eq_of_lt i.isLt))

/-- R157: one cue that fires. -/
theorem State.fireCues_singleton (i : ScreenNo) (n : CueNo) (s : State) :
    s.fireCues i [n] = (s.fireCue i n).armChildren [n] := rfl

/-- R155: a test of markers that agrees with the rule. -/
theorem markerIsDue_eq {i : ScreenNo} {s : State} {t : ScreenTime} {arrival : Bool} {due : Marker → Bool}
    (harrival : arrival = true ↔ ∃ e, s.activeEntry i = some e ∧ s.entries[e].timing = .arrival)
    (hdue : ∀ m, due m = (arrival || decide (-24 ≤ signedDiff t m.pt))) : markerIsDue (s.arrivalScreen i) t = due := by
  have harr : s.arrivalScreen i = arrival := Bool.eq_iff_iff.mpr ((s.arrivalScreen_iff i).trans harrival.symm)
  funext m
  rw [hdue, ← harr]
  rfl

/-- R155: the cues the due markers of a screen make due. -/
theorem State.markerCues_eq (i : ScreenNo) (t : ScreenTime) (s : State) (due : Marker → Bool)
    (hdue : markerIsDue (s.arrivalScreen i) t = due) :
    s.markerCues i t = (List.finRange 256).filter (fun n =>
      decide (s.cues[n].spec.screen = i.val ∧ s.cues[n].state = .pending ∧ s.cues[n].spec.trigger = .onMarker) &&
        s.screens[i].markers.any fun m => due m && decide (m.code = s.cues[n].spec.markerCode)) := by
  unfold State.markerCues State.dueMarkers
  rw [hdue, indexes_eq_finRange]
  refine List.filter_congr fun n _ => Bool.eq_iff_iff.mpr ?_
  simp only [Bool.and_eq_true, decide_eq_true_eq, Cue.markerDue_iff, List.mem_filter, List.any_eq_true, and_assoc]

theorem State.removeMarkers_eq (i : ScreenNo) (t : ScreenTime) (s : State) (due : Marker → Bool)
    (hdue : markerIsDue (s.arrivalScreen i) t = due) :
    s.removeMarkers i t = s.modScreen i fun x => { x with markers := x.markers.filter fun m => !due m } := by
  rw [← hdue]
  rfl

/-- R155: without a due marker nothing changes. -/
theorem State.markerDue_of_none (i : ScreenNo) (s : State) (due : Marker → Bool)
    (hdue : markerIsDue (s.arrivalScreen i) s.screens[i].clock.base = due) (h : ∀ m ∈ s.screens[i].markers, due m = false) :
    exec (.markerDue i) s = .next s := by
  have hcues : s.markerCues i s.screens[i].clock.base = [] := by
    rw [State.markerCues_eq i _ s due hdue, List.filter_eq_nil_iff]
    intro n _ hn
    obtain ⟨-, hany⟩ := (Bool.and_eq_true _ _).mp hn
    obtain ⟨m, hm, hcode⟩ := List.any_eq_true.mp hany
    rw [h m hm] at hcode
    exact Bool.false_ne_true hcode
  have hmarkers : s.removeMarkers i s.screens[i].clock.base = s := by
    rw [State.removeMarkers_eq i _ s due hdue]
    refine (State.modScreen_congr i (g := fun x => x) s ?_).trans (State.modScreen_id i s)
    have hall : s.screens[i].markers.filter (fun m => !due m) = s.screens[i].markers :=
      List.filter_eq_self.mpr fun m hm => by rw [h m hm]; rfl
    rw [hall]
  refine congrArg Host.Outcome.next ?_
  rw [hmarkers, hcues, State.fireCues, State.armChildren_nil]
  rfl

/-! ## Cue events -/

/-- R154: CUE_COUNTDOWN_EXPIRY. -/
theorem State.exec_cueCountdownExpiry (s : State) (n : CueNo) (i : ScreenNo) (hi : s.cues[n].spec.screen = i.val) :
    (s.cues[n].countdownEnds = true → exec (.cueCountdownExpiry n) s =
      .next ((({ s with cues := s.cues.set n.val { s.cues[n] with countdown := none } n.isLt } : State).fireCue
        i n).armChildren [n])) ∧
    (¬s.cues[n].countdownEnds = true → exec (.cueCountdownExpiry n) s = .next s) := by
  refine ⟨fun hends => (if_pos hends).trans ?_, fun hends => if_neg hends⟩
  obtain ⟨harmed, k, hk, hle⟩ := (Cue.countdownEnds_iff _).mp hends
  have hlower : s.cues[n].lowerCountdown = { s.cues[n] with countdown := none } := by
    unfold Cue.lowerCountdown
    rw [if_pos harmed, hk]
    exact congrArg (fun c => { s.cues[n] with countdown := c }) (if_pos hle)
  rw [Cue.screenNo_eq hi, State.modCue_eq_set n _ s hlower, State.fireCues_singleton]

/-- R154, R160: CUE_TIME_DUE. -/
theorem State.exec_cueTimeDue (s : State) (n : CueNo) (i : ScreenNo) (hi : s.cues[n].spec.screen = i.val) :
    exec (.cueTimeDue n) s = .next
      (if s.screens[i].cuesHeld = true then s
      else if s.cues[n].timeDue s.screens[i].clock.base = true then (s.fireCue i n).armChildren [n]
      else if s.cues[n].timeMissed s.screens[i].clock.base = true then
        { s with cues := s.cues.set n.val { s.cues[n] with state := .missed } n.isLt }
      else s) := by
  obtain rfl := Cue.screenNo_eq hi
  show Host.Outcome.next (s.judgeTimed n) = _
  unfold State.judgeTimed
  dsimp only
  rw [State.modCue_eq_set n _ s rfl, State.fireCues_singleton]

/-! ## The cue stage -/

/-- R154 to R157: the cue stage as the judgement and the firing of the due cues. -/
theorem State.cueStage_eq (s u : State) (i : ScreenNo) (time : ScreenTime) (held : Bool) (due : Marker → Bool)
    (isDue : CueNo → Bool) (hdue : markerIsDue (s.arrivalScreen i) time = due)
    (his : ∀ n, isDue n = true ↔ s.cues[n].spec.screen = i.val ∧
      s.cues[n].isDue time held (s.screens[i].markers.filter due) = true)
    (hu : u = { s with
      screens := s.screens.set i.val
        { s.screens[i] with markers := s.screens[i].markers.filter fun m => !due m } i.isLt
      cues := u.cues })
    (hcues : ∀ n : CueNo, u.cues[n] = (s.judgeCues i time held).cues[n]) :
    s.cueStage i time held =
      (((List.finRange 256).filter isDue).foldl (fun v n => v.fireCue i n) u).armChildren
        ((List.finRange 256).filter isDue) := by
  have hjudged : s.judgeCues i time held = u := by
    have htable : (s.judgeCues i time held).cues = u.cues := table_ext fun n => (hcues n).symm
    rw [State.judgeCues_eq, hdue, htable, ← hu]
  have hlist : s.dueCues i time held = (List.finRange 256).filter isDue := by
    unfold State.dueCues State.dueMarkers
    rw [hdue, indexes_eq_finRange]
    refine List.filter_congr fun n _ => Bool.eq_iff_iff.mpr ?_
    rw [his, Bool.and_eq_true, decide_eq_true_iff]
  unfold State.cueStage State.fireCues
  rw [hjudged, hlist]

/-- Settles O54: each event by its conditions, then the cue stage and the boundary that reaches it. -/
theorem cueEventsFireTheDueCues : Obligations.CueEventsFireTheDueCues := by
  refine ⟨fun s n i d hi hd => ?_, fun s u i arrival due fires harrival hdue hfires hu => ?_, State.fireCue_eq,
    State.fireAction_spec, State.armChildren_cues, fun s u i time held arrival dueMarker isDue harrival hmarker => ?_,
    fun s i time held x y hx hy => ?_, fun s i x hx hvoid => ?_⟩
  · obtain ⟨hfires, hkeeps⟩ := State.exec_cueCountdownExpiry s n i hi
    have htime := State.exec_cueTimeDue s n i hi
    have hends := s.cues[n].countdownEnds_iff
    have hon := s.cues[n].timeDue_iff s.screens[i].clock.base
    have hoff := s.cues[n].timeMissed_iff s.screens[i].clock.base
    rw [← hd] at hon hoff
    refine ⟨fun h => hfires (hends.mpr h), fun h => hkeeps (mt hends.mp h), ?_, ?_, ?_⟩
    · rintro ⟨⟨hheld, hpending, htrigger⟩, hrest⟩
      rw [htime, if_neg (by rw [hheld]; nofun), if_pos (hon.mpr ⟨hpending, htrigger, hrest⟩)]
    · rintro ⟨⟨hheld, hpending, htrigger⟩, hlate, hcatch, hgo⟩
      have hnot : ¬s.cues[n].timeDue s.screens[i].clock.base = true := fun h => by
        obtain ⟨-, -, -, hle | hc⟩ := hon.mp h
        · omega
        · rw [hcatch] at hc
          exact nomatch hc
      rw [htime, if_neg (by rw [hheld]; nofun), if_neg hnot, if_pos (hoff.mpr ⟨hpending, htrigger, hlate, hcatch, hgo⟩)]
    · intro hdue hmissed
      rw [htime]
      refine congrArg Host.Outcome.next ?_
      split
      · rfl
      · next hheld =>
        have hheld' := Bool.not_eq_true _ ▸ hheld
        rw [if_neg, if_neg]
        · intro h
          obtain ⟨hpending, htrigger, hrest⟩ := hoff.mp h
          exact hmissed ⟨⟨hheld', hpending, htrigger⟩, hrest⟩
        · intro h
          obtain ⟨hpending, htrigger, hrest⟩ := hon.mp h
          exact hdue ⟨⟨hheld', hpending, htrigger⟩, hrest⟩
  · have htest := markerIsDue_eq harrival hdue
    refine ⟨?_, State.markerDue_of_none i s due htest⟩
    refine congrArg Host.Outcome.next ?_
    rw [State.markerCues_eq i _ s due htest, ← hfires, State.removeMarkers_eq i _ s due htest, ← hu]
    rfl
  · intro expires judged past missed hisDue hu hcues
    have htest := markerIsDue_eq harrival hmarker
    refine State.cueStage_eq s u i time held dueMarker isDue htest (fun n => ?_) hu fun n => ?_
    · rw [hisDue n, Cue.isDue_iff]
      simp only [expires, judged, past, List.mem_filter, and_assoc]
    · have hjudged : missed n ↔ held = false ∧ s.cues[n].timeMissed time = true := by
        rw [Cue.timeMissed_iff]
        simp only [missed, judged, past, and_assoc]
      obtain ⟨hother, hlate, hstays⟩ := hcues n
      rw [State.judgeCues_get]
      by_cases hscreen : s.cues[n].spec.screen = i.val
      · rw [if_pos hscreen]
        by_cases hm : missed n
        · rw [if_pos (hjudged.mp hm)]
          exact hlate hscreen hm
        · rw [if_neg (mt hjudged.mpr hm)]
          exact hstays hscreen hm
      · rw [if_neg hscreen]
        exact hother hscreen
  · subst hx hy
    exact State.cueStage_keepsFromCues i time held s
  · subst hx
    obtain ⟨u, held, hbd, hheld, hmarkers, hentries, hcues⟩ := State.boundary_cueStage (i := i) s
    refine ⟨u, held, hbd ▸ State.exec_blockBoundary_of_falls hvoid, ?_, hmarkers, hentries, fun h =>
      hcues (Screen.resyncTime_of_not_due h)⟩
    rw [hheld]
    exact AlarmRecord.acting_iff _ _

end Sys2Proof.Machine
end

section
/-! PROOFS. The lane records (R12, R120 to R122). -/

namespace Sys2Proof.Machine

/-! ## Lane numbers -/

theorem laneScreen_eq {i : ScreenNo} {l : Fin 2} {n : LaneNo} (h : n.val = 2 * i.val + l.val) : laneScreen n = i :=
  Fin.ext (by show n.val / 2 = _; omega)

theorem laneSide_eq {i : ScreenNo} {l : Fin 2} {n : LaneNo} (h : n.val = 2 * i.val + l.val) : laneSide n = l :=
  Fin.ext (by show n.val % 2 = _; omega)

/-- R120: an update of lane 2i + l. -/
theorem State.modLane_eq {i : ScreenNo} {l : Fin 2} {n : LaneNo} (h : n.val = 2 * i.val + l.val) (f : Lane → Lane)
    (s : State) :
    s.modLane n f = s.modScreen i fun x => { x with lanes := x.lanes.set l.val (f x.lanes[l]) l.isLt } := by
  unfold State.modLane
  rw [laneScreen_eq h, laneSide_eq h]
  rfl

/-- R120: a lane set to what its own value determines. -/
theorem State.modLane_of_lane {i : ScreenNo} {l : Fin 2} {n : LaneNo} (h : n.val = 2 * i.val + l.val) {f : Lane → Lane}
    (s : State) {y : Lane} (hy : f s.screens[i].lanes[l] = y) :
    s.modLane n f = s.modScreen i fun x => { x with lanes := x.lanes.set l.val y l.isLt } := by
  rw [State.modLane_eq h]
  exact State.modScreen_congr i s (by rw [hy])

/-! ## Entries of lists -/

theorem getD_of_lt {α : Type} {l : List α} {i : Nat} {d : α} (h : i < l.length) : l.getD i d = l[i] := by
  rw [List.getD_eq_getElem?_getD, List.getElem?_eq_getElem h, Option.getD_some]

theorem getD_append_of_lt {α : Type} {l : List α} (r : List α) {i : Nat} {d : α} (h : i < l.length) :
    (l ++ r).getD i d = l.getD i d := by
  rw [List.getD_eq_getElem?_getD, List.getD_eq_getElem?_getD, List.getElem?_append_left h]

theorem getD_append_of_le {α : Type} {l : List α} (r : List α) {i : Nat} {d : α} (h : l.length ≤ i) :
    (l ++ r).getD i d = r.getD (i - l.length) d := by
  rw [List.getD_eq_getElem?_getD, List.getD_eq_getElem?_getD, List.getElem?_append_right h]

/-! ## Sense records -/

/-- R12, R122: the records that pass are those with a good check over 26 bytes. -/
theorem senseRecordGood_iff (record : List Byte) :
    senseRecordGood record = true ↔ ∃ body, body.length = 26 ∧ record = withCheck body := by
  unfold senseRecordGood
  rw [Bool.and_eq_true, decide_eq_true_iff, decide_eq_true_iff]
  constructor
  · rintro ⟨hlen, hcheck⟩
    obtain ⟨c1, c0, hc⟩ := eq_pair_of_length (show (record.drop 26).length = 2 by rw [List.length_drop, hlen])
    rw [hc] at hcheck
    obtain ⟨h1, h0⟩ := check_bytes hcheck
    refine ⟨record.take 26, by rw [List.length_take]; omega, ?_⟩
    rw [withCheck, ← h1, ← h0, ← hc, List.take_append_drop]
  · rintro ⟨body, hlen, rfl⟩
    have hall : (withCheck body).length = 28 := by rw [withCheck_length, hlen]
    have htake := withCheck_take body
    have hdrop := withCheck_drop body
    rw [hall] at htake hdrop
    exact ⟨hall, by rw [htake, hdrop]⟩

/-- R122: the first entry of the count, its slot empty. -/
theorem storeSense_of_empty (c : BitVec 16) (r : Vector SenseReturn 8) (before after : List Awaiting)
    (h : ∀ a ∈ before, a.count ≠ c) :
    storeSense c r (before ++ { count := c, slot := none } :: after) =
      some (before ++ { count := c, slot := some r } :: after) := by
  induction before with
  | nil => exact if_pos rfl
  | cons a rest ih =>
    have hrest := ih fun b hb => h b (List.mem_cons_of_mem a hb)
    rw [List.cons_append]
    refine (if_neg (h a List.mem_cons_self)).trans ?_
    rw [hrest]
    rfl

/-- R122: a count that is not awaited, or whose slot holds a record. -/
theorem storeSense_of_none (c : BitVec 16) (r : Vector SenseReturn 8) (list : List Awaiting)
    (h : (∀ a ∈ list, a.count ≠ c) ∨
      (∃ before after v, list = before ++ { count := c, slot := some v } :: after ∧ ∀ a ∈ before, a.count ≠ c)) :
    storeSense c r list = none := by
  induction list with
  | nil => rfl
  | cons a rest ih =>
    by_cases ha : a.count = c
    · rcases h with h | ⟨before, after, v, hlist, hbefore⟩
      · exact absurd ha (h a List.mem_cons_self)
      · cases before with
        | nil =>
          obtain rfl := (List.cons.inj hlist).1
          exact if_pos rfl
        | cons b _ =>
          rw [List.cons_append] at hlist
          obtain rfl := (List.cons.inj hlist).1
          exact absurd ha (hbefore a List.mem_cons_self)
    · refine (if_neg ha).trans ?_
      rw [ih]
      rcases h with h | ⟨before, after, v, hlist, hbefore⟩
      · exact .inl fun b hb => h b (List.mem_cons_of_mem a hb)
      · cases before with
        | nil =>
          obtain rfl := (List.cons.inj hlist).1
          exact absurd rfl ha
        | cons b front =>
          rw [List.cons_append] at hlist
          exact .inr ⟨front, after, v, (List.cons.inj hlist).2, fun d hd => hbefore d (List.mem_cons_of_mem b hd)⟩

/-- R12, R122: the record that passes, as its count and returns. -/
theorem Lane.arrive_withCheck (l : Lane) (c : BitVec 16) (data : List Byte) (h : data.length = 24) :
    l.arrive (withCheck (twoBytes c ++ data)) = l.receive c (senseReturns (withCheck (twoBytes c ++ data))) := by
  have hgood : senseRecordGood (withCheck (twoBytes c ++ data)) = true :=
    (senseRecordGood_iff _).mpr ⟨_, by rw [List.length_append, h]; rfl, rfl⟩
  have hcount : senseCount (withCheck (twoBytes c ++ data)) = c := by
    show BitVec.ofNat 16 (numberOf (twoBytes c)) = c
    rw [numberOf_twoBytes, BitVec.ofNat_toNat, BitVec.setWidth_eq]
  unfold Lane.arrive
  rw [if_pos hgood, hcount]

theorem take_three_drop (m : Nat) (bytes : List Byte) (h : m + 2 < bytes.length) :
    (bytes.drop m).take 3 = [bytes.getD m 0, bytes.getD (m + 1) 0, bytes.getD (m + 2) 0] := by
  rw [List.drop_eq_getElem_cons (by omega), List.drop_eq_getElem_cons (by omega), List.drop_eq_getElem_cons (by omega),
    getD_of_lt (by omega), getD_of_lt (by omega), getD_of_lt h]
  rfl

/-- R12: one lane feed of a sense record. -/
theorem senseReturns_get (c : BitVec 16) (data : List Byte) (h : data.length = 24) (j : Fin 8) :
    (senseReturns (withCheck (twoBytes c ++ data)))[j] =
      { peak := 256 * (data.getD (3 * j.val) 0).toNat + (data.getD (3 * j.val + 1) 0).toNat
        protect := (data.getD (3 * j.val + 2) 0).getLsbD 0
        thermal := (data.getD (3 * j.val + 2) 0).getLsbD 1 } := by
  have hdrop : (withCheck (twoBytes c ++ data)).drop (2 + 3 * j.val) =
      (data ++ [((frameCheck (twoBytes c ++ data)) >>> 8).setWidth 8, (frameCheck (twoBytes c ++ data)).setWidth 8]).drop
        (3 * j.val) := by
    unfold withCheck
    rw [List.append_assoc, ← List.drop_drop, List.drop_left' (by rfl)]
  have hj := j.isLt
  refine (tabulate_get _ j).trans ?_
  rw [hdrop, take_three_drop _ _ (by rw [List.length_append, h]; omega), getD_append_of_lt _ (by omega),
    getD_append_of_lt _ (by omega), getD_append_of_lt _ (by omega)]
  rw [← numberOf_pair]
  rfl

/-- Settles O55. -/
theorem laneRecordsAreSentAndMatched : Obligations.LaneRecordsAreSentAndMatched := by
  refine ⟨fun s i l n hn => ?_, fun s i l n x hn hx => ⟨fun record hbad => ?_, fun c data hlen =>
    ⟨fun before after hwait hbefore => ?_, fun hnone => ?_⟩⟩⟩
  · refine congrArg Host.Outcome.next ((State.modLane_eq hn Lane.sent s).trans ?_)
    refine State.modScreen_congr i s ?_
    rw [Lane.sent, List.drop_one]
  · have hkeep : s.screens[i].lanes[l].arrive record = s.screens[i].lanes[l] :=
      if_neg (mt (senseRecordGood_iff record).mp hbad)
    refine congrArg Host.Outcome.next ((State.modLane_of_lane (f := fun l => l.arrive record) hn s hkeep).trans ?_)
    refine (State.modScreen_congr i (g := fun y => y) s ?_).trans (State.modScreen_id i s)
    have hset : s.screens[i].lanes.set l.val s.screens[i].lanes[l] l.isLt = s.screens[i].lanes := Vector.set_getElem_self _
    rw [hset]
  · refine ⟨senseReturns (withCheck (twoBytes c ++ data)), senseReturns_get c data hlen, ?_⟩
    refine congrArg Host.Outcome.next (State.modLane_of_lane hn s ?_)
    rw [← hx, Lane.arrive_withCheck x c data hlen, Lane.receive, hwait, storeSense_of_empty c _ before after hbefore]
  · refine congrArg Host.Outcome.next (State.modLane_of_lane hn s ?_)
    rw [← hx, Lane.arrive_withCheck x c data hlen, Lane.receive, storeSense_of_none c _ _ hnone]
    rfl

end Sys2Proof.Machine
end

section
/-! PROOFS. The equaliser banks (R84, R87, R88, R90, R91). -/

namespace Sys2Proof.Machine

/-! ## One section -/

theorem roundShift_section (acc : Int) : roundShift acc 22 = (acc + 2097152).fdiv 4194304 := roundShift_eq_fdiv acc 22

theorem satWord_eq (v : Int) : satWord v = max (-2147483648) (min 2147483647 v) := rfl

/-- R87, R88: one sample through the first section of a bank. -/
theorem runSections_cons (e : EqSection) (rest : List EqSection) (w acc y : Int)
    (hacc : acc = e.coeffs.b0 * w + e.coeffs.b1 * e.x1 + e.coeffs.b2 * e.x2 - e.coeffs.a1 * e.y1 - e.coeffs.a2 * e.y2)
    (hy : y = max (-2147483648) (min 2147483647 ((acc + 2097152).fdiv 4194304))) :
    runSections (e :: rest) w =
      ((runSections rest y).1,
       { coeffs := e.coeffs, x1 := w, x2 := e.x1, y1 := y, y2 := e.y1 } :: (runSections rest y).2.1,
       (if y = (acc + 2097152).fdiv 4194304 then 0 else 1) + (runSections rest y).2.2) := by
  have hquotient : e.quotient w = (acc + 2097152).fdiv 4194304 := by
    rw [← roundShift_section, hacc]
    rfl
  have hsat : satWord (e.quotient w) = y := by
    rw [hquotient, hy, satWord_eq]
  have hafter : e.after w = { coeffs := e.coeffs, x1 := w, x2 := e.x1, y1 := y, y2 := e.y1 } := by
    rw [← hsat]
    rfl
  have hclipped : e.saturated w = if y = (acc + 2097152).fdiv 4194304 then 0 else 1 := by
    unfold EqSection.saturated
    rw [hsat, hquotient]
  rw [← hafter, ← hclipped, ← hsat]
  rfl

/-! ## One feed -/

theorem restBank_atRest (bank : List EqSection) : bankAtRest (restBank bank) := by
  intro e he
  obtain ⟨_, -, rfl⟩ := List.mem_map.mp he
  exact ⟨rfl, rfl, rfl, rfl⟩

/-- R91: the crossfade of sample n. -/
theorem crossfade_eq_fdiv (n : Nat) (u v : Int) : crossfade n u v = (u * (48 - n) + v * n + 24).fdiv 48 :=
  (Int.fdiv_eq_ediv_of_nonneg _ (by decide)).symm

/-- R87, R88: an ordinary block. -/
theorem Feed.equalise_active_bank (f : Feed) (words : List Int) (run : BankRun)
    (hrun : run = runBank (f.bank f.active) words) :
    f.equalise f.active words =
      ({ f with
          bankA := if f.active = .a then run.sections else f.bankA
          bankB := if f.active = .b then run.sections else f.bankB
          eqSat := min (f.eqSat + run.saturated) 65535 }, run.outputs) := by
  subst hrun
  obtain ⟨bankA, bankB, active, trim, eqSat, hold, sentOne, sentTwo⟩ := f
  cases active
  · exact if_pos rfl
  · exact if_pos rfl

/-- R90, R91: a switch block. -/
theorem Feed.equalise_switch (f : Feed) (words : List Int) (requested : Bank) (old new : BankRun)
    (hne : requested ≠ f.active) (hold : old = runBank (f.bank f.active) words)
    (hnew : new = runBank (restBank (f.bank requested)) words) :
    f.equalise requested words =
      ({ f with
          bankA := if requested = .a then new.sections else restBank f.bankA
          bankB := if requested = .b then new.sections else restBank f.bankB
          active := requested
          eqSat := min (f.eqSat + (old.saturated + new.saturated)) 65535 },
       crossfadeFrom 0 old.outputs new.outputs) := by
  subst hold hnew
  refine (if_neg hne).trans ?_
  obtain ⟨bankA, bankB, active, trim, eqSat, hold, sentOne, sentTwo⟩ := f
  cases active with
  | a =>
    cases requested with
    | a => exact absurd rfl hne
    | b => rfl
  | b =>
    cases requested with
    | a => rfl
    | b => exact absurd rfl hne

/-- R90: the bank a switch leaves ends at rest. -/
theorem Feed.equalise_switch_rests (f : Feed) (words : List Int) (requested : Bank) (hne : requested ≠ f.active) :
    bankAtRest ((f.equalise requested words).1.bank f.active) := by
  rw [Feed.equalise_switch f words requested _ _ hne rfl rfl]
  obtain ⟨bankA, bankB, active, trim, eqSat, hold, sentOne, sentTwo⟩ := f
  cases active with
  | a =>
    cases requested with
    | a => exact absurd rfl hne
    | b => exact restBank_atRest _
  | b =>
    cases requested with
    | a => exact restBank_atRest _
    | b => exact absurd rfl hne

/-- Settles O57. -/
theorem banksRunTheDirectFormAndCrossfade : Obligations.BanksRunTheDirectFormAndCrossfade := by
  refine ⟨⟨fun _ => rfl, runSections_cons⟩, fun sections => ⟨rfl, rfl, fun w out words left clipped after hrun hafter => ?_⟩,
    fun f words run => ⟨rfl, rfl, Feed.equalise_active_bank f words run⟩,
    fun f words requested old new hne hold hnew => ?_⟩
  · rw [runBank, hrun, ← hafter]
  · have hswitch := Feed.equalise_switch f words requested old new hne hold hnew
    refine ⟨congrArg Prod.fst hswitch, Feed.equalise_switch_rests f words requested hne,
      Feed.equalise_length f requested words, fun n hn => ?_⟩
    have holdLength : old.outputs.length = words.length := hold ▸ (runBank_length _ _).2
    have hnewLength : new.outputs.length = words.length := hnew ▸ (runBank_length _ _).2
    rw [hswitch]
    refine (crossfadeFrom_getD 0 n _ _ (holdLength.trans hnewLength.symm) (holdLength ▸ hn)).trans ?_
    rw [Nat.zero_add, crossfade_eq_fdiv]

end Sys2Proof.Machine
end

section
/-! PROOFS. The render and the patterns (R74 to R77, R106 to R108, R110, R113). -/

namespace Sys2Proof.Machine

/-! ## Noise and tone -/

/-- R106: the raw sample of a register other than 0. -/
theorem noiseSample_range {r : BitVec 23} (h : r ≠ 0) :
    -8388606 ≤ noiseSample r ∧ noiseSample r ≤ 8388606 ∧ noiseSample r % 2 = 0 := by
  have hpos : 0 < r.toNat := Nat.pos_of_ne_zero fun h0 => h (BitVec.eq_of_toNat_eq h0)
  have hlt := r.isLt
  unfold noiseSample
  omega

/-- R108: a pattern value scales by the level and saturates. -/
theorem patternValue_eq (raw q : Int) (r : Fin 12) (hq : q ≤ 22) :
    patternValue (12 * q + r.val) raw =
      max (-8388608) (min 8388607 ((raw * mantissa r.val + 2 ^ (22 - q).toNat).fdiv (2 ^ (23 - q).toNat))) := by
  have hk : (23 - q).toNat - 1 = (22 - q).toNat := by omega
  unfold patternValue
  rw [scaleByCode_eq, roundShift_eq_fdiv, hk]
  rfl

/-- Settles O59: the register, the run, the tone, the scale of a level, then the words a feed takes. -/
theorem noiseRegisterStepsAndNeverStops : Obligations.NoiseRegisterStepsAndNeverStops := by
  refine ⟨fun r => ⟨noiseStep_first r, noiseStep_later r, fun h => ?_⟩,
    fun r n hn => ⟨noiseRun_length 48 r, noiseRun_getD 48 n r hn⟩, fun tone p place n => toneSamples_getD tone p place n,
    fun level raw q r m hlevel _ hle hm => ⟨?_, patternValue_zero raw⟩, inputWords_spec⟩
  · have hne := noiseStep_ne_zero r h
    obtain ⟨hlo, hhi, heven⟩ := noiseSample_range hne
    exact ⟨hne, hlo, hhi, heven, rfl⟩
  · have hmantissa : m = mantissa r.val := hm
    rw [hlevel, hmantissa]
    exact patternValue_eq raw q r (by omega)

/-! ## The render -/

/-- R75: record c fills channel c. -/
theorem Screen.filled_iff (x : Screen) (c : ChannelNo) (k : RecordNo) (h : k.val = c.val) :
    x.filled c = true ↔ x.records[k].state = .action ∧
      ∃ a, x.records[k].recorded = some { action := .fill, amount := a } := by
  have : k = chLossRecord c := Fin.ext h
  subst this
  exact AlarmRecord.acting_iff _ _

theorem silence_getD {t : Nat} (ht : t < 48) : silence.getD t 0 = 0 :=
  (getD_of_lt (by rw [silence, List.length_replicate]; exact ht)).trans (List.getElem_replicate _)

/-- R77: one channel added to the sums of a row. -/
theorem zipWith_addWeighted_getD (a : Int) (acc values : List Int) (t : Nat) (hacc : acc.length = 48)
    (hvalues : values.length = 48) (ht : t < 48) :
    (List.zipWith (fun s v => s + a * v) acc values).getD t 0 = acc.getD t 0 + a * values.getD t 0 := by
  rw [getD_of_lt (by rw [List.length_zipWith]; omega), List.getElem_zipWith,
    getD_of_lt (by omega), getD_of_lt (by omega)]

/-- R77: the sums of a row over a list of channels. -/
theorem rowSums_foldl_getD (row : Vector Int 8) (n : Nat) (values : Vector (List Int) 8) (t : Nat) (ht : t < 48)
    (hvalues : ∀ c : ChannelNo, values[c].length = 48) (channels : List ChannelNo) (acc : List Int)
    (hacc : acc.length = 48) :
    let sums := channels.foldl
      (fun acc c => if c.val < n then List.zipWith (fun a v => a + row[c] * v) acc values[c] else acc) acc
    sums.length = 48 ∧ sums.getD t 0 =
      acc.getD t 0 + (channels.map fun c : ChannelNo => if c.val < n then row[c] * values[c].getD t 0 else 0).sum := by
  induction channels generalizing acc with
  | nil => exact ⟨hacc, (Int.add_zero _).symm⟩
  | cons c rest ih =>
    rw [List.foldl_cons, List.map_cons, List.sum_cons]
    by_cases hc : c.val < n
    · rw [if_pos hc, if_pos hc, ← Int.add_assoc, ← zipWith_addWeighted_getD row[c] acc values[c] t hacc (hvalues c) ht]
      exact ih _ (by rw [List.length_zipWith, hacc, hvalues c]; rfl)
    · rw [if_neg hc, if_neg hc, Int.zero_add]
      exact ih acc hacc

/-- R77: sum of eight products. -/
def renderSum (p : Preset) (values : Vector (List Int) 8) (f : FeedNo) (t : Nat) : Int :=
  ((List.finRange 8).map fun c : ChannelNo =>
    if c.val < p.channels then p.matrix[f][c] * values[c].getD t 0 else 0).sum

theorem renderFeed_getD (p : Preset) (values : Vector (List Int) 8) (f : FeedNo) (t : Nat) (ht : t < 48)
    (hvalues : ∀ c : ChannelNo, values[c].length = 48) (hset : p.feedSet.getLsbD f.val = true) :
    (renderFeed p values f).getD t 0 = roundShift (renderSum p values f t) 14 := by
  obtain ⟨hlen, hsum⟩ := rowSums_foldl_getD p.matrix[f] p.channels values t ht hvalues (List.finRange 8) silence
    List.length_replicate
  have hzero : silence.getD t 0 = 0 := silence_getD ht
  rw [hzero, Int.zero_add] at hsum
  rw [← indexes_eq_finRange] at hlen hsum
  unfold renderFeed
  rw [if_pos hset, renderSum, ← indexes_eq_finRange, ← hsum, rowSums]
  rw [getD_of_lt (by rw [List.length_map, hlen]; exact ht), List.getElem_map,
    getD_of_lt (by rw [hlen]; exact ht)]

/-- R77: a sum of terms within a bound. -/
theorem sum_map_mem {α : Type} (g : α → Int) (b : Int) (l : List α) (h : ∀ a ∈ l, -b ≤ g a ∧ g a ≤ b) :
    -(l.length * b) ≤ (l.map g).sum ∧ (l.map g).sum ≤ l.length * b := by
  induction l with
  | nil => simp
  | cons a rest ih =>
    obtain ⟨hlo, hhi⟩ := h a List.mem_cons_self
    obtain ⟨hlo', hhi'⟩ := ih fun c hc => h c (List.mem_cons_of_mem a hc)
    rw [List.map_cons, List.sum_cons, List.length_cons, Int.natCast_succ, Int.add_mul, Int.one_mul]
    omega

theorem product_mem {m v : Int} (hm : -32768 ≤ m ∧ m ≤ 32767) (hv : inSampleRange v) :
    -274877906944 ≤ m * v ∧ m * v ≤ 274877906944 := by
  obtain ⟨hvlo, hvhi⟩ := hv
  have hm' : m.natAbs ≤ 32768 := by omega
  have hv' : v.natAbs ≤ 8388608 := by omega
  have hmul : (m * v).natAbs ≤ 32768 * 8388608 := by
    rw [Int.natAbs_mul]
    exact Nat.mul_le_mul hm' hv'
  omega

/-- R77: the sum of eight products of a coefficient and a value. -/
theorem renderSum_mem (p : Preset) (values : Vector (List Int) 8) (f : FeedNo) (t : Nat)
    (h : ∀ c : ChannelNo, (-32768 ≤ p.matrix[f][c] ∧ p.matrix[f][c] ≤ 32767) ∧ inSampleRange (values[c].getD t 0)) :
    -(134217728 * 2 ^ 14) ≤ renderSum p values f t ∧ renderSum p values f t ≤ 134217728 * 2 ^ 14 := by
  refine sum_map_mem _ 274877906944 (List.finRange 8) fun c _ => ?_
  split
  · exact product_mem (h c).1 (h c).2
  · decide

/-- Settles O58: the values of a channel, its substitution, then the words of a feed. -/
theorem renderNeedsNoSaturation : Obligations.RenderNeedsNoSaturation := by
  refine ⟨channelInput_spec, Screen.filled_iff, renderInputs_spec, fun filled inputs f => ⟨?_, fun l => tabulate_get _ f⟩,
    fun p values f t ht hvalues => ⟨fun hset => ?_, fun hset => ?_⟩⟩
  · exact Vector.getElem_replicate _
  · unfold renderFeed
    rw [if_neg (by rw [hset]; nofun)]
    exact silence_getD ht
  · rw [renderFeed_getD p values f t ht hvalues hset]
    refine ⟨roundShift_eq_fdiv _ 14, fun hrange => ?_⟩
    obtain ⟨hlo, hhi⟩ := renderSum_mem p values f t hrange
    exact roundShift_mem (by decide) hlo hhi

end Sys2Proof.Machine
end

section
/-! PROOFS. The record a READ returns reads back as itself, and the readers of the commands (R4, R7, R167). -/

namespace Sys2Proof.Machine

/-! ## Fields laid one after another -/

/-- R4: fields taken from the chunks they were laid down as. -/
theorem takeFields_flatten (chunks : List (List Byte)) (rest : List Byte) :
    takeFields (chunks.map List.length) (chunks.flatten ++ rest) = some (chunks.map numberOf, rest) := by
  induction chunks with
  | nil => rfl
  | cons chunk chunks ih =>
    have hbytes : (chunk :: chunks).flatten ++ rest = chunk ++ (chunks.flatten ++ rest) := by
      rw [List.flatten_cons, List.append_assoc]
    rw [hbytes, List.map_cons, takeFields, if_neg (by rw [List.length_append]; omega), List.drop_left, List.take_left, ih]
    rfl

/-- R167: a record of exactly these fields. -/
theorem readFields_flatten (chunks : List (List Byte)) :
    readFields (chunks.map List.length) chunks.flatten = some (chunks.map numberOf) := by
  have h := takeFields_flatten chunks []
  rw [List.append_nil] at h
  unfold readFields
  rw [h]

/-! ## Values of fields -/

theorem numberOf_of_fitsNat {k n : Nat} (h : fitsNat k n = true) : numberOf (beNat k n) = n :=
  numberOf_beNat k n (of_decide_eq_true h)

theorem signedOf_of_fitsInt {k : Nat} {v : Int} (h : fitsInt k v = true) : signedOf k (numberOf (beBytes k v)) = v := by
  unfold fitsInt at h
  rw [Bool.and_eq_true, decide_eq_true_iff, decide_eq_true_iff] at h
  exact signedOf_beBytes k v (by omega) (by omega)

theorem ofNat_of_toNat {w k : Nat} (v : BitVec w) (h : 2 ^ w ≤ 256 ^ k) : BitVec.ofNat w (numberOf (beNat k v.toNat)) = v := by
  rw [numberOf_beNat k _ (Nat.lt_of_lt_of_le v.isLt h), BitVec.ofNat_toNat, BitVec.setWidth_eq]

theorem flagOf_flagByte (f : Bool) : flagOf (numberOf (flagByte f)) = f := by
  cases f <;> rfl

theorem numberOf_singleton (b : Byte) : numberOf [b] = b.toNat := by
  show 0 * 256 + b.toNat = b.toNat
  rw [Nat.zero_mul, Nat.zero_add]

theorem flagOf_toNat (b : Byte) : flagOf b.toNat = (b != 0) := by
  rw [Bool.eq_iff_iff, flagOf, bne_iff_ne, bne_iff_ne]
  exact not_congr ⟨fun h => BitVec.eq_of_toNat_eq h, fun h => congrArg BitVec.toNat h⟩

/-! ## Named values -/

theorem PatternKind.ofCode_code (k : PatternKind) : PatternKind.ofCode (numberOf (beNat 1 (PatternKind.code k))) = some k := by
  cases k <;> rfl

theorem AlarmAction.ofCode_code (a : AlarmAction) : AlarmAction.ofCode (numberOf (beNat 1 (AlarmAction.code a))) = some a := by
  cases a <;> rfl

theorem ClockMode.ofCode_code (m : ClockMode) : ClockMode.ofCode (numberOf (beNat 1 (ClockMode.code m))) = some m := by
  cases m <;> rfl

theorem Trigger.ofCode_code (t : Trigger) : Trigger.ofCode (numberOf (beNat 1 (Trigger.code t))) = some t := by
  cases t <;> rfl

theorem CueAction.ofCode_code (a : CueAction) : CueAction.ofCode (numberOf (beNat 1 (CueAction.code a))) = some a := by
  cases a <;> rfl

theorem Bank.ofCode_code (bank : Bank) : Bank.ofCode (numberOf (beNat 1 (Bank.code bank))) = some bank := by
  cases bank <;> rfl

theorem FillMode.ofCode_code (m : FillMode) : FillMode.ofCode (numberOf (beNat 1 (FillMode.code m))) = some m := by
  cases m <;> rfl

/-! ## Records of fixed length -/

section
variable (index : Nat)

theorem readProfile_profileBytes (p : Profile) (h : p.wf = true) :
    readProfile index (profileBytes p) = .writeProfile index p := by
  unfold Profile.wf at h
  simp only [Bool.and_eq_true] at h
  obtain ⟨⟨⟨⟨⟨⟨hwarn, hact⟩, hclear⟩, hthreshold⟩, hprobe⟩, hfloor⟩, hreduce⟩ := h
  have hfields : readFields [2, 2, 2, 1, 4, 4, 2, 1] (profileBytes p) = _ := readFields_flatten
    [beNat 2 p.warnAfter, beNat 2 p.actAfter, beNat 2 p.clearAfter, beNat 1 (AlarmAction.code p.action),
      beNat 4 p.threshold, beNat 4 p.probeLevel, beNat 2 p.returnFloor, beNat 1 p.reduce]
  unfold readProfile
  rw [hfields]
  simp only [List.map_cons, List.map_nil, AlarmAction.ofCode_code, numberOf_of_fitsNat hwarn, numberOf_of_fitsNat hact,
    numberOf_of_fitsNat hclear, numberOf_of_fitsNat hthreshold, numberOf_of_fitsNat hprobe, numberOf_of_fitsNat hfloor,
    numberOf_of_fitsNat hreduce]

theorem readScreen_settingsBytes (r : ScreenSettings) (h : r.wf = true) :
    readScreen index (settingsBytes r) = .writeScreen index r := by
  unfold ScreenSettings.wf at h
  simp only [Bool.and_eq_true] at h
  obtain ⟨⟨⟨⟨⟨⟨⟨⟨⟨hphase, hlate⟩, hearly⟩, hwindow⟩, hlock⟩, hunlock⟩, hoffset⟩, htimeout⟩, hquota⟩, hmeter⟩ := h
  have hfields : readFields [1, 2, 4, 1, 2, 1, 1, 4, 2, 1, 1] (settingsBytes r) = _ := readFields_flatten
    [beNat 1 r.phase, beNat 2 r.lateLimit, beNat 4 r.earlyLimit, beNat 1 (ClockMode.code r.clockMode),
      beNat 2 r.window, beNat 1 r.lockN, beNat 1 r.unlockN, beBytes 4 r.referenceOffset, beNat 2 r.referenceTimeout,
      beNat 1 r.quota, beNat 1 r.meterInterval]
  unfold readScreen
  rw [hfields]
  simp only [List.map_cons, List.map_nil, ClockMode.ofCode_code, numberOf_of_fitsNat hphase, numberOf_of_fitsNat hlate,
    numberOf_of_fitsNat hearly, numberOf_of_fitsNat hwindow, numberOf_of_fitsNat hlock, numberOf_of_fitsNat hunlock,
    signedOf_of_fitsInt hoffset, numberOf_of_fitsNat htimeout, numberOf_of_fitsNat hquota, numberOf_of_fitsNat hmeter]

theorem readFeed_trim (trim : Int) (h : fitsInt 1 trim = true) : readFeed index (beBytes 1 trim) = .writeFeed index trim := by
  have hfields : readFields [1] (beBytes 1 trim) = _ := readFields_flatten [beBytes 1 trim]
  unfold readFeed
  rw [hfields]
  simp only [List.map_cons, List.map_nil, signedOf_of_fitsInt h]

theorem readPattern_patternBytes (spec : PatternSpec) (h : spec.wf = true) :
    readPattern index (patternBytes spec) = .pattern index spec := by
  have hfields : readFields [1, 2, 2] (patternBytes spec) = _ := readFields_flatten
    [beNat 1 (PatternKind.code spec.kind), beBytes 2 spec.level, beNat 2 spec.mask.toNat]
  unfold readPattern
  rw [hfields]
  simp only [List.map_cons, List.map_nil, PatternKind.ofCode_code, signedOf_of_fitsInt (show fitsInt 2 spec.level = true from h),
    ofNat_of_toNat spec.mask (k := 2) (by decide)]

theorem readStartCheck_checkSpecBytes (spec : CheckSpec) (h : spec.wf = true) :
    readStartCheck index (checkSpecBytes spec) = .startCheck index spec := by
  unfold CheckSpec.wf at h
  simp only [Bool.and_eq_true] at h
  obtain ⟨⟨⟨hlevel, hdwell⟩, hpass⟩, hfloor⟩ := h
  have hfields : readFields [1, 2, 2, 2, 2, 2] (checkSpecBytes spec) = _ := readFields_flatten
    [beNat 1 (PatternKind.code spec.kind), beBytes 2 spec.level, beNat 2 spec.dwell, beNat 2 spec.passCount,
      beNat 2 spec.returnFloor, beNat 2 spec.mask.toNat]
  unfold readStartCheck
  rw [hfields]
  simp only [List.map_cons, List.map_nil, PatternKind.ofCode_code, signedOf_of_fitsInt hlevel, numberOf_of_fitsNat hdwell,
    numberOf_of_fitsNat hpass, numberOf_of_fitsNat hfloor, ofNat_of_toNat spec.mask (k := 2) (by decide)]

/-- R22: the five written fields of a STREAM record. -/
theorem readStream_fields (w : StreamWrite) (order timing : Byte) (h : w.wf = true)
    (horder : ByteOrder.ofCode (numberOf [order]) = some w.order)
    (htiming : TimingMode.ofCode (numberOf [timing]) = some w.timing) :
    readStream index (beNat 2 w.number ++ beNat 1 w.screen ++ beNat 1 w.channels ++ [order, timing]) =
      .writeStream index w := by
  unfold StreamWrite.wf at h
  simp only [Bool.and_eq_true] at h
  obtain ⟨⟨hnumber, hscreen⟩, hchannels⟩ := h
  have hfields : readFields [2, 1, 1, 1, 1] (beNat 2 w.number ++ beNat 1 w.screen ++ beNat 1 w.channels ++ [order, timing]) = _ :=
    readFields_flatten [beNat 2 w.number, beNat 1 w.screen, beNat 1 w.channels, [order], [timing]]
  unfold readStream
  rw [hfields]
  simp only [List.map_cons, List.map_nil, horder, htiming, numberOf_of_fitsNat hnumber, numberOf_of_fitsNat hscreen,
    numberOf_of_fitsNat hchannels]

/-- R151: the written fields of a cue, each as its bytes. -/
def cueChunks (c : CueSpec) : List (List Byte) :=
  [flagByte c.used, beNat 1 c.screen, beNat 1 (Trigger.code c.trigger), beNat 4 c.time.toNat, beNat 2 c.markerCode,
    beNat 1 c.parent, beNat 2 c.delay, beNat 1 (CueAction.code c.action), beNat 1 c.preset, beNat 1 c.fadeTarget,
    beNat 2 c.fadeDuration, beNat 1 c.entry, beNat 1 (Bank.code c.bank), beNat 1 (PatternKind.code c.pattern.kind),
    beBytes 2 c.pattern.level, beNat 2 c.pattern.mask.toNat, beNat 1 (PatternKind.code c.check.kind),
    beBytes 2 c.check.level, beNat 2 c.check.dwell, beNat 2 c.check.passCount, beNat 2 c.check.returnFloor,
    beNat 2 c.check.mask.toNat, beNat 2 c.notifyCode, flagByte c.catchUp, flagByte c.rearm]

theorem cueChunks_length (c : CueSpec) : (cueChunks c).map List.length =
    [1, 1, 1, 4, 2, 1, 2, 1, 1, 1, 2, 1, 1, 1, 2, 2, 1, 2, 2, 2, 2, 2, 2, 1, 1] := rfl

/-- R151: the first 39 bytes of a CUE record. -/
theorem cueBytes_take (c : Cue) : (cueBytes c).take 39 = (cueChunks c.spec).flatten := by
  have hlen : (cueChunks c.spec).flatten.length = 39 := by
    rw [List.length_flatten, cueChunks_length]
    rfl
  have hsplit : cueBytes c = (cueChunks c.spec).flatten ++ (beNat 1 c.state.code ++ (optionBytes (beNat 2) c.countdown ++
      (optionBytes (fun f => beNat 1 (CueFault.code f)) c.lastFault ++ flagByte c.go))) := by
    unfold cueBytes patternBytes checkSpecBytes cueChunks
    simp only [List.flatten_cons, List.flatten_nil, List.append_assoc, List.nil_append]
  rw [hsplit, List.take_left' hlen]

/-- R151: the written fields of a CUE record. -/
theorem readCue_cueBytes (c : Cue) (h : c.spec.wf = true) :
    readCue index ((cueBytes c).take 39) = .writeCue index c.spec := by
  unfold CueSpec.wf at h
  simp only [Bool.and_eq_true] at h
  obtain ⟨⟨⟨⟨⟨⟨⟨⟨⟨⟨hscreen, hmarker⟩, hparent⟩, hdelay⟩, hpreset⟩, htarget⟩, hduration⟩, hentry⟩, hpattern⟩, hcheck⟩,
    hnotify⟩ := h
  unfold CheckSpec.wf at hcheck
  simp only [Bool.and_eq_true] at hcheck
  obtain ⟨⟨⟨hlevel, hdwell⟩, hpass⟩, hfloor⟩ := hcheck
  have hfields := readFields_flatten (cueChunks c.spec)
  rw [cueChunks_length, ← cueBytes_take] at hfields
  unfold readCue
  rw [hfields, cueChunks]
  simp only [List.map_cons, List.map_nil, Trigger.ofCode_code, CueAction.ofCode_code, Bank.ofCode_code,
    PatternKind.ofCode_code, flagOf_flagByte, numberOf_of_fitsNat hscreen, numberOf_of_fitsNat hmarker,
    numberOf_of_fitsNat hparent, numberOf_of_fitsNat hdelay, numberOf_of_fitsNat hpreset, numberOf_of_fitsNat htarget,
    numberOf_of_fitsNat hduration, numberOf_of_fitsNat hentry, numberOf_of_fitsNat hnotify,
    signedOf_of_fitsInt (show fitsInt 2 c.spec.pattern.level = true from hpattern), signedOf_of_fitsInt hlevel,
    numberOf_of_fitsNat hdwell, numberOf_of_fitsNat hpass, numberOf_of_fitsNat hfloor,
    ofNat_of_toNat c.spec.time (k := 4) (by decide), ofNat_of_toNat c.spec.pattern.mask (k := 2) (by decide),
    ofNat_of_toNat c.spec.check.mask (k := 2) (by decide)]

/-! ## Records of a varying length, and tables -/

theorem toList_map_getD {α β : Type} {n : Nat} (v : Vector α n) (g : α → β) (i : Fin n) (d : β) :
    (v.toList.map g).getD i.val d = g v[i] := by
  rw [getD_of_lt (by rw [List.length_map, Vector.length_toList]; exact i.isLt), List.getElem_map,
    Vector.getElem_toList]
  rfl

theorem all_toList {α : Type} {n : Nat} {v : Vector α n} {f : α → Bool} (h : v.toList.all f = true) (i : Fin n) :
    f v[i] = true :=
  List.all_eq_true.mp h _ (Vector.mem_toList_iff.mpr (Vector.getElem_mem i.isLt))

/-- R4: fields of one width, as one chunk each. -/
theorem map_length_beBytes (k : Nat) (values : List Int) :
    (values.map (beBytes k)).map List.length = List.replicate values.length k := by
  rw [List.map_map, List.eq_replicate_iff]
  refine ⟨List.length_map _, fun w hw => ?_⟩
  obtain ⟨v, -, rfl⟩ := List.mem_map.mp hw
  exact beBytes_length k v

theorem readWave_waveBytes (tone : Vector Int 32) (h : tone.toList.all (fitsInt 3) = true) :
    readWave index (waveBytes tone) = .writeWave index tone := by
  have hfields := readFields_flatten (tone.toList.map (beBytes 3))
  rw [map_length_beBytes, Vector.length_toList, ← List.flatMap_def, List.map_map] at hfields
  unfold readWave waveBytes
  rw [hfields]
  refine congrArg (Request.writeWave index) (table_ext fun i => ?_)
  rw [tabulate_get, toList_map_getD, Function.comp_apply, signedOf_of_fitsInt (all_toList h i)]

/-- R85: the sections of a bank. -/
theorem takeSections_sectionBytes (list : List Section) (rest : List Byte) (h : list.all Section.wf = true) :
    takeSections list.length (list.flatMap sectionBytes ++ rest) = some (list, rest) := by
  induction list with
  | nil => rfl
  | cons c list ih =>
    rw [List.all_cons, Bool.and_eq_true] at h
    obtain ⟨hc, hlist⟩ := h
    unfold Section.wf at hc
    simp only [Bool.and_eq_true] at hc
    obtain ⟨⟨⟨⟨hb0, hb1⟩, hb2⟩, ha1⟩, ha2⟩ := hc
    have hfields : takeFields [3, 3, 3, 3, 3] (sectionBytes c ++ (list.flatMap sectionBytes ++ rest)) = _ :=
      takeFields_flatten [beBytes 3 c.b0, beBytes 3 c.b1, beBytes 3 c.b2, beBytes 3 c.a1, beBytes 3 c.a2]
        (list.flatMap sectionBytes ++ rest)
    rw [List.flatMap_cons, List.append_assoc, List.length_cons, takeSections, hfields]
    simp only [List.map_cons, List.map_nil, ih hlist, signedOf_of_fitsInt hb0, signedOf_of_fitsInt hb1,
      signedOf_of_fitsInt hb2, signedOf_of_fitsInt ha1, signedOf_of_fitsInt ha2]

theorem readEqbank_bankBytes (list : List Section) (hlen : list.length < 256) (h : list.all Section.wf = true) :
    readEqbank index (bankBytes (list.map EqSection.atRest)) = .writeEqbank index list := by
  have hbytes : bankBytes (list.map EqSection.atRest) = beNat 1 list.length ++ list.flatMap sectionBytes := by
    unfold bankBytes listBytes
    rw [List.length_map, List.flatMap_map]
    rfl
  have hcount : takeFields [1] (beNat 1 list.length ++ list.flatMap sectionBytes) = _ :=
    takeFields_flatten [beNat 1 list.length] (list.flatMap sectionBytes)
  have hsections := takeSections_sectionBytes list [] h
  rw [List.append_nil] at hsections
  unfold readEqbank
  rw [hbytes, hcount]
  simp only [List.map_cons, List.map_nil, numberOf_beNat 1 list.length hlen, hsections]

/-! ## The PRESET record -/

/-- R67: a fill entry as its raw fields. -/
def FillEntry.raw (e : FillEntry) : Nat × Nat × Int × Option (Nat × Int) :=
  (numberOf (beNat 1 (FillMode.code e.mode)), e.donorA, e.coefA, e.donorB)

theorem takeFills_fillBytes (list : List FillEntry) (rest : List Byte) (h : list.all FillEntry.wf = true) :
    takeFills list.length (list.flatMap fillBytes ++ rest) = some (list.map FillEntry.raw, rest) := by
  induction list with
  | nil => rfl
  | cons e list ih =>
    rw [List.all_cons, Bool.and_eq_true] at h
    obtain ⟨he, hlist⟩ := h
    unfold FillEntry.wf at he
    rw [Bool.and_eq_true, Bool.and_eq_true] at he
    obtain ⟨⟨hdonor, hcoef⟩, hsecond⟩ := he
    obtain ⟨mode, donorA, coefA, donorB⟩ := e
    rw [List.flatMap_cons, List.append_assoc, List.length_cons, takeFills]
    cases donorB with
    | none =>
      have hfields : takeFields [1, 1, 2, 1] (fillBytes { mode := mode, donorA := donorA, coefA := coefA, donorB := none } ++
          (list.flatMap fillBytes ++ rest)) = _ :=
        takeFields_flatten [beNat 1 (FillMode.code mode), beNat 1 donorA, beBytes 2 coefA, [0]]
          (list.flatMap fillBytes ++ rest)
      rw [hfields]
      simp only [List.map_cons, List.map_nil, ih hlist, numberOf_of_fitsNat hdonor, signedOf_of_fitsInt hcoef]
      rfl
    | some second =>
      obtain ⟨donor, coef⟩ := second
      obtain ⟨hdonor2, hcoef2⟩ := (Bool.and_eq_true _ _).mp hsecond
      have hfields : takeFields [1, 1, 2, 1]
          (fillBytes { mode := mode, donorA := donorA, coefA := coefA, donorB := some (donor, coef) } ++
            (list.flatMap fillBytes ++ rest)) = _ :=
        takeFields_flatten [beNat 1 (FillMode.code mode), beNat 1 donorA, beBytes 2 coefA, [1]]
          (beNat 1 donor ++ beBytes 2 coef ++ (list.flatMap fillBytes ++ rest))
      have hrest : takeFields [1, 2] (beNat 1 donor ++ beBytes 2 coef ++ (list.flatMap fillBytes ++ rest)) = _ :=
        takeFields_flatten [beNat 1 donor, beBytes 2 coef] (list.flatMap fillBytes ++ rest)
      have hpresent : flagOf (numberOf [(1 : Byte)]) = true := rfl
      rw [hfields]
      simp only [List.map_cons, List.map_nil, hpresent, if_true, hrest, ih hlist, numberOf_of_fitsNat hdonor,
        signedOf_of_fitsInt hcoef, numberOf_of_fitsNat hdonor2, signedOf_of_fitsInt hcoef2]
      rfl

theorem nameFills_raw (list : List FillEntry) : nameFills (list.map FillEntry.raw) = some list := by
  induction list with
  | nil => rfl
  | cons e list ih =>
    rw [List.map_cons, FillEntry.raw, nameFills, FillMode.ofCode_code, ih]

/-- R67: entry i of row f in the rows laid one after another. -/
theorem flatten_getD {α : Type} (w : Nat) (rows : List (List α)) (d : α) (h : ∀ r ∈ rows, r.length = w) (f i : Nat)
    (hf : f < rows.length) (hi : i < w) : rows.flatten.getD (w * f + i) d = (rows.getD f []).getD i d := by
  induction rows generalizing f with
  | nil => exact absurd hf (Nat.not_lt_zero f)
  | cons row rows ih =>
    have hrow := h row List.mem_cons_self
    rw [List.flatten_cons]
    cases f with
    | zero =>
      rw [Nat.mul_zero, Nat.zero_add, getD_append_of_lt _ (by rw [hrow]; exact hi)]
      rfl
    | succ f =>
      rw [getD_append_of_le _ (by rw [hrow, Nat.mul_succ]; omega), hrow,
        show w * (f + 1) + i - w = w * f + i by rw [Nat.mul_succ]; omega]
      exact ih (fun r hr => h r (List.mem_cons_of_mem row hr)) f (Nat.lt_of_succ_lt_succ hf)

/-- R67: the coefficients of a preset, each as its bytes. -/
def matrixRows (p : Preset) : List (List (List Byte)) := p.matrix.toList.map fun row => row.toList.map (beBytes 2)

theorem matrixRows_bytes (p : Preset) :
    (matrixRows p).flatten.flatten = p.matrix.toList.flatMap fun row => row.toList.flatMap (beBytes 2) := by
  unfold matrixRows
  rw [List.flatten_flatten, List.map_map]
  rfl

theorem matrixRows_row_length (p : Preset) : ∀ row ∈ matrixRows p, row.length = 8 := by
  intro row hrow
  obtain ⟨r, -, rfl⟩ := List.mem_map.mp hrow
  rw [List.length_map, Vector.length_toList]

theorem matrixRows_widths (p : Preset) : (matrixRows p).flatten.map List.length = List.replicate 128 2 := by
  have hcount : (matrixRows p).flatten.length = 128 := by
    have hlengths : (matrixRows p).map List.length = List.replicate 16 8 :=
      List.eq_replicate_iff.mpr ⟨by rw [List.length_map, matrixRows, List.length_map, Vector.length_toList],
        fun n hn => by
          obtain ⟨row, hrow, rfl⟩ := List.mem_map.mp hn
          exact matrixRows_row_length p row hrow⟩
    rw [List.length_flatten, hlengths]
    rfl
  refine List.eq_replicate_iff.mpr ⟨by rw [List.length_map, hcount], fun n hn => ?_⟩
  obtain ⟨chunk, hchunk, rfl⟩ := List.mem_map.mp hn
  obtain ⟨row, hrow, hmem⟩ := List.mem_flatten.mp hchunk
  obtain ⟨r, -, rfl⟩ := List.mem_map.mp hrow
  obtain ⟨v, -, rfl⟩ := List.mem_map.mp hmem
  exact beBytes_length 2 v

theorem matrixRows_getD (p : Preset) (f : FeedNo) (c : ChannelNo) :
    ((matrixRows p).flatten.map numberOf).getD (8 * f.val + c.val) 0 = numberOf (beBytes 2 p.matrix[f][c]) := by
  have hrows : ∀ row ∈ (matrixRows p).map (List.map numberOf), row.length = 8 := by
    intro row hrow
    obtain ⟨r, hr, rfl⟩ := List.mem_map.mp hrow
    rw [List.length_map, matrixRows_row_length p r hr]
  have hcount : ((matrixRows p).map (List.map numberOf)).length = 16 := by
    rw [List.length_map, matrixRows, List.length_map, Vector.length_toList]
  rw [List.map_flatten, flatten_getD 8 _ 0 hrows f c (by rw [hcount]; exact f.isLt) c.isLt, matrixRows, List.map_map,
    toList_map_getD, Function.comp_apply, List.map_map, toList_map_getD, Function.comp_apply]

theorem presetBytes_eq_chunks (p : Preset) : presetBytes p =
    [flagByte p.used, beNat 1 p.channels, beNat 1 p.monitored.toNat, beNat 2 p.feedSet.toNat].flatten ++
      ((matrixRows p).flatten.flatten ++ p.fill.toList.flatMap fillBytes) := by
  unfold presetBytes
  rw [matrixRows_bytes]
  simp only [List.flatten_cons, List.flatten_nil, List.append_assoc, List.nil_append]

theorem readPreset_presetBytes (p : Preset) (h : p.wf = true) : readPreset index (presetBytes p) = .writePreset index p := by
  unfold Preset.wf at h
  rw [Bool.and_eq_true, Bool.and_eq_true] at h
  obtain ⟨⟨hchannels, hmatrix⟩, hfill⟩ := h
  have hhead : takeFields [1, 1, 1, 2] (presetBytes p) = _ := (congrArg _ (presetBytes_eq_chunks p)).trans
    (takeFields_flatten [flagByte p.used, beNat 1 p.channels, beNat 1 p.monitored.toNat, beNat 2 p.feedSet.toNat]
      ((matrixRows p).flatten.flatten ++ p.fill.toList.flatMap fillBytes))
  have hcodes := takeFields_flatten (matrixRows p).flatten (p.fill.toList.flatMap fillBytes)
  rw [matrixRows_widths] at hcodes
  have hfills := takeFills_fillBytes p.fill.toList [] hfill
  rw [List.append_nil, Vector.length_toList] at hfills
  have hcoef : (tabulate fun f : FeedNo => tabulate fun c : ChannelNo =>
      signedOf 2 (((matrixRows p).flatten.map numberOf).getD (8 * f.val + c.val) 0)) = p.matrix :=
    table_ext fun f => table_ext fun c => by
      rw [tabulate_get, tabulate_get, matrixRows_getD, signedOf_of_fitsInt (all_toList (all_toList hmatrix f) c)]
  have hentries : (tabulate fun i : ChannelNo =>
      p.fill.toList.getD i.val { mode := .none, donorA := 0, coefA := 0, donorB := none }) = p.fill :=
    table_ext fun i => by
      have hget := toList_map_getD p.fill id i { mode := .none, donorA := 0, coefA := 0, donorB := none }
      rw [List.map_id] at hget
      rw [tabulate_get, hget]
      rfl
  unfold readPreset
  rw [hhead]
  simp only [List.map_cons, List.map_nil, hcodes, hfills, nameFills_raw, flagOf_flagByte, numberOf_of_fitsNat hchannels,
    ofNat_of_toNat p.monitored (k := 1) (by decide), ofNat_of_toNat p.feedSet (k := 2) (by decide), hcoef, hentries]

/-! ## Commands with arguments -/

theorem readSetFader_singleton (f : Byte) : readSetFader index [f] = .setFader index f.toNat := by
  have hfields : readFields [1] [f] = _ := readFields_flatten [[f]]
  unfold readSetFader
  rw [hfields]
  simp only [List.map_cons, List.map_nil, numberOf_singleton]

theorem readFade_twoBytes (target : Byte) (duration : BitVec 16) :
    readFade index (target :: twoBytes duration) = .fade index target.toNat duration.toNat := by
  have hfields : readFields [1, 2] (target :: twoBytes duration) = _ := readFields_flatten [[target], twoBytes duration]
  unfold readFade
  rw [hfields]
  simp only [List.map_cons, List.map_nil, numberOf_singleton, numberOf_twoBytes]

theorem readSetPreset_pair {present : Byte} (p : Byte) (h : present ≠ 0) :
    readSetPreset index [present, p] = .setPreset index (some p.toNat) :=
  if_pos (by rw [flagOf_toNat, bne_iff_ne]; exact h)

/-- R173: the scope code and the clear flag. -/
theorem readReadTally_pair (code flag : Byte) {scope : TallyScope}
    (hscope : TallyScope.ofCode (numberOf [code]) = some scope) :
    readReadTally index [code, flag] = .readTally index scope (flag != 0) := by
  have hfields : readFields [1, 1] [code, flag] = _ := readFields_flatten [[code], [flag]]
  unfold readReadTally
  rw [hfields]
  simp only [List.map_cons, List.map_nil, hscope, numberOf_singleton flag, flagOf_toNat]

theorem readReadMeter_singleton (flag : Byte) : readReadMeter index [flag] = .readMeter index (flag != 0) := by
  have hfields : readFields [1] [flag] = _ := readFields_flatten [[flag]]
  unfold readReadMeter
  rw [hfields]
  simp only [List.map_cons, List.map_nil, numberOf_singleton, flagOf_toNat]

end

/-! ## Envelopes -/

/-- R167: a WRITE goes to the reader of its table. -/
theorem judgeEnvelope_write_eq (index : Nat) (args : List Byte) {code : Nat} {table : Table}
    (h : Table.ofCode code = some table) : judgeEnvelope 2 code index args = readWrite table index args := by
  unfold judgeEnvelope
  rw [if_neg (by decide), if_pos rfl, h]

/-- Settles O60: each record is the flattening of its fields, and a reader takes those fields back. -/
theorem recordReadBackIsTheRecordWritten : Obligations.RecordReadBackIsTheRecordWritten := by
  unfold Obligations.RecordReadBackIsTheRecordWritten
  intro index
  refine ⟨readPreset_presetBytes index, readEqbank_bankBytes index, readProfile_profileBytes index,
    readWave_waveBytes index,
    fun r h => (judgeEnvelope_write_eq index _ (table := .screen) rfl).trans (readScreen_settingsBytes index r h),
    readFeed_trim index, readPattern_patternBytes index, readStartCheck_checkSpecBytes index, fun w h => ?stream,
    fun c h => (judgeEnvelope_write_eq index _ (table := .cue) rfl).trans (readCue_cueBytes index c h), ?reads, ?commands,
    readSetFader_singleton index, readFade_twoBytes index, rfl, fun present p h => readSetPreset_pair index p h, rfl, rfl,
    fun flag => ?tallies, readPreset_flag index, fun args i place => ?presence, readCue_flags index⟩
  case stream =>
    refine readStream_fields index w _ _ h ?order ?timing
    case order => cases w.order <;> rfl
    case timing => cases w.timing <;> rfl
  case presence =>
    intro hplace hset
    show readPreset index (args.set place 1) = readPreset index args
    exact readPreset_presence index args i place hplace hset
  case reads => exact ⟨rfl, rfl, rfl, rfl, rfl, rfl, rfl, rfl⟩
  case commands => exact ⟨rfl, rfl, rfl, rfl, rfl, rfl, rfl, rfl, rfl, rfl, rfl, rfl, rfl, rfl, rfl⟩
  case tallies =>
    exact ⟨readReadTally_pair index 0 flag rfl, readReadTally_pair index 1 flag rfl, readReadTally_pair index 2 flag rfl,
      readReadTally_pair index 3 flag rfl, readReadTally_pair index 4 flag rfl, readReadMeter_singleton index flag⟩

end Sys2Proof.Machine
end
